-- ==== Sys2Proof/Word.lean ====
section
/-! DEFINITION. Word types: the bit vectors that the manual numbers as registers, addresses and fields. -/

namespace Sys2Proof

/-- One byte; all structures are little-endian rows of these (R2). -/
abbrev Byte := BitVec 8
/-- A 16-bit field. -/
abbrev U16 := BitVec 16
/-- A 32-bit field, or the bits of an LF32 value (R29). -/
abbrev U32 := BitVec 32
/-- A 64-bit register or field. -/
abbrev U64 := BitVec 64
/-- A queue number, Q0 to Q262143 (R300, R304). -/
abbrev QueueId := BitVec 18
/-- A physical index 42 × r + p of R85, 0 to 1,259. -/
abbrev PosId := Fin 1260
/-- A local stream slot, 8 × physical index + slot (R299). -/
abbrev SlotId := Fin 10080
/-- A link L0 to L47 (R410). -/
abbrev LinkId := Fin 48
/-- A memory channel k, 0 to 255 (R386). -/
abbrev ChanId := BitVec 8
/-- A module ID of the fabric (R411). -/
abbrev ModId := BitVec 14

/-- Errors that the code of a core's local memory finds as a command reads it (R63): word address, and whether uncorrectable. -/
abbrev LmErrors := List (BitVec 20 × Bool)

/-- A sparse table: keys strictly rising, and no entry equal to what an unlisted key reads as. -/
abbrev Sparse (α : Type) := List (Nat × α)

end Sys2Proof
end

