-- ==== Sys2Proof/Syntax.lean ====
section
/-! DEFINITION. The commands of the block: one constructor of Instr per row of the opcode table, with the operands its rule names. -/

namespace Sys2Proof

/-- Element formats of R29. -/
inductive Fmt where
  | lf32 | lf16 | lf8r | lf8p | int8 | int16 | int32 | bin8 | bin16 | xs64 | xs128
deriving DecidableEq, Repr

/-- The 2-bit rounding field of R49; 0b11 is reserved and has no value here. -/
inductive Rnd where
  | nearestEven | towardZero | stochastic
deriving DecidableEq, Repr

/-- A fetched ring entry (R310): its 64 bytes, and whether its read was poisoned (R291). -/
structure RingEntry where
  bytes    : List Byte
  poisoned : Bool
deriving DecidableEq, Repr

/-- Summation order of R93 and R94. -/
inductive SumOrder where
  | seq | tile
deriving DecidableEq, Repr

/-- The fields of an accumulation control field (R90). -/
structure AccCtl where
  order : SumOrder
  /-- CHUNK: 0 none, 1 256 terms, 2 1,024 terms, 3 4,096 terms. -/
  chunk : BitVec 2
  first : Bool
  iov   : Bool
  rnd   : Rnd
deriving DecidableEq, Repr

/-- One matrix array step (R64): the operand formats, the local address of the left row, the tile row,
the k position of the first term, the end K of the reduction dimension, the count of present columns (R237)
the accumulation control field (R90) and the index of the instruction in its program (R118). -/
structure ArrayOp where
  left    : Fmt
  weight  : Fmt
  addr    : BitVec 20
  row     : BitVec 9
  k0      : U32
  kEnd    : U32
  columns : Fin 33
  ctl     : BitVec 16
  instr   : U32
  lmErrors : LmErrors
deriving DecidableEq, Repr

/-- Where the vector unit reads an operand (R67): a line of local memory, a tile row, or one element of local memory for
every lane (R260 to R262). -/
inductive VSrc where
  | lm (addr : BitVec 20)
  | acc (row : BitVec 9)
  | scalar (addr : BitVec 20)
deriving DecidableEq, Repr

/-- The unary functions of R68. -/
inductive VFun where
  | reciprocal | sqrt | rsqrt | exp | exp2 | log | log2 | logistic | tanh | erf | abs | neg
deriving DecidableEq, Repr

/-- Comparisons of R57. -/
inductive VCmp where
  | eq | ne | lt | le | gt | ge
deriving DecidableEq, Repr

/-- The row programs of R260 to R262. -/
inductive RowKind where
  | softmax | softmaxBack | norm | normBack
deriving DecidableEq, Repr

/-- A row of n LF32 elements that one core holds whole (R260): the local addresses of its operand rows a, b and c, of its
scalars, and of the rows it writes. softmax: a is x. softmaxBack: a is y, b dy. norm: a is x, b gamma, c beta, out2 takes xh
and mean, variance and rOut are scalars. normBack: a is dy, b gamma, c xh, and rOut is r. -/
structure RowOp where
  kind     : RowKind
  n        : Nat
  a        : BitVec 20
  b        : BitVec 20
  c        : BitVec 20
  out      : BitVec 20
  out2     : BitVec 20
  mean     : BitVec 20
  variance : BitVec 20
  rOut     : BitVec 20
  eps      : U32
deriving DecidableEq, Repr

/-- Vector operations of R67, R68, R106, R258 to R262. -/
inductive VOp where
  | add | sub | mul | fma | div | min | max
  | cmp (c : VCmp)
  | fn (f : VFun)
  /-- A conversion of R52. base: the base of an XS source; base2: the base of an XS target. -/
  | convert (target : Fmt) (sat iov : Bool) (base base2 : U16)
  /-- chunked: each chunk of 256 positions has a sum of its own (R106 step 4). -/
  | reduceSum (chunked : Bool)
  | reduceMin | reduceMax
  /-- The gradient through an activation, and a product of the backward pass, in lanes (R258, R259). -/
  | actBackward (code : BitVec 4) (param : U32) (sat : Bool)
  | mulBackward (sat : Bool)
  | row (r : RowOp)
deriving DecidableEq, Repr

/-- A vector operation: its format, operand lines a and b, the addend c of a fused multiply-add, the lanes present, the
destination line, the rounding field, and what stochastic rounding needs (R51: tensor, index of lane 0). For a
reduction (R106) index is the element position of lane 0, and b holds in lane 0 what earlier lines gave. An XS source has
its tag plane at b; an XS target, or the XS total of an integer sum, has its tag plane at c.  -/
structure VecOp where
  op     : VOp
  fmt    : Fmt
  a      : VSrc
  b      : VSrc
  c      : VSrc
  lanes  : Fin 129
  dst    : BitVec 20
  rnd    : Rnd
  tensor : U32
  index  : BitVec 48
  instr  : U32
  lmErrors : LmErrors
deriving DecidableEq, Repr

/-- A promotion (R70): a tile row into the XS total at the given value and tag planes. -/
structure PromoOp where
  row    : BitVec 9
  wide   : Bool
  base   : U16
  rnd    : Rnd
  /-- The tile row holds INT32 chunk sums (R97). -/
  ints   : Bool
  values : BitVec 20
  tags   : BitVec 20
  columns : Fin 33
  tensor : U32
  index  : BitVec 48
  instr  : U32
  lmErrors : LmErrors
deriving DecidableEq, Repr

/-- A preload (R103): a bias line for every tile row, or a residual tensor with one line per tile row. An XS source has its
tag plane at tags and its base. -/
structure PreloadOp where
  residual : Bool
  src      : BitVec 20
  fmt      : Fmt
  /-- The entries are INT32. -/
  ints     : Bool
  firstRow : BitVec 9
  rows     : Fin 513
  rnd      : Rnd
  sat      : Bool
  iov      : Bool
  base     : U16
  tags     : BitVec 20
  tensor   : U32
  index    : BitVec 48
  instr    : U32
  lmErrors : LmErrors
deriving DecidableEq, Repr

/-- An output-stage instruction (R109, R110): the 64-bit control field and the operand lines it names. -/
structure OutOp where
  control  : U64
  row      : BitVec 9
  ints     : Bool
  values   : BitVec 20
  tags     : BitVec 20
  wide     : Bool
  base     : U16
  scale    : U32
  scaleAt  : BitVec 20
  biasAt   : BitVec 20
  second   : BitVec 20
  secondLf16 : Bool
  columns  : Fin 33
  dst      : BitVec 20
  tensor   : U32
  index    : BitVec 48
  instr    : U32
  lmErrors : LmErrors
deriving DecidableEq, Repr

/-- MOMENTS and SUMSQ (R107): one line of LF32 or LF16 elements into the XS totals T1 and T2. -/
structure MomOp where
  lf16  : Bool
  src   : BitVec 20
  lanes : Fin 129
  wide  : Bool
  base1 : U16
  base2 : U16
  t1    : BitVec 20
  t1Tag : BitVec 20
  t2    : BitVec 20
  t2Tag : BitVec 20
  rnd   : Rnd
  tensor : U32
  /-- Element position of lane 0 (R107, R51). -/
  index : BitVec 48
  instr : U32
  lmErrors : LmErrors
deriving DecidableEq, Repr

/-- The MOMENTS finish (R108). -/
structure MomFinOp where
  wide  : Bool
  base1 : U16
  base2 : U16
  t1    : BitVec 20
  t1Tag : BitVec 20
  t2    : BitVec 20
  t2Tag : BitVec 20
  count : U32
  /-- D: the divisor N (false) or N − 1 (true). -/
  sample : Bool
  rnd   : Rnd
  mean  : BitVec 20
  variance : BitVec 20
  tensor : U32
  index : BitVec 48
  instr : U32
  lmErrors : LmErrors
deriving DecidableEq, Repr

/-- A Squirrel instruction (R71): the ensemble version, the records in local memory and where results go. -/
structure SquirrelOp where
  ensemble : BitVec 12
  version  : U32
  /-- The active half of the node store, and the trees whose blocks it holds. -/
  nodeB    : Bool
  treeFirst : BitVec 20
  treeCount : BitVec 20
  raw      : Bool
  /-- Where the boundary tables of the raw features lie. -/
  boundsAt : BitVec 20
  records  : BitVec 20
  count    : Fin 257
  /-- KEYS of R152 with FIRST and LAST. -/
  keys     : BitVec 2
  keyFirst : U32
  keyLast  : U32
  keysAt   : BitVec 20
  leavesAt : BitVec 20
  writeCodes : Bool
  instr    : U32
  lmErrors : LmErrors
deriving DecidableEq, Repr

/-- Where a blocking read of thread mode reads (R78): the stacks, host memory or another core's local memory. -/
inductive FarSrc where
  | stacks (addr : BitVec 40)
  | host (addr : U64)
  | core (p : PosId) (addr : BitVec 20)
deriving DecidableEq, Repr

/-- An operation of a unit that the threads of a core share (R78). -/
inductive UnitOp where
  | arrayStep (op : ArrayOp)
  | weightLoad (fmt : Fmt) (addr : BitVec 20) (lmErrors : LmErrors)
  | weightSwap
  | vectorOp (op : VecOp)
  | promotion (op : PromoOp)
  | preload (op : PreloadOp)
  | outputStage (op : OutOp)
  | moments (op : MomOp)
  | sumsq (op : MomOp)
  | momentsFinish (op : MomFinOp)
deriving DecidableEq, Repr

/-- Instructions of thread mode (R78). The manual fixes what a thread has, not an instruction encoding. -/
inductive ThreadInstr where
  | setReg (rd : Fin 32) (value : U64)
  | add (rd ra rb : Fin 32)
  | loadLocal (rd : Fin 32) (addr : BitVec 20)
  | storeLocal (rs : Fin 32) (addr : BitVec 20)
  /-- A read of 64 B or less into local memory at dest: the thread blocks. -/
  | readFar (src : FarSrc) (bytes : Fin 65) (dest : BitVec 20)
  | useUnit (op : UnitOp)
  /-- A SWAP of a stream slot of the core (R297). -/
  | swap (slot : Fin 8)
  | jump (target : U64)
deriving DecidableEq, Repr

/-- A data flit (R418, R419): its header fields and payload. -/
structure Flit where
  stamp    : U32
  dest     : ModId
  type     : BitVec 4
  seq      : BitVec 12
  dateline : Bool
  cls      : Bool
  poison   : BitVec 15
  len      : Byte
  target   : BitVec 41
  payload  : List Byte
  /-- The origin of the flow (R424), which the route choice uses. -/
  origin   : ModId
  /-- The flow key of R424, which the route choice uses. -/
  flowKey  : U32
  /-- How many of its two codewords the receiver corrected (R417, R421). -/
  fec      : Fin 3
deriving DecidableEq, Repr

/-- A control flit (R421). -/
structure CtlFlit where
  ackSeq  : BitVec 12
  resend  : Option (BitVec 12)
  credits : List Nat
  lanesOk : BitVec 4
  /-- How many of its two codewords the receiver corrected (R417, R421). -/
  fec     : Fin 3
deriving DecidableEq, Repr

/-- What one link training found (R414 to R416). -/
structure TrainResult where
  /-- The lane numbers seen, lane 0 first. -/
  laneOrder : List (BitVec 2)
  inverted  : BitVec 4
  /-- Bit i: lane i failed DETECT, EQUALISE or LOCK. -/
  badLanes  : BitVec 4
  peerId    : ModId
  peerFace  : BitVec 3
  peerLink  : BitVec 3
  roundTrip : U32
deriving DecidableEq, Repr

/-- What the first steps of a start meet (R515, R519): input, regulators and memory training. -/
structure StartEnv where
  inputMv       : U16
  reversed      : Bool
  regulatorFail : Bool
  trainingFail  : Bool
deriving DecidableEq, Repr

/-- What the self-test of step 8 of R515 finds: failing cores, failing routers' rows, failing row regulators, and a
failing shared block. -/
structure SelfTest where
  badCores  : List PosId
  badRouterRows : List (Fin 30)
  badRegulatorRows : List (Fin 30)
  sharedFail : Bool
deriving DecidableEq, Repr

/-- One damaged symbol of a granule as it is read (R398): position 0 to 71 and the bits that differ. -/
structure SymbolError where
  position : Fin 72
  flips    : Byte
deriving DecidableEq, Repr

/-- One health tick's measurements (R504, R510, R395). -/
structure TickEnv where
  p1         : BitVec 11
  inputMv    : U16
  inputCa    : U16
  readings   : List U16
  opens      : List Bool
  /-- Running groups were held or idle for more than half the cycles. -/
  effLower   : Bool
  energyMj   : Nat
  innerCounts : List (Nat × Nat)
  /-- The Owl's management views (R522): KIND, index, management state code, and the cause it gives for a fence. -/
  views      : List (Nat × Nat × Nat × BitVec 4)
deriving DecidableEq, Repr

/-- Owner of a bank of local memory (R62). -/
inductive BankOwner where
  | program
  | streamHalf (slot : Fin 8) (half : Bool)
  /-- A weight-store half of a sharded tensor (R240). -/
  | weightHalf (tensor : U32) (backward half : Bool)
  | nodeHalf (half : Bool)
deriving DecidableEq, Repr

/-- A bank as a load image declares it (R62, R366). -/
structure BankDecl where
  core     : BitVec 11
  bank     : BitVec 4
  owner    : BankOwner
  retained : Bool
deriving DecidableEq, Repr

/-- A matrix instruction of a load image as the loader judges it (R64, R90, R95, R100). -/
structure MatDecl where
  left   : Fmt
  weight : Fmt
  /-- The accumulation control field. -/
  control : BitVec 16
  /-- The step is of a weight-gradient product (R238). -/
  wgrad  : Bool
deriving DecidableEq, Repr

/-- One step of a matrix reduction as the loader checks it (R98). -/
structure RedStep where
  k0    : Nat
  k1    : Nat
  core  : BitVec 11
  first : Bool
deriving DecidableEq, Repr

/-- A matrix reduction's schedule as the loader checks it (R98, R99, R104). -/
structure RedDecl where
  chunk : BitVec 2
  kEnd  : Nat
  steps : List RedStep
  /-- Promotions: the core and how many terms had been summed when it is issued. -/
  promotions : List (BitVec 11 × Nat)
  preloadContributors : Nat
  preloadStartsChunk  : Bool
deriving DecidableEq, Repr

/-- A transfer that the route programs of an image carry over the mesh (R72): the schedule cycle at which its flit is read,
the logical cores it passes, source first and destination last, its local addresses and bytes. xs: the flit carries XS
elements, with their tags at the two further addresses, and its elements add to the totals at the destination (R101). -/
structure RouteDecl where
  cycle   : Nat
  cores   : List (BitVec 11)
  srcAddr : BitVec 20
  dstAddr : BitVec 20
  bytes   : Fin 257
  xs      : Option (Bool × BitVec 20 × BitVec 20)
deriving DecidableEq, Repr

/-- A tensor of a dense group (R239 to R241, R248): the layer and the kind of deferred sum that its gradients come from (1
WGRAD_TILE; 2 BIAS_SUM, 3 SCALE_SUM, 4 NORM_SUM's gamma, 5 its beta), its K × N elements (K = 1 but for kind 1), and how an
update forms it. -/
structure TensorDecl where
  id      : U32
  layer   : Byte
  kind    : Fin 6
  k       : Nat
  n       : Nat
  sharded : Bool
  fmt     : Fmt
  rnd     : Rnd
  sat     : Bool
  opt     : Byte
  mu      : U32
  eps     : U32
  /-- Base of the XS64 gradient totals. -/
  base    : U16
  /-- Offsets of LR and GRAD_SCALE in the constant buffer. -/
  lrAt    : BitVec 8
  scaleAt : BitVec 8
  /-- Local addresses of a core's part in stash slots 0 to 3, in the forward and in the backward layout. -/
  fwdSlots : List (BitVec 20)
  bwdSlots : List (BitVec 20)
  /-- Local addresses of weight-store halves A and B of each layout (R240). -/
  fwdHalves : BitVec 20 × BitVec 20
  bwdHalves : BitVec 20 × BitVec 20
  /-- Array steps of a rotation step and the cycles that the schedule gives it, for each layout (R240). -/
  fwdSteps  : Nat × Nat
  bwdSteps  : Nat × Nat
deriving DecidableEq, Repr

/-- A stage of a tower: a dense group and its tensors (R239, R256). -/
structure StageDecl where
  first   : BitVec 11
  size    : Nat
  tensors : List TensorDecl
deriving DecidableEq, Repr

/-- A tower (R249, R254, R256): its stash header's address, its mode (STEP or MICRO with LAG and U), the micro-batches of a step,
its stages, and when its updates run and the contributions to each arrive, by cycle. -/
structure TowerDecl where
  header   : BitVec 40
  micro    : Bool
  lag      : Byte
  u        : U16
  perStep  : Nat
  stages   : List StageDecl
  updates  : List (Nat × Nat)
  contribs : List (Nat × Nat)
deriving DecidableEq, Repr

/-- A step of a core's static order as R253 judges it. -/
inductive OrderStep where
  /-- A forward that needs a version. -/
  | forward (version : Nat)
  /-- The backward pass that retires a version. -/
  | retire (version : Nat)
deriving DecidableEq, Repr

/-- A gap slot of a core (R245): in the array or the vector unit, its first cycle and its cycles. -/
structure GapDecl where
  core   : BitVec 11
  array  : Bool
  first  : Nat
  cycles : Nat
deriving DecidableEq, Repr

/-- A deferred-work list that the loader writes (R244): its core, its unit, its local address, and its entries of 16 bytes, each
with the cycle from which the results that it needs are there (R245). -/
structure DeferDecl where
  core    : BitVec 11
  array   : Bool
  listAt  : BitVec 20
  entries : List (Nat × List Byte)
deriving DecidableEq, Repr

/-- What a SWAP of a dense group's core is beside the half of a stream (R168, R239, R240, R250, R252). -/
inductive DenseSwap where
  /-- Micro-batch μ begins its forward pass: its header is formed at the start of the activation half. -/
  | start (header : BitVec 40) (micro : U64) (headerAt : BitVec 20)
  /-- A product of the micro-batch with the header begins: the core's home shard of the version in TAG becomes its active half. -/
  | product (tensor : U32) (backward : Bool) (headerAt : BitVec 20)
  /-- The next shard of the rotation becomes the active half. -/
  | rotate (tensor : U32) (backward : Bool)
  /-- The micro-batch with the header has finished its backward pass on the core. -/
  | finish (header : BitVec 40) (headerAt : BitVec 20)
deriving DecidableEq, Repr

/-- What a load image declares, in the terms of the rules that check it. No byte layout of a load image is given. -/
structure LoadImage where
  builtFor     : Nat
  cores        : List (BitVec 11)
  threadMode   : Bool
  banks        : List BankDecl
  /-- Static schedule accesses: core, cycle, bank. -/
  accesses     : List (Nat × Nat × Nat)
  /-- Fillings of half banks: core, bank, first cycle, last cycle. -/
  fillings     : List (Nat × Nat × Nat × Nat)
  matrix       : List MatDecl
  /-- Weight loads: format, cycle the load begins, cycle of the swap. -/
  weightSwaps  : List (Fmt × Nat × Nat)
  /-- Accumulator accesses in one cycle: array tile row, other tile row. -/
  tileClashes  : List (Nat × Nat)
  /-- Barrier arrivals: core, channel, cycle of this arrival, cycle of the previous release. -/
  arrivals     : List (Nat × Nat × Nat × Nat)
  conversions  : List (Fmt × Fmt)
  reductions   : List RedDecl
  /-- Vector reductions (R106): chunked ones follow the rules of matrix chunks by element position. -/
  vectorSums   : List RedDecl
  /-- XS totals that are added to one another, by width and base (R44, R101). -/
  xsAdds       : List (List (Bool × U16))
  routes       : List RouteDecl
  outControls  : List U64
  preemptible  : Bool
  preemptLimit : Nat
  preemptGap   : Nat
  saveBanks    : List (BitVec 4)
  lendBanks    : List (BitVec 4)
  lendSlots    : List (Fin 8)
  /-- The towers: the first runs in the main schedule, others in bubble windows (R256). -/
  towers       : List TowerDecl
  /-- Records of a chunk of gradient sums, and each micro-batch: its global record positions (first, how many) and each core's
  share of them (R242). -/
  chunkRecords : Nat
  microBatches : List ((Nat × Nat) × List (BitVec 11 × Nat × Nat))
  /-- Each core's static order of forwards and of backward passes that retire a version, with the stream that brings its
  activations (R253). -/
  orders       : List (U32 × List OrderStep)
  /-- Gap slots and the cycle at which the main schedule ends (R245). -/
  gaps         : List GapDecl
  scheduleEnd  : Nat
  /-- Bubble windows that remain for scoring: logical cores, first cycle, cycles (R256, R257). -/
  bubbles      : List (List (BitVec 11) × Nat × Nat)
  rowSpans     : List Nat
  /-- Descriptors of 128 bytes each: local stream number, bytes. -/
  streams      : List (Nat × List Byte)
  /-- Swaps of a slot: swaps, transfers of the stream, whether it is chained. -/
  swaps        : List (Nat × Nat × Bool)
  /-- OUT bytes read by an IN stream: whether a channel-0 barrier lies between (R280). -/
  outThenIn    : List Bool
  /-- Dependencies between streams (R293). -/
  waitEdges    : List (U32 × U32)
  /-- A transient bank, tile row or weight block carries a value across a channel-0 barrier (R366). -/
  carriesTransient : Bool
  /-- The image writes within a segment the bytes it read earlier in it (R367). -/
  overwritesInputs : Bool
  readyNorth   : Nat
  readySouth   : Nat
  layouts      : List (List Byte)
  entries      : List Byte
  constAt      : BitVec 20
  contents     : List (BitVec 11 × BitVec 20 × List Byte)
  deferred     : List DeferDecl
  group        : Option (BitVec 12)
  /-- Barrier channels bound: channel, members. -/
  channels     : List (Fin 32 × List (BitVec 11))
  features     : List (Fin 128)
  /-- Loaded values of owned elements (R241, R249): tensor, element, LF32 master and optimizer state. -/
  owned        : List (U32 × Nat × U32 × U32)
deriving DecidableEq, Repr

/-- The operands of a deferred sum item (R244), which its entry names only by layer, tile and chunk: where its inputs lie in local
memory. WGRAD_TILE: the transposed rows of X, one of the records of the chunk for each of 32 columns, at equal distances, and the
blocks of dZ, each of k_s records by 32 columns (R238). Vector items: LF32 lines of 32 columns for each record, at equal
distances: left dZ (or dy), right the saved stage-1 values (or xh). -/
structure DeferOp where
  fmt     : Fmt
  leftAt  : BitVec 20
  leftStride : Nat
  rightAt : BitVec 20
  rightStride : Nat
  /-- Records of the chunk that the item sums. -/
  records : Nat
  /-- The accumulation control field of a WGRAD_TILE; FIRST follows from the place in the chunk. -/
  control : BitVec 16
  rnd     : Rnd
  /-- The first of the tile rows that the image reserves for the item. -/
  row     : BitVec 9
  lmErrors : LmErrors
  instr   : U32
deriving DecidableEq, Repr

/-- An owner's update of the elements of a tensor that it owns (R248): the tensor, the number of the update, and the totals of the
owners in other modules, by element: register, tag and poison (R247). -/
structure UpdateOp where
  tensor : U32
  update : U32
  others : List (Nat × BitVec 128 × Byte × Bool)
  instr  : U32
deriving DecidableEq, Repr

/-- One cell a neighbouring module's part of a GROW level brings: frontier slot, candidate and bin, and the register and tag
byte of its gradient total and of its hessian total. -/
structure GrowCell where
  slot : Nat
  cand : Nat
  bin  : Nat
  g    : U64
  gTag : Byte
  h    : U64
  hTag : Byte
deriving DecidableEq, Repr

/-- What another module of a session's group brings to a GROW command that grows a level (R190 to R193): its CRC, the record
counts of the frontier's nodes, left to right, and its cells of the built nodes: frontier slot, candidate, bin, and the
registers and tags of the gradient and hessian totals. -/
structure GrowPeer where
  crc    : U32
  counts : List Nat
  cells  : List GrowCell
deriving DecidableEq, Repr

/-- Another member's staging of a row of a replicated table (R226, R430). -/
structure StagedRow where
  table    : Nat
  row      : Nat
  values   : List (BitVec 128)
  tag      : Byte
  poisoned : Bool
deriving DecidableEq, Repr

/-- What an APPLY takes beside its queue: the other members' staging of replicated tables, and how many rows this command updates
(R226, R228). -/
structure ApplyOp where
  others : List StagedRow
  rows   : Nat
deriving DecidableEq, Repr

/-- A BAR4 read: its bytes, and the damaged symbols of each granule that it covers (R398, R532). -/
structure Bar4Span where
  bytes  : Nat
  errors : List (List SymbolError)
deriving DecidableEq, Repr

/-- What comes with the bytes of a BAR4 write: the poisoned-TLP bit, and the damaged symbols of each granule that it touches. -/
structure Bar4Marks where
  poisoned : Bool
  errors   : List (List SymbolError)
deriving DecidableEq, Repr

/-- Where a weight block is read, and the errors that local memory finds there (R63, R65). -/
structure BlockOp where
  addr     : BitVec 20
  lmErrors : LmErrors
deriving DecidableEq, Repr

/-- A SWAP: its slot, and what it is beside the half of a stream (R239, R271). -/
structure SwapOp where
  slot  : SlotId
  dense : Option DenseSwap
deriving DecidableEq, Repr

/-- The side that issues an access, and the errors that local memory finds in what it reads (R63, R283). -/
structure IssueOp where
  side     : Fin 3
  lmErrors : LmErrors
deriving DecidableEq, Repr

/-- A slot with the generation of a request (R276). -/
structure SlotTag where
  slot : SlotId
  gen  : U16
deriving DecidableEq, Repr

/-- The commands the block takes: one per row of the opcode table. -/
inductive Instr where
  | nop (q : QueueId)
  | launch (q : QueueId)
  | launchComplete (q : QueueId) (index : U32)
  | score (q : QueueId)
  | growLevel (q : QueueId) (peers : List GrowPeer)
  | growEndTree (q : QueueId) (crcs : List U32)
  | growDiscard (q : QueueId) (crcs : List U32)
  | growClose (q : QueueId) (crcs : List U32)
  | growPublishRetry (q : QueueId)
  | embStepBegin (q : QueueId)
  | embStepApply (q : QueueId) (others : ApplyOp)
  | embStepAbandon (q : QueueId)
  | copy (q : QueueId)
  | wait (q : QueueId)
  | waitPoll
  | signal (q : QueueId)
  | barrierQueue (q : QueueId)
  | barrierFabric (q : QueueId)
  | stamp (q : QueueId)
  | taskIteration (t : Byte)
  | doorbell (q : QueueId) (width : Nat) (value : U64)
  | queueEnable (q : QueueId)
  | queueDisable (q : QueueId)
  | queueKill (q : QueueId)
  | queueReset (q : QueueId)
  | queueAdmit
  | ringFetchReturn (q : QueueId) (first : U32) (entries : List RingEntry)
  | slotTimeslice (q : QueueId)
  | noProgressWindow (q : QueueId) (index : U32)
  | frontEndReset
  | completionTimeout (q : QueueId) (index : U32)
  | abaviDoorbell (seq : U32)
  | abaviNoProgress
  | unknownOpcode
  | identify
  | features
  | snapshot
  | memAlloc
  | memFree
  | hostWindowAdd
  | hostWindowRemove
  | reservedRead
  | queueCreate
  | queueModify
  | queueDelete
  | fenceRegister
  | fenceRelease
  | imageLoad (image : LoadImage)
  | imagePatch (image : LoadImage)
  | imageUnload
  | taskCreate
  | taskEnd
  | ensembleCreate
  | ensemblePublish
  | ensembleDelete
  | ensembleRead
  | tableCreate
  | tableDelete
  | pin
  | unpin
  | placement
  | tablePages
  | portSet
  | portClear
  | serviceWrite
  | serviceEnable
  | serviceDisable
  | serviceRead
  | serviceDelete
  | fabricConfig
  | collectiveGroup
  | collectiveGroupClear
  | powerBounds
  | fence
  | unfence
  | fenceRow
  | healthRead
  | traceRegion
  | mgmtBlockWrite (i3c : Bool) (frag : Byte) (last start : Bool) (bytes : List Byte) (pecOk : Bool)
  | mgmtBlockRead (i3c : Bool)
  | mgmtByteRead (i3c : Bool)
  | detWrite (value : U64)
  | traceRecord (value : U64)
  | traceReplay (value : U64)
  | traceInject
  | startWarm (value : U64) (env : StartEnv)
  | startCold (value : U64) (env : StartEnv)
  | auxPowerOn (env : StartEnv)
  | fundamentalReset (env : StartEnv)
  | fwGo (image : List Byte) (test : SelfTest)
  | fwTimeout
  | stepLimit (step : BitVec 4)
  | functionLevelReset
  | d3hotEntry
  | d0Return
  | eventRingEnable (value : U64)
  | eventRingDisable (value : U64)
  | eventConsumerWrite (value : U64)
  | eventWrite
  | eventsLost
  | flagSummaryClear (value : U64)
  | captureRearm (p : PosId)
  | channelCaptureRearm (k : ChanId)
  | counterWrite (offset : BitVec 24) (value : U64)
  | arbitrationForce (side : Fin 3) (value : U64)
  | linkEnable (n : LinkId)
  | linkDisable (n : LinkId)
  | bar4BaseWrite (value : U64)
  | bar4Read (offset : BitVec 40) (length : Bar4Span)
  | bar4Write (offset : BitVec 40) (bytes : List Byte) (poisoned : Bar4Marks)
  | registerWrite (offset : BitVec 24) (wide : Bool) (value : U64)
  | badAccess (isWrite : Bool) (offset : BitVec 24) (width : Nat)
  | pairTimeout (offset : BitVec 12)
  | configParity (offset : BitVec 24)
  | arrayStep (p : PosId) (op : ArrayOp)
  | weightLoad (p : PosId) (fmt : Fmt) (addr : BlockOp)
  | weightSwap (p : PosId)
  | vectorOp (p : PosId) (op : VecOp)
  | promotion (p : PosId) (op : PromoOp)
  | preload (p : PosId) (op : PreloadOp)
  | outputStage (p : PosId) (op : OutOp)
  | moments (p : PosId) (op : MomOp)
  | sumsq (p : PosId) (op : MomOp)
  | momentsFinish (p : PosId) (op : MomFinOp)
  | squirrelInstruction (p : PosId) (op : SquirrelOp)
  | arm (slot : SlotId) (addr : BitVec 20)
  | swap (slot : SwapOp)
  | groupResume (q : QueueId) (index : U32)
  | barrierArrive (p : PosId) (channel : Fin 32)
  | barrierRelease (q : QueueId) (index : U32) (channel : Fin 32)
  | collectiveStart (p : PosId) (descriptor : List Byte)
  | threadIssue (p : PosId) (instr : ThreadInstr)
  | threadReadReturn (p : PosId) (thread : Fin 16) (bytes : List Byte)
  | wgradTile (p : PosId) (op : DeferOp)
  | biasSum (p : PosId) (op : DeferOp)
  | scaleSum (p : PosId) (op : DeferOp)
  | normSum (p : PosId) (op : DeferOp)
  | add (p : PosId)
  | weightUpdate (p : PosId) (op : UpdateOp)
  | streamBlockIssue (side : IssueOp)
  | blockReturn (slot : SlotId) (errors : List (List SymbolError))
  | transferComplete (slot : SlotId)
  | chainHandover (slot : SlotId)
  | streamSpill (cycle : List SlotId)
  | spillRefill (slot : SlotId)
  | gather (request : List Byte) (slot : SlotId)
  | scatterAdd (request : List Byte) (slot : SlotId)
  | batchAdmit (first : BitVec 11) (records : List (List Byte × Bool)) (poisoned : List (Fin 80 × BitVec 14))
  | shardStepEnd (first : BitVec 11) (lmErrors : List (PosId × BitVec 20 × Bool))
  | batchFinish (first : BitVec 11)
  | preemptRestore (first : BitVec 11)
  | deadlineMiss (first : BitVec 11)
  | frameReceive (port : Fin 8) (frame : List Byte) (fcsOk : Bool) (corrected : Nat)
  | replySend (port : Fin 8)
  | ptpSync (port : Fin 8) (offset : U64) (intervalNs : U64)
  | ptpAnnounce (port : Fin 8) (dataset : List Byte)
  | delayReq (port : Fin 8)
  | ptpLost (port : Fin 8)
  | streamData (n : LinkId) (f : Flit)
  | streamOpen (n : LinkId) (f : Flit)
  | streamAck (n : LinkId) (f : Flit)
  | fabricRead (n : LinkId) (f : Flit)
  | fabricWrite (n : LinkId) (f : Flit)
  | badger (n : LinkId) (f : Flit)
  | gatherData (n : LinkId) (f : Flit)
  | collective (n : LinkId) (f : Flit)
  | barrierFlitArrive (n : LinkId) (f : Flit)
  | barrierFlitRelease (n : LinkId) (f : Flit)
  | timeSync (n : LinkId) (f : Flit)
  | timeSyncSend
  | timeSyncLost
  | rootChange (reachable : List ModId)
  | stop (n : LinkId) (f : Flit)
  | resetSyncReady (n : LinkId) (f : Flit)
  | resetSyncGo (n : LinkId) (f : Flit)
  | fabricResetLoad
  | notice (n : LinkId) (f : Flit)
  | controlFlit (n : LinkId) (c : CtlFlit)
  | badFlit (n : LinkId) (f : Flit)
  | retrain (n : LinkId)
  | linkDown (n : LinkId)
  | linkDetectRetry (n : LinkId)
  | linkTrainingComplete (n : LinkId) (r : TrainResult)
  | linkTrainingFailed (n : LinkId) (r : TrainResult)
  | linkJoin (n : LinkId)
  | faultReplay (q : QueueId) (index : U32)
  | coreFaultFence (p : PosId) (cause : BitVec 4)
  | regulatorFault (row : Fin 30)
  | healthTick (env : TickEnv)
  | currentLimit (centiamps : U16)
  | shutdown (sensor : Fin 16) (reading : U16)
  | inputOutOfRange (millivolts : U16)
  | inputReversed (millivolts : U16)
  | sensorOpen (sensor : Fin 16)
  | droopStretch (row : Fin 30)
  | rowVoltageLoop (row : Fin 30) (lowest : BitVec 10) (currentDa : U16)
  | rowGate (row : Fin 30)
  | idleEntry
  | mgmtBusRecovery (i3c : Bool)
  | mgmtPortStuck (i3c : Bool)
  | mgmtPortReleased (i3c : Bool)
  | patrolScrub (k : ChanId) (errors : List (List SymbolError))
  | bankRefresh (k : ChanId)
  | auxPowerLoss
  | denClockEdge
  | transitFlit (n : LinkId) (f : Flit)
  | uncorrectableFlit (n : LinkId) (seq : BitVec 12)
  | pcsLockGained (port : Fin 8)
  | pcsLockLost (port : Fin 8)
  | pcieCompletion (slot : SlotTag) (bytes : List Byte) (poisoned : Bool)
  | entdaa (address : BitVec 7)
deriving DecidableEq, Repr

end Sys2Proof
end

