-- ==== Sys2Proof/Decode.lean ====
section
/-! DEFINITION. What a word of the opcode table spells: the table gives no row any bits, so no word spells a command. -/

namespace Sys2Proof

/-- The command that a word of the table spells: the table gives its 211 rows no bits, so there is none. -/
def decodeTableWord (nbits w : Nat) : Option Instr :=
  match nbits, w with
  | _, _ => none

end Sys2Proof
end

