-- ==== Sys2Proof/Config.lean ====
section
/-! DEFINITION. What an implementation fixes and the manual does not give: free values with no body. -/

namespace Sys2Proof.Config

/-- SILICON of R474: the silicon revision; the manual gives no value (log entry 1). -/
opaque silicon : Byte

/-- Whether the ECDSA P-384 signature (the pair r, s of 48 bytes each) over the SHA-384 of the header verifies against
the public key held in the boot ROM (R517); the key is not given (log entry 7). -/
opaque signatureGood : (digest : List Byte) → (r : List Byte) → (s : List Byte) → Bool

/-- The bits of a function of R68 that is not correctly rounded, before the flags of R55: by function code, rounding
mode code and LF32 operand. The numerical reference of R69 defines them and is not given (log entry 8). -/
opaque functionBits : (code : Nat) → (rounding : Nat) → (sr : U32) → (operand : U32) → U32

/-- The bits that a vector comparison writes for false and true in lanes of a width; the manual gives none (log entry
21). -/
opaque compareBits : (truth : Bool) → (width : Nat) → U32

/-- A value that the manual leaves open, drawn afresh for each number of the counter Dev.free (log entry 4). -/
opaque freeValue : Nat → U64

end Sys2Proof.Config
end

