-- ==== Sys2Proof/Machine/Bits.lean ====
section
/-! DEFINITION. Sparse tables, bytes, bit fields and checksums: the plain helpers of every meaning. -/

namespace Sys2Proof.Machine
open Sys2Proof

/-! ## Sparse tables -/

/-- What key k holds: the listed entry, or the default. -/
def look {α : Type} (d : α) : Sparse α → Nat → α
  | [], _ => d
  | (j, v) :: m, k => if j = k then v else look d m k

/-- List v at key k, in the order of keys, in place of what is listed there. -/
def listAt {α : Type} (k : Nat) (v : α) : Sparse α → Sparse α
  | [] => [(k, v)]
  | (j, w) :: m => if k < j then (k, v) :: (j, w) :: m else if k = j then (k, v) :: m else (j, w) :: listAt k v m

/-- Write v at key k, keeping the canonical form: keys rise, and an entry equal to the default is not listed. -/
def put {α : Type} [DecidableEq α] (d : α) (m : Sparse α) (k : Nat) (v : α) : Sparse α :=
  if v = d then m.filter (fun c => decide (c.1 ≠ k)) else listAt k v m

/-- Apply f to what key k holds. -/
def upd {α : Type} [DecidableEq α] (d : α) (m : Sparse α) (k : Nat) (f : α → α) : Sparse α :=
  put d m k (f (look d m k))

/-- A table with each entry changed; an entry that then holds its reset value is not listed. -/
def mapKeep {α : Type} [DecidableEq α] (reset : α) (f : α → α) (m : List (Nat × α)) : List (Nat × α) :=
  (m.map (fun c => (c.1, f c.2))).filter (fun c => decide (c.2 ≠ reset))

/-- The canonical form of a sparse table above a lower bound. -/
def Sparse.wfFrom {α : Type} [DecidableEq α] (d : α) : Nat → Sparse α → Bool
  | _, [] => true
  | lo, (k, v) :: m => decide (lo ≤ k) && decide (v ≠ d) && Sparse.wfFrom d (k + 1) m

/-- The canonical form: keys strictly rising, no entry equal to the default. -/
def Sparse.wf {α : Type} [DecidableEq α] (d : α) (m : Sparse α) : Bool := Sparse.wfFrom d 0 m

/-- A row of values as entries from key k on; a value equal to the default is not listed. -/
def entriesAt {α : Type} [DecidableEq α] (d : α) : Nat → List α → Sparse α
  | _, [] => []
  | k, v :: vs => if v = d then entriesAt d (k + 1) vs else (k, v) :: entriesAt d (k + 1) vs

/-- Write a row of values at consecutive keys. -/
def putAll {α : Type} [DecidableEq α] (d : α) (m : Sparse α) (k : Nat) (vs : List α) : Sparse α :=
  if vs.isEmpty then m
  else m.filter (fun c => decide (c.1 < k)) ++ (entriesAt d k vs ++ m.filter (fun c => decide (k + vs.length ≤ c.1)))

/-- Whether keys rise from a lower bound on. -/
def keysRise {α : Type} : Nat → Sparse α → Bool
  | _, [] => true
  | lo, (k, _) :: m => decide (lo ≤ k) && keysRise (k + 1) m

/-- n values at consecutive keys, each looked up for itself. -/
def lookEach {α : Type} (d : α) (m : Sparse α) (k : Nat) : Nat → List α
  | 0 => []
  | n + 1 => look d m k :: lookEach d m (k + 1) n

/-- n values at consecutive keys of a table whose keys rise from the first of them on, in one pass. -/
def lookRow {α : Type} (d : α) : Sparse α → Nat → Nat → List α
  | _, _, 0 => []
  | [], k, n + 1 => d :: lookRow d [] (k + 1) n
  | (j, v) :: m, k, n + 1 => if j = k then v :: lookRow d m (k + 1) n else d :: lookRow d ((j, v) :: m) (k + 1) n

/-- Read n values at consecutive keys. -/
def lookAll {α : Type} (d : α) (m : Sparse α) (k n : Nat) : List α :=
  let here := m.filter (fun c => decide (k ≤ c.1 ∧ c.1 < k + n))
  if keysRise k here then lookRow d here k n else lookEach d here k n

/-! ## Bytes (R2: little-endian) -/

/-- The number that little-endian bytes spell. -/
def leNat : List Byte → Nat
  | [] => 0
  | b :: bs => b.toNat + 256 * leNat bs

/-- The n little-endian bytes of a number. -/
def leBytes : Nat → Nat → List Byte
  | 0, _ => []
  | n + 1, x => BitVec.ofNat 8 x :: leBytes n (x / 256)

/-- The number that bytes spell, most significant first. -/
def beNat (b : List Byte) : Nat := leNat b.reverse

/-- The n bytes of a number, most significant first. -/
def beBytes (n x : Nat) : List Byte := (leBytes n x).reverse

/-- Pack fields of (size in bytes, value), each at the next offset that is a multiple of its own size (R478). -/
def pack : List (Nat × Nat) → List Byte → List Byte
  | [], acc => acc
  | (n, v) :: fs, acc =>
    pack fs (acc ++ List.replicate ((acc.length + n - 1) / n * n - acc.length) 0 ++ leBytes n v)

/-- n zero bytes. -/
def zeros (n : Nat) : List Byte := List.replicate n 0

/-- The n bytes from offset o, zero past the end. -/
def slice (bs : List Byte) (o n : Nat) : List Byte := ((bs.drop o).take n) ++ zeros (n - ((bs.drop o).take n).length)

/-- The little-endian field of n bytes at offset o. -/
def field (bs : List Byte) (o n : Nat) : Nat := leNat (slice bs o n)

/-- The byte at offset o. -/
def byteAt (bs : List Byte) (o : Nat) : Byte := bs.getD o 0

/-- Whether the n bytes at offset o are all zero, as reserved bytes must be (R4). -/
def zeroAt (bs : List Byte) (o n : Nat) : Bool := field bs o n = 0

/-- Bits h to l of x (R1). -/
def bits (x h l : Nat) : Nat := (x >>> l) % 2 ^ (h + 1 - l)

/-- One bit of x. -/
def bitOf (x i : Nat) : Bool := x.testBit i

/-- A Bool as a number. -/
def b2n (b : Bool) : Nat := if b then 1 else 0

/-- Two's complement of w bits. -/
def toSigned (w x : Nat) : Int := if x % 2 ^ w < 2 ^ (w - 1) then (x % 2 ^ w : Nat) else ((x % 2 ^ w : Nat) : Int) - 2 ^ w

/-- The w low bits of an integer, as two's complement. -/
def ofSigned (w : Nat) (x : Int) : Nat := (x % (2 ^ w : Int)).toNat

/-- Round x up to a multiple of n. -/
def alignUp (x n : Nat) : Nat := (x + n - 1) / n * n

/-- Quotient rounded up. -/
def ceilDiv (x n : Nat) : Nat := (x + n - 1) / n

/-- The first element satisfying p, replaced by f of it. -/
def updateFirst {α : Type} (p : α → Bool) (f : α → α) : List α → List α
  | [] => []
  | x :: xs => if p x then f x :: xs else x :: updateFirst p f xs

/-- Numbers a, a + 1, …, a + n − 1. -/
def rangeFrom (a : Nat) : Nat → List Nat
  | 0 => []
  | n + 1 => a :: rangeFrom (a + 1) n

/-- Split a row of bytes in pieces of n bytes (fuel bounds the pieces). -/
def chunks (n : Nat) : Nat → List Byte → List (List Byte)
  | 0, _ => []
  | _ + 1, [] => []
  | fuel + 1, bs => bs.take n :: chunks n fuel (bs.drop n)

/-! ## CRC-32C (Castagnoli), used by R127, R190, R368, R383 and R429 -/

/-- Eight shift steps of the reflected CRC-32C register. -/
def crcShift : Nat → BitVec 32 → BitVec 32
  | 0, c => c
  | n + 1, c => crcShift n (if c.getLsbD 0 then (c >>> 1) ^^^ 0x82F63B78 else c >>> 1)

/-- CRC-32C of a row of bytes. -/
def crc32c (bs : List Byte) : U32 :=
  ~~~ (bs.foldl (fun c b => crcShift 8 (c ^^^ (b.setWidth 32))) (0xFFFFFFFF : U32))

end Sys2Proof.Machine
end

