-- ==== Sys2Proof/Machine/Elementary.lean ====
section
/-! DEFINITION. The exact values of the functions of R68 that are not correctly rounded, to far more bits than LF32 holds: what their error bounds are measured against. -/

namespace Sys2Proof.Machine
open Sys2Proof

/-! ## Fixed point: 2^256 units to one -/

/-- One. -/
def fixOne : Nat := 2 ^ 256

/-- ln 2. -/
def fixLn2 : Nat := 80260960185991308862233904206310070533990667611589946606122867505419956976171

/-- 2 / √π. -/
def fixErf : Nat := 130657381209852114387528029350014196574164286124850014242073919076264802271585

/-- n × 2^e in fixed point, cut off. -/
def toFix (n : Nat) (e : Int) : Nat := if 0 ≤ e + 256 then n * 2 ^ (e + 256).toNat else n / 2 ^ (-(e + 256)).toNat

/-- Product in fixed point. -/
def fixMul (a b : Nat) : Nat := a * b / fixOne

/-- The terms r^n / n! from the n-th on (fuel: the terms). -/
def expTerms : Nat → Nat → Nat → Nat → Nat
  | 0, _, _, _ => 0
  | k + 1, n, term, r => term + expTerms k (n + 1) (fixMul term r / (n + 1)) r

/-- A positive real as m × 2^e. -/
abbrev Real2 := Nat × Int

/-- e^(±x) for x in fixed point. Beyond 200 the result lies far beyond any format. -/
def expFix (neg : Bool) (x : Nat) : Real2 :=
  if 200 * fixOne ≤ x then (1, if neg then -400 else 400)
  else
    let k := x / fixLn2
    let r := x % fixLn2
    if neg ∧ r ≠ 0 then (expTerms 70 0 fixOne (fixLn2 - r), -(k : Int) - 257)
    else (expTerms 70 0 fixOne r, (if neg then -(k : Int) else (k : Int)) - 256)

/-- The terms t^(2n+1) / (2n+1) of atanh t (fuel: the terms; p: the power in hand). -/
def atanhTerms : Nat → Nat → Nat → Nat → Nat
  | 0, _, _, _ => 0
  | k + 1, n, p, t2 => p / (2 * n + 1) + atanhTerms k (n + 1) (fixMul p t2) t2

/-- ln (n × 2^e) in fixed point, for n > 0. -/
def lnFix (n : Nat) (e : Int) : Int :=
  let l := Nat.log2 n
  let m := toFix n (-(l : Int))
  let t := (m - fixOne) * fixOne / (m + fixOne)
  2 * (atanhTerms 90 0 t (fixMul t t) : Int) + ((l : Int) + e) * fixLn2

/-- Integer square root by bisection on bits: the largest r below 2^n with r × r ≤ x. -/
def isqrtBits (x : Nat) : Nat → Nat → Nat
  | 0, r => r
  | n + 1, r =>
    let c := r + 2 ^ n
    isqrtBits x n (if c * c ≤ x then c else r)

/-- 1 / √(n × 2^e), for n > 0. -/
def rsqrtReal (n : Nat) (e : Int) : Real2 :=
  let n' := if e % 2 = 0 then n else 2 * n
  (isqrtBits (2 ^ 512 / n') 260 0, -((e - e % 2) / 2) - 256)

/-- x / y as a real. -/
def divReal (x : Real2) (y : Nat) : Real2 := (x.1 * 2 ^ 320 / y, x.2 - 320)

/-- 1 / (1 + e^(∓x)). -/
def logisticReal (neg : Bool) (x : Nat) : Real2 :=
  let t := expFix true x
  let den := fixOne + toFix t.1 t.2
  if neg then divReal (t.1, t.2 + 256) den else divReal (fixOne, 0) den

/-- tanh of n × 2^e. -/
def tanhReal (n : Nat) (e : Int) : Real2 :=
  let x := toFix n e
  if x < fixOne / 2 ^ 20 then
    let x2 := toFix (n * n) (2 * e)
    (n * (fixOne - x2 / 3 + 2 * fixMul x2 x2 / 15), e - 256)
  else
    let t := expFix true (2 * x)
    let u := max (toFix t.1 t.2) 1
    divReal (fixOne - u, 0) (fixOne + u)

/-- The terms x^(2n+1) / (n! (2n+1)) with alternating signs (fuel: the terms; p: x^(2n+1) / n!). -/
def erfTerms : Nat → Nat → Nat → Nat → Int
  | 0, _, _, _ => 0
  | k + 1, n, p, x2 =>
    (if n % 2 = 0 then (p / (2 * n + 1) : Int) else -(p / (2 * n + 1) : Int)) + erfTerms k (n + 1) (fixMul p x2 / (n + 1)) x2

/-- erf of n × 2^e; from 4 on it lies within 2^−25 below one. -/
def erfReal (n : Nat) (e : Int) : Real2 :=
  let x := toFix n e
  let x2 := toFix (n * n) (2 * e)
  if x < fixOne / 2 ^ 20 then (fixMul fixErf (fixOne - x2 / 3 + fixMul x2 x2 / 10) * n, e - 256)
  else if 4 * fixOne ≤ x then (2 ^ 26 - 1, -26)
  else (fixMul fixErf (erfTerms 140 0 x x2).toNat, -256)

/-- A function of R68 at (−1)^neg × n × 2^e: its sign and magnitude. Functions that are correctly rounded or exact have no use
for it; a logarithm or reciprocal square root takes a positive operand. -/
def exactFun (fn : VFun) (neg : Bool) (n : Nat) (e : Int) : Bool × Real2 :=
  match fn with
  | .rsqrt => (false, rsqrtReal n e)
  | .exp => (false, expFix neg (toFix n e))
  | .exp2 => (false, expFix neg (fixMul (toFix n e) fixLn2))
  | .log => let v := lnFix n e; (decide (v < 0), (v.natAbs, -256))
  | .log2 => let v := lnFix n e * fixOne / fixLn2; (decide (v < 0), (v.natAbs, -256))
  | .logistic => (false, logisticReal neg (toFix n e))
  | .tanh => (neg, tanhReal n e)
  | .erf => (neg, erfReal n e)
  | _ => (neg, (n, e))

/-- The error bound of R68 in ulp. -/
def ulpBound : VFun → Nat
  | .logistic | .tanh | .erf => 2
  | _ => 1

end Sys2Proof.Machine
end

