-- ==== Sys2Proof/Machine/State.lean ====
section
/-! DEFINITION. The state of the block as plain data: every register, buffer, queue, counter, mode and object the spec gives it, and the queue of waiting commands. -/

namespace Sys2Proof.Machine
open Sys2Proof

/-- Why a step can stop with a fault. -/
inductive Fault where
  /-- A BAR4 access whose offset lies beyond the BAR4 window (R530, R531): no such address exists. Raised by
  execBar4Read and execBar4Write. Safe: the model stops where the PCIe port is never given such an access. -/
  | beyondBar4
deriving DecidableEq, Repr

/-- Why a step can be refused. -/
inductive Refusal where
  /-- The command has no meaning yet. Raised by exec alone. Safe: nothing is claimed of it. -/
  | notModelled (mnemonic : String)
deriving DecidableEq, Repr

/-! ## Outputs: what the block has sent, oldest first -/

/-- A posted write to host memory (R315), with the poisoned-TLP mark (R291). -/
structure HostWrite where
  addr     : U64
  bytes    : List Byte
  poisoned : Bool
deriving DecidableEq, Repr

/-- What has left the block through its ports, in order. -/
structure Outputs where
  hostWrites  : List HostWrite
  /-- Writes that wait in D3hot for the return to D0 (R529). -/
  waiting     : List HostWrite
  /-- PCIe read completions: the bytes and the poisoned-TLP bit (R399). -/
  completions : List (List Byte × Bool)
  /-- Ethernet frames without their check sequence: port, bytes (R445). -/
  frames      : List (Nat × List Byte)
  /-- Data flits put on links: link, flit (R418). -/
  flits       : List (Nat × Flit)
  /-- Control flits put on links (R421). -/
  controls    : List (Nat × CtlFlit)
  /-- MSI-X vectors sent (R533). -/
  msix        : List Nat
  /-- Frames given on the management ports: i3c, bytes (R539, R540). -/
  mgmt        : List (Bool × List Byte)
  /-- Non-posted reads sent to the host: tag (slot + 2^22 × generation, 2^20 + queue for a ring
  fetch, 2^21 for the firmware, 2^21 + 1 + 16 × position + thread), address, length (R310, R283). -/
  hostReads   : List (Nat × U64 × Nat)
  /-- Errors reported through AER, coded 0 completion timeout, 1 poisoned TLP received, 2 unexpected completion,
  3 uncorrectable internal error (R534). -/
  aer         : List Nat
deriving DecidableEq, Repr

/-! ## Time, mode and pairs -/

/-- Fabric time and its alignment (R358 to R362). -/
structure Time where
  /-- The Den count, in units of 1/16 ns. -/
  ft          : U64
  /-- Den clock edges since auxiliary power came. -/
  edges       : Nat
  aligned     : Bool
  isRoot      : Bool
  plant       : Bool
  plantOffset : U64
  error       : U16
  rootId      : ModId
  /-- The estimated offset from the root still to be slewed, in fabric-time units. -/
  slew        : Int
  missedSync  : Nat
  /-- A queue has been admitted since the start (step 5 of R359). -/
  admitted    : Bool
  /-- An exchange with the parent is outstanding: the time it was sent. -/
  syncSent    : Option U64
  /-- Consecutive good Sync exchanges of the PTP port since PLANT was cleared (R446). -/
  goodSyncs   : Nat
  /-- The data set of the selected time transmitter (R446). -/
  transmitter : Option (List Byte)
  /-- A Delay_Req sent and its stamp (R446). -/
  delayReqAt  : Option U64
deriving DecidableEq, Repr

/-- Held halves of one WP register (R471): the value half and the complement half, each with the edge it came at. -/
structure PairHalves where
  value      : Option (U64 × Nat)
  complement : Option (U64 × Nat)
deriving DecidableEq, Repr

/-- Mode registers (R306, R307, R349, R379, R472, R512, R531, R533). -/
structure Mode where
  det         : Bool
  refused     : Bool
  queueCtl    : U64
  queueSelect : U64
  traceCtl    : BitVec 10
  pairs       : Sparse PairHalves
  mismatch    : Bool
  lastOffset  : BitVec 12
  bar4Base    : BitVec 12
  /-- log2 of the BAR4 size, 28 to 36 (R530). -/
  bar4Log2    : Nat
  d3hot       : Bool
  /-- The MSI-X table, 8 entries of 16 bytes (R533). -/
  msixTable   : Sparse Byte
  msixPending : BitVec 8
  /-- MSI-X causes that arose since the last Den clock edge. -/
  msixCause   : BitVec 8
deriving DecidableEq, Repr

/-! ## Events (R487 to R491) -/

/-- An event as the Den holds it. -/
structure Event where
  stamp  : U64
  code   : U16
  source : U16
  seq    : U32
  detail : List Byte
deriving DecidableEq, Repr

/-- The event ring control block and the Den's holding queue. -/
structure Events where
  base        : U64
  enable      : Bool
  log2        : BitVec 5
  classEn     : BitVec 9
  producer    : U32
  consumer    : U32
  overflow    : Bool
  badBase     : Bool
  badConsumer : Bool
  held        : List Event
  seq         : U32
  /-- Events lost since the last EVENTS_LOST event, with the stamps of the first and last loss. -/
  lost        : U32
  lostFirst   : U64
  lostLast    : U64
deriving DecidableEq, Repr

/-! ## Power, start and health (R496 to R527) -/

/-- Power states of R496. -/
inductive PowerState where
  | off | denOnly | starting | active | quiet | idle | failed | shutdown
deriving DecidableEq, Repr

/-- A sensor (R510). -/
structure Sensor where
  reading : U16
  isOpen  : Bool
deriving DecidableEq, Repr

/-- A ROW register (R509) with what the power manager keeps of the row. -/
structure RowState where
  mv        : BitVec 10
  awake     : Bool
  fault     : Bool
  droop     : Bool
  currentDa : U16
  /-- ROW_FENCED of R87. -/
  fenced    : Bool
deriving DecidableEq, Repr

/-- The power manager (R502 to R511). -/
structure Power where
  state       : PowerState
  regulators54 : Bool
  step        : BitVec 6
  p1          : BitVec 11
  /-- P1 of the last ten ticks, newest first. -/
  history     : List (BitVec 11)
  /-- P10_W as it reads. -/
  p10         : BitVec 11
  cause       : BitVec 9
  causesNow   : BitVec 9
  /-- The bounds overridden now, each with its cause (R503, R526). -/
  overrides   : List (Nat × BitVec 9)
  /-- A run of throttled ticks is in progress (R504). -/
  throttleRun : Bool
  inputMv     : U16
  inputCa     : U16
  /-- PRESENT, REVERSED, UNDER, OVER of R508. -/
  inputFlags  : BitVec 4
deriving DecidableEq, Repr

/-- Sensors, rows and the management bus flags. -/
structure Health where
  sensors     : Sparse Sensor
  rows        : Sparse RowState
  smbusStuck  : Bool
  i3cStuck    : Bool
  recovered   : Bool
  /-- The THERMTRIP# pin is asserted (R541). -/
  thermtrip   : Bool
deriving DecidableEq, Repr

/-- Start control and status (R512 to R519, R474). -/
structure Start where
  kind        : BitVec 2
  preserve    : Bool
  perstWarm   : Bool
  step        : BitVec 4
  running     : Bool
  failed      : Bool
  warm        : Bool
  preserved   : Bool
  error       : Byte
  retainValid : Bool
  /-- The previous start completed (R513). -/
  completed   : Bool
  /-- What the self-test that runs will find (R515 step 8). -/
  test        : Option SelfTest
  fwAddr      : U64
  fwBytes     : U32
  fwGo        : Bool
deriving DecidableEq, Repr

/-- The identity block and the agreed features (R474, R484). -/
structure Identity where
  build        : U16
  minor        : Byte
  major        : Byte
  owlReady     : Bool
  offered      : BitVec 128
  agreed       : BitVec 128
  /-- A FEATURES request has been served since the start. -/
  negotiated   : Bool
deriving DecidableEq, Repr

/-! ## The Abavi mailbox (R474 to R479) and the management ports (R539, R540) -/

/-- STATE of ABAVI_STATUS. -/
inductive MailState where
  | idle | pending | busy | done
deriving DecidableEq, Repr

/-- A path an Abavi request comes on. -/
inductive Path where
  | pcie | smbus | i3c
deriving DecidableEq, Repr

/-- One mailbox: its state, sequence space and buffers. -/
structure Mailbox where
  state    : MailState
  /-- The state before an accepted doorbell, to which an FLR returns (R479). -/
  before   : MailState
  refused  : Bool
  lastSeq  : U32
  doneSeq  : U32
  request  : Sparse Byte
  response : Sparse Byte
deriving DecidableEq, Repr

/-- The framing state of a management port (R540). -/
structure MgmtPort where
  mail     : Mailbox
  /-- Request bytes gathered so far; none before a START fragment. -/
  gathered : Option (List Byte)
  nextFrag : Nat
  readFrag : Nat
  alert    : Bool
  address  : Option (BitVec 7)
  /-- The bus controller owes the nine clocks of a recovery (R524). -/
  recovering : Bool
deriving DecidableEq, Repr

/-- The Owl's request in service: its path and its copied bytes. -/
structure OwlRequest where
  path  : Path
  bytes : List Byte
  /-- It comes from the trace and not from a mailbox (R382). -/
  injected : Bool
deriving DecidableEq, Repr

/-- The Owl and the three surfaces that reach it. -/
structure Owl where
  pcie    : Mailbox
  smbus   : MgmtPort
  i3c     : MgmtPort
  current : Option OwlRequest
  /-- Paths whose request is PENDING, in the order they became so (R477). -/
  waiting : List Path
deriving DecidableEq, Repr

/-! ## Queues (R300 to R316) -/

/-- Queue states of R305. -/
inductive QState where
  | unused | stopped | idle | pending | active | parked | draining
deriving DecidableEq, Repr

/-- A scoring layout (R166). -/
structure Layout where
  group     : Byte
  laneGroups : Byte
  firstCore : U16
  ensemble  : U32
  masks     : List U16
  keys      : Byte
  results   : Byte
  input     : Byte
  keyFirst  : U32
  keyLast   : U32
  reserved  : Bool
deriving DecidableEq, Repr

/-- What a running command is doing, by its kind. -/
inductive Work where
  /-- Started; its single-step effect is done or about to be. -/
  | plain
  /-- A blocked WAIT (R326): the last value read. -/
  | waiting (last : U64)
  /-- A LAUNCH: image, version, its logical cores, those that ended. -/
  | launch (image : Nat) (version : Nat) (cores : List Nat) (ended : List Nat)
  /-- A LAUNCH given to a persistent task (R333). -/
  | taskLaunch (task : Nat)
  /-- A SCORE: its layout, next record to admit, batches in flight, last batch's version, batches late. -/
  | score (layout : Layout) (nextRecord : Nat) (inFlight : Nat) (lastVersion : U32) (late : Nat)
  /-- A GROW whose publication is being retried (R202). -/
  | growRetry (session : Nat)
  /-- A COPY on the slots of its chain. -/
  | copy (slots : List Nat)
  /-- A BARRIER of FABRIC scope that has sent its arrival. -/
  | barrier (group : Nat) (seq : U64)
  /-- An EMB_STEP APPLY that has arrived at its groups' barriers: group, SEQ. -/
  | apply (waits : List (Nat × U64))
  /-- An EMB_STEP APPLY at work: the entries not yet done, by table, LR and GRAD_SCALE, and the moves left at this boundary. -/
  | rows (left : List (Nat × Nat × Nat)) (moves : Nat)
deriving DecidableEq, Repr

/-- A running or completed, not yet retired, command (R311 to R314, R121, R122, R338). -/
structure Cmd where
  index      : U32
  entries    : Nat
  bytes      : List Byte
  tDoorbell  : U64
  tStart     : U64
  flags      : BitVec 6
  /-- Flags whose event was raised: unit (core or slot source ID), flag number (R122). -/
  raised     : List (Nat × Nat)
  notes      : BitVec 5
  version    : U32
  poisonIn   : U32
  poisonOut  : U32
  count      : U32
  progress   : U64
  /-- Fabric time of the last progress. -/
  lastProgress : U64
  /-- Fabric-time units that do not count toward the window (R338). -/
  excluded   : Nat
  work       : Work
  /-- Statuses that apply so far, with their DETAIL (R347). -/
  facts      : List (Byte × U32)
  preemptions : Nat
  replays    : Nat
  /-- Past its commit point (R346). -/
  committed  : Bool
  completed  : Bool
deriving DecidableEq, Repr

/-- A queue's context (R304) and what the front end keeps while it runs. -/
structure Queue where
  ringBase  : U64
  ringLog2  : Nat
  inDevice  : Bool
  persistent : Bool
  rtAllowed : Bool
  enabled   : Bool
  priority  : BitVec 3
  state     : QState
  gen       : U16
  windowMs  : U16
  producer  : U32
  started   : U32
  retired   : U64
  slot      : Option (BitVec 12)
  task      : Option Byte
deriving DecidableEq, Repr

/-- The part of a queue that lies outside its context: the doorbells that cover its entries, fetched entries and its
commands. -/
structure QueueRun where
  /-- Accepted doorbells still covering unstarted entries: PRODUCER and fabric time, oldest first. -/
  doorbells : List (U32 × U64)
  /-- Low 32 bits of the fabric time of the last accepted doorbell. -/
  doorbellFt : U32
  /-- Entries fetched and not yet started: index, entry. -/
  fetched   : List (Nat × RingEntry)
  /-- First indices of the blocks of four entries asked of the host and not yet returned. -/
  asked     : List Nat
  running   : List Cmd
  /-- Fabric time at which the queue took its slot. -/
  slotSince : U64
  /-- The queue is to leave its slot when its running commands complete (R309). -/
  yielding  : Bool
  /-- The doorbell value last accepted (R301). -/
  doorbell  : U64
  /-- Entries that the command at the head is known to need (R312); 0 while it is not known. -/
  need      : Nat
deriving DecidableEq, Repr

/-- A registered fence (R324). -/
structure Fence where
  registered : Bool
  producer   : QueueId
  value      : U64
deriving DecidableEq, Repr

/-- A persistent task (R332, R333). -/
structure Task where
  present  : Bool
  image    : Nat
  version  : Nat
  queues   : List Nat
  /-- The two constant-buffer halves: queue, command index, bytes. -/
  halves   : List (Nat × U32 × List Byte)
  running  : Option (Nat × U32)
  lastQueue : Nat
deriving DecidableEq, Repr

/-- States of an image version (R335). -/
inductive VState where
  | building | newest | pinned | freed
deriving DecidableEq, Repr

/-- A stored version of an image (R334 to R336). -/
structure ImageVersion where
  number  : Nat
  state   : VState
  users   : Nat
  image   : LoadImage
  /-- DET was in force when it was checked (R352). -/
  checkedDet : Bool
deriving DecidableEq, Repr

/-- A stored image (R334, R337). -/
structure ImageObj where
  loaded    : Bool
  unloading : Bool
  versions  : List ImageVersion
deriving DecidableEq, Repr

/-- The front end (R300 to R348). -/
structure FrontEnd where
  queues    : Sparse Queue
  runs      : Sparse QueueRun
  summary   : Sparse U64
  fences    : Sparse Fence
  /-- The queue number last admitted at each priority. -/
  lastAdmitted : Sparse Nat
  /-- The poll list: queues whose WAIT polls a device address, in reading order. -/
  pollList  : List Nat
  tasks     : Sparse Task
  images    : Sparse ImageObj
  /-- Fabric time of the last admission or retirement (R340). -/
  lastMove  : U64
  running   : Bool
deriving DecidableEq, Repr

/-! ## Jobs, groups and barriers (R74, R75, R343 to R345, R365 to R378) -/

/-- A deferred-work item (R244). -/
structure DeferItem where
  kind   : Byte
  layer  : Byte
  micro  : U16
  kTile  : U16
  nTile  : U16
  owner  : BitVec 11
  cycles : U16
  chunk  : U32
  /-- The cycle from which the results that it needs are there (R245). -/
  ready  : Nat
deriving DecidableEq, Repr

/-- A weight block of the array (R65): its format, its bytes and the elements that came from poisoned granules. -/
structure WeightBlock where
  fmt      : Fmt
  bytes    : List Byte
  poisoned : List Nat
deriving DecidableEq, Repr

/-- The saved state of one preempted or checkpointed core (R124, R366). -/
structure SavedCore where
  pos     : Nat
  acc     : Sparse U32
  accPoison : Sparse Bool
  active  : WeightBlock
  staged  : WeightBlock
  memory  : Sparse Byte
  /-- Barrier arrivals saved: channels. -/
  arrivals : List Nat
  gens    : List U16
  /-- The deferred items still to run (R244, R247). -/
  array   : List DeferItem
  vector  : List DeferItem
  /-- The program position. -/
  issued  : Nat
deriving DecidableEq, Repr

/-- A flit on the mesh (R72): its bytes, and the tags of XS elements, each with the poison of its granule. -/
structure MeshFlit where
  bytes : List (Byte × Bool)
  tags  : List (Byte × Bool)
deriving DecidableEq, Repr

/-- The source of an output port in a route program (R72): a line of the core's local memory with the tags that go with it, or
an input port. Ports are 0 north, 1 east, 2 south, 3 west. -/
inductive PortSrc where
  | lm (addr bytes tagsAt tags : Nat)
  | port (p : Nat)
deriving DecidableEq, Repr

/-- One entry of a route program: at a schedule cycle, the source of an output port of a position's router. -/
structure RouteStep where
  cycle : Nat
  pos   : Nat
  out   : Nat
  src   : PortSrc
deriving DecidableEq, Repr

/-- Where a flit leaves the mesh: at a schedule cycle, from an input port of a position, into local memory; xs: it adds to
XS totals of the given width, whose tags lie at the second address (R101). -/
structure RouteSink where
  cycle : Nat
  pos   : Nat
  port  : Nat
  addr  : Nat
  xs    : Option (Bool × Nat)
deriving DecidableEq, Repr

/-- A job: a LAUNCH or task iteration, with its groups' hold and replay state. -/
structure Job where
  queue     : Nat
  index     : U32
  cores     : List Nat
  /-- The hold line is raised (R74): the cause is a late half of a slot, preemption, replay, a fence. -/
  held      : Bool
  /-- The slots whose halves were late when the line was raised. -/
  lateSlots : List Nat
  heldSince : U64
  /-- Arrivals not yet released: channel, core (logical). -/
  arrivals  : List (Nat × Nat)
  preempted : Bool
  /-- Save banks of the preempted cores. -/
  saved     : List SavedCore
  /-- A KILL came while preempted (R345). -/
  killed    : Bool
  /-- A barrier release is latched (R345). -/
  latched   : List Nat
  /-- The barrier of the job's group that its channel-0 arrivals joined: group, SEQ (R428). -/
  groupArr  : Option (Nat × U64)
  checkpoint0 : List SavedCore
  checkpoint1 : List SavedCore
  /-- The checkpoint slot of the restart point. -/
  slot      : Bool
  segment   : Nat
  attempts  : Nat
  preemptedAt : U64
  restoredAt  : U64
  /-- The cycle of the job's schedule, and that of its restart point. -/
  cycle       : Nat
  restartCycle : Nat
  /-- The route programs of the job's cores, timed for the core map (R72, R83). -/
  route       : List RouteStep
  sinks       : List RouteSink
  /-- Flits on the mesh, by the input port where they are: 4 × position + port. -/
  flits       : List (Nat × MeshFlit)
  /-- Dense swaps that found their half or version late, by position (R74, R240, R251, R252). -/
  lateDense   : List (Nat × DenseSwap)
  /-- Scoring groups whose batches run past the end of their bubble window (R257). -/
  overruns    : List Nat
  /-- The channel-0 barrier that closes the dense step has completed (R247). -/
  stepClosed  : Bool
deriving DecidableEq, Repr

/-! ## Cores (R60 to R88, R114 to R120, R244 to R254) -/

/-- The read that blocks a thread (R78): its source, its bytes, where they go, and the data that have come over the mesh. -/
structure FarRead where
  src     : FarSrc
  bytes   : Nat
  dest    : Nat
  arrived : Option (List (Byte × Bool))
deriving DecidableEq, Repr

/-- A thread of thread mode (R78): ready while no read blocks it. -/
structure Thread where
  pc      : U64
  regs    : Sparse U64
  read    : Option FarRead
  /-- The slot of the core whose half a SWAP of the thread waits for (R297). -/
  swap    : Option Nat
deriving DecidableEq, Repr

/-- The capture of R118 and R119 with its stamp. -/
structure Capture where
  valid   : Bool
  more    : Bool
  flag    : BitVec 3
  unit    : BitVec 3
  origin  : BitVec 6
  logical : BitVec 11
  instr   : U32
  tileRow : BitVec 9
  column  : BitVec 7
  k       : U32
  stamp   : U64
deriving DecidableEq, Repr

/-- States of a position (R86). -/
inductive PosState where
  | active | spare | fenced
deriving DecidableEq, Repr

/-- A core entry of the fence map (R86). -/
structure CoreEntry where
  logical : BitVec 11
  state   : PosState
  thread  : Bool
  cause   : BitVec 4
  epoch   : U32
deriving DecidableEq, Repr

/-- An XS element as held: the register sign-extended to 128 bits and its tag byte (R41, R42). -/
structure Xs where
  reg : BitVec 128
  tag : Byte
deriving DecidableEq, Repr

/-- An element an owner holds (R241): LF32 master, optimizer state, two XS64 totals and their poison marks. -/
structure OwnedElem where
  master  : U32
  state   : U32
  total0  : Xs
  total1  : Xs
  poison0 : Bool
  poison1 : Bool
  /-- The value in the working format, as written to both layouts. -/
  working : U32
  /-- The last update the element has taken. -/
  done    : U32
deriving DecidableEq, Repr

/-- What a received bit stands for (R246): kind of sum, layer, tile or column group, chunk and total set. -/
structure ChunkKey where
  kind   : Nat
  layer  : Nat
  kTile  : Nat
  nTile  : Nat
  chunk  : Nat
  second : Bool
deriving DecidableEq, Repr

/-- A contribution of a deferred sum sent to an owner (R244, R246): its chunk, its sender, and for each element it reaches
the owner's key, the XS64 addend and its poison mark. -/
structure Contribution where
  chunk  : ChunkKey
  sender : Nat
  values : List (Nat × Xs × Bool)
deriving DecidableEq, Repr

/-- The weight-store halves of a sharded tensor's layout on a core while a product rotates (R168, R239, R240): the half in use, the
shard that it holds, the shard that has arrived in the other, the step, and the version. -/
structure Rotation where
  tensor   : U32
  backward : Bool
  halfB    : Bool
  held     : Nat
  arrived  : Option Nat
  step     : Nat
  version  : U32
deriving DecidableEq, Repr

/-- The dense part of a core: lists and the cycles until which an item occupies the array or the vector unit, owned elements,
received bits, arrived contributions and rotations. -/
structure Dense where
  array    : List DeferItem
  vector   : List DeferItem
  arrayBusy  : Nat
  vectorBusy : Nat
  owned    : Sparse OwnedElem
  /-- Received bits that are set (R246). -/
  received : List ChunkKey
  arrived  : List Contribution
  rotations : List Rotation
deriving DecidableEq, Repr

/-- A core: memories, array blocks, flags, dense lists and threads. -/
structure Core where
  lm       : Sparse Byte
  lmPoison : Sparse Bool
  /-- Accumulator entries, by 32 × tile row + entry (R66). -/
  acc      : Sparse U32
  /-- Entries that hold a result derived from poisoned data (R40, R59). -/
  accPoison : Sparse Bool
  active   : WeightBlock
  staged   : WeightBlock
  sticky   : BitVec 6
  capture  : Capture
  entry    : CoreEntry
  dense    : Dense
  threads  : Sparse Thread
  lastThread : Nat
  /-- The program position: instructions issued since the job began (R124). -/
  issued   : Nat
  /-- Channels at which the core has arrived and waits (R75). -/
  waiting  : List Nat
  /-- Fabric times of uncorrectable local-memory errors (R520). -/
  ueTimes  : List U64
  /-- The Squirrel unit's reserve region: the first tree block of the shard that arrived last, with its marks (R158). -/
  reserve  : List (Byte × Bool)
deriving DecidableEq, Repr

/-- A packet of thread mode (R79): a request for a core's local memory, or the reply with its data. -/
structure Packet where
  /-- The router that it is in, and the input port it came by: 0 north, 1 east, 2 south, 3 west, 4 the core itself. -/
  pos    : Nat
  inPort : Nat
  dst    : Nat
  /-- The core and thread that read. -/
  reader : Nat
  thread : Nat
  reply  : Bool
  addr   : Nat
  bytes  : Nat
  data   : List (Byte × Bool)
deriving DecidableEq, Repr

/-- A slot of a tower's stash (R249 to R254). -/
structure StashSlot where
  version : U32
  /-- 0 FREE, 1 LIVE, 2 RETIRED, 3 WRITING. -/
  state   : BitVec 2
deriving DecidableEq, Repr

/-- A tower's stash and its header (R254). -/
structure Stash where
  header  : BitVec 40
  micro   : Bool
  lag     : Byte
  u       : U16
  newest  : U32
  slots   : List StashSlot
  waiting : U32
  updates : U64
  /-- The positions of the owners whose updates wait for a slot, and since when (R251). -/
  stalled : List (Nat × U64)
  /-- Micro-batches in flight: number, version in TAG, and the logical cores that have not finished its backward pass (R251). -/
  flight  : List (U64 × U32 × List Nat)
  /-- A version that every owner has written and that takes effect at the next half swap (R252). -/
  ripe    : Option U32
  /-- Dense steps that have ended since load (R247). -/
  steps   : Nat
deriving DecidableEq, Repr

/-- The mesh: cores, the map epoch, jobs, stashes, and in thread mode the packets in its routers and the input port that each
output port served last, by 5 × position + port. -/
structure Mesh where
  cores    : Sparse Core
  mapBuilt : Bool
  epoch    : U64
  jobs     : List Job
  stashes  : Sparse Stash
  packets  : List Packet
  served   : Sparse Nat
deriving DecidableEq, Repr

/-! ## Streams (R265 to R299) -/

/-- A stream descriptor (R265). -/
structure Desc where
  farAddr  : U64
  farKind  : BitVec 4
  out      : Bool
  rt       : Bool
  srcFmt   : BitVec 4
  dstFmt   : BitVec 4
  conv     : BitVec 4
  priority : BitVec 4
  armGen   : U16
  counts   : List U32
  strides  : List U64
  nearA    : BitVec 20
  nearB    : BitVec 20
  halfBytes : U32
  deadline : U32
  tensor   : U32
  elemBytes : U16
  next     : BitVec 14
  indexBase : BitVec 48
  compAddr : BitVec 40
deriving DecidableEq, Repr

/-- States of a slot (R272). -/
inductive SState where
  | idle | active | wait | blocked | done | killed | fault
deriving DecidableEq, Repr

/-- A stream slot: descriptor, shadow, status bits and the transfer in hand. -/
structure Slot where
  state    : SState
  desc     : Option Desc
  shadow   : Option Desc
  half     : Bool
  late     : Bool
  spilled  : Bool
  refused  : Bool
  gen      : U16
  /-- Transfers released so far; the engine works transfer released − 1. -/
  released : Nat
  /-- Block accesses of the transfer issued and returned. -/
  issued   : Nat
  returned : Nat
  /-- Fabric time of the transfer's release (R285). -/
  releasedAt : U64
  lateCount : U32
  poisonIn  : U32
  poisonOut : U32
deriving DecidableEq, Repr

/-- What else a slot keeps: its command, elements moved and credits. -/
structure SlotRun where
  /-- Queue and first entry index of the command that runs the stream. -/
  owner    : Option (Nat × U32)
  elements : U64
  /-- A STREAM_OPEN has been accepted for the receiving half (R419). -/
  opened   : Bool
  /-- Bytes landed of the receiving or host-read half. -/
  landed   : Nat
  /-- The POISON_IN event was raised in this command (R292). -/
  poisonSeen : Bool
  /-- A half has been spilled to these frames, oldest first. -/
  frames   : List Nat
  /-- The stream has spilled a half (record FLAGS [3]). -/
  everSpilled : Bool
  killed   : Bool
  /-- The descriptor was armed by the program (R51). -/
  byProgram : Bool
  /-- The Den clock edge after which a KILL reached the slot (R278). -/
  killedAt : Option Nat
  /-- Bytes of a FABRIC read that have come from each module and not yet landed. -/
  parts    : List (Nat × List (Byte × Bool))
  /-- The transfer of each spilled OUT half and the acknowledgements that it still waits for, oldest first (R293). -/
  owed     : List (Nat × Nat)
  /-- Bytes with their poison marks that wait for the rest of their element: a host read's, or a Badger request's. -/
  tail     : List (Byte × Bool)
deriving DecidableEq, Repr

/-- Arbitration of one side (R284 to R287). -/
structure Side where
  force    : BitVec 2
  /-- Mode in force: true is deadline. -/
  mode     : Bool
  owlChoice : Bool
  lastServed : Nat
deriving DecidableEq, Repr

/-- The stream engines. -/
structure Streams where
  slots  : Sparse Slot
  runs   : Sparse SlotRun
  sides  : Sparse Side
  /-- Spill frames in use: the slot that holds each (R294). -/
  spill  : Sparse (Option Nat)
deriving DecidableEq, Repr

/-! ## Memory stacks (R386 to R409) -/

/-- A memory error record (R404). -/
structure MemRecord where
  stamp   : U64
  address : BitVec 40
  kind    : Byte
  source  : Byte
  symbols : Byte
  channel : Byte
  flags   : Byte
  positions : U32
  inner   : U32
deriving DecidableEq, Repr

/-- What a channel keeps. -/
structure Channel where
  capture    : Option MemRecord
  /-- A corrected read, a marked write was logged in this health tick. -/
  ceLogged   : Bool
  poisonLogged : Bool
  /-- Position of the scrub pass, in blocks. -/
  scrubAt    : BitVec 24
  /-- The bank refreshed next (R394). -/
  refreshBank : BitVec 6
  /-- Scrub passes this channel has completed (R402). -/
  passes     : Nat
deriving DecidableEq, Repr

/-- The stacks: contents, poison syndromes, channels and the memory block's registers. -/
structure Memory where
  cells      : Sparse Byte
  /-- Poisoned granules, by device address div 64. -/
  poison     : Sparse Bool
  channels   : Sparse Channel
  scrubFrame : BitVec 20
  scrubActive : Bool
  selfRefresh : Bool
  hot        : Byte
  logNext    : BitVec 15
  logWrapped : Bool
  /-- A record was lost before the next one written (R405). -/
  logLost    : Bool
  /-- Allocations of the software range: address, bytes (R545). -/
  allocs     : List (Nat × Nat)
  /-- Host windows: number, address, bytes (R480). -/
  windows    : List (Nat × Nat × Nat)
deriving DecidableEq, Repr

/-! ## Ensembles and scoring groups (R126 to R178) -/

/-- A feature of the feature table (R128) with its boundaries. -/
structure Feature where
  bounds    : List U32
  rawFmt    : Byte
  wide      : Bool
  missEn    : Bool
  missValue : U32
deriving DecidableEq, Repr

/-- A tree of an image: its kind, depth and 64-bit words (R129, R137, R140). -/
structure Tree where
  symmetric : Bool
  depth     : Nat
  words     : List U64
  leaves    : Nat
deriving DecidableEq, Repr

/-- A decision table (R150). -/
structure Decision where
  count      : Nat
  nanCode    : Byte
  poisonCode : Byte
  thresholds : List U32
  codes      : List Byte
deriving DecidableEq, Repr

/-- The contents of a checked ensemble image (R127 to R131, R149, R150). -/
structure Ensemble where
  fixedPoint : Bool
  scale      : Nat
  outputs    : Nat
  transform  : Byte
  decisionOut : Byte
  features   : List Feature
  trees      : List Tree
  catmaps    : List (List Byte)
  leaves     : List (List U32)
  base       : List U32
  pwl        : List U32
  decision   : Option Decision
deriving DecidableEq, Repr

/-- A live version (R155). -/
structure EnsVersion where
  number  : U32
  content : Ensemble
  /-- Batches started under it and not ended. -/
  batches : Nat
  /-- Device address and length of its image, for the image slots of R202. -/
  addr    : Nat
  bytes   : Nat
  /-- The deletions of its ensemble's ID before it was published (R157). -/
  era     : Nat
deriving DecidableEq, Repr

/-- An ensemble (R153). -/
structure EnsObj where
  present  : Bool
  current  : U32
  versions : List EnsVersion
  /-- Deletions of this ID so far: a created ensemble numbers its versions anew (R157). -/
  era      : Nat
deriving DecidableEq, Repr

/-- Where a batch's records come from and its answers go. -/
inductive BatchSource where
  /-- A SCORE command: queue, first entry index, first record. -/
  | score (queue : Nat) (index : U32) (first : Nat)
  /-- A service entry's batch of datagrams. -/
  | service (entry : Nat)
deriving DecidableEq, Repr

/-- One datagram of a batch (R450, R451). -/
structure Datagram where
  port      : Nat
  frame     : List Byte
  records   : Nat
  requestId : U64
  clientTime : U64
  tIn       : U64
  /-- Its frame's position in the receive buffer. -/
  pos       : Nat
deriving DecidableEq, Repr

/-- One record in a batch: its slot of the record buffer with its codes and poison mark, whether a walk of it read poison
(R175), the leaves it reached, and its part of the score-register set (R158). -/
structure Record where
  codes    : List U32
  poisoned : Bool
  spoilt   : Bool
  /-- Leaf row and ordinal reached, by tree index. -/
  reached  : List (Nat × Nat × Nat)
  /-- Score registers, one for each output: the XS64 sum of fixed-point leaves over all steps, or the LF32 partial of the last
  shard in the low bits (R171). -/
  sums     : List Xs
  /-- LF32 partials by shard: the outputs (R171). -/
  partials : List (Nat × List U32)
deriving DecidableEq, Repr

/-- A batch (R156, R168 to R173). -/
structure Batch where
  source   : BatchSource
  layout   : Layout
  version  : U32
  records  : List Record
  datagrams : List Datagram
  step     : Nat
  deadline : Option U64
  missed   : Bool
  flags    : BitVec 6
  /-- Replays of it so far (R376). -/
  replays  : Nat
  admitted : U64
  /-- The job it preempts. -/
  preempts : Option (Nat × U32)
  /-- It runs in a bubble window (R257). -/
  window   : Bool
  /-- Its number within its service (R369). -/
  number   : U32
  /-- Poisoned granules of its version's shards, as shard and granule (R175). -/
  bad      : List (Nat × Nat)
  /-- The deletions of its ensemble's ID before its version was published (R157). -/
  era      : Nat
  /-- Its version is streamed into the group before its first step (R170). -/
  load     : Bool
  /-- Keys of the step before that lie in a key half and are still to be drained: offset in the batch's key area, the key and
  its mark (R172). -/
  due      : List (Nat × List Byte × Bool)
deriving DecidableEq, Repr

/-- A scoring group, by its first logical core. -/
structure ScoreGroup where
  /-- The layout of the last batch that it admitted; none once a core of it is absent (R177). -/
  layout  : Option Layout
  /-- The version whose shards it holds, with the deletions before it (R170). -/
  held    : Option (U32 × Nat)
  /-- Poisoned granules of the shards that it holds (R175). -/
  bad     : List (Nat × Nat)
  /-- Half B of the node store is the active one; half B of the records, or of the keys, is the next to be written. -/
  nodeB   : Bool
  recordB : Bool
  keyB    : Bool
  active  : Option Batch
  /-- A batch admitted during the active batch's last step (R170). -/
  next    : Option Batch
  /-- The batch in the finish stage (R173). -/
  finishing : Option Batch
deriving DecidableEq, Repr

/-- The ensembles and the scoring groups. -/
structure Scoring where
  ensembles : Sparse EnsObj
  groups    : Sparse ScoreGroup
deriving DecidableEq, Repr

/-! ## Growth (R179 to R204) -/

/-- A staged record (R185): its candidates' codes, label, weight and supplied gradients, its held scores, the gradients of
the tree in progress, and where it lies in that tree. -/
structure GrowRecord where
  codes    : List Byte
  label    : U32
  weight   : U32
  given    : U32 × U32
  held     : List Xs
  heldLf   : List U32
  grad     : U32
  hess     : U32
  poisoned : Bool
  /-- Excluded from the tree in progress (R188). -/
  excluded : Bool
  /-- Frontier slot the record lies in, or none once it reached a leaf. -/
  node     : Option Nat
  /-- The value of the leaf it reached in the tree in progress. -/
  leaf     : Option U32
deriving DecidableEq, Repr

/-- A node of a tree: still at the frontier, a leaf with its value, or a split. -/
inductive GrowNode where
  | frontier (slot : Nat)
  | leaf (value : U32)
  | split (feature : U16) (threshold : U16) (missLeft : Bool) (left right : GrowNode)
deriving DecidableEq, Repr

/-- A growth schedule (R183), fields in order. -/
structure Schedule where
  ensemble  : U32
  baseVersion : U32
  loss      : Byte
  output    : Byte
  maxDepth  : Byte
  policy    : Byte
  treesPerRound : U16
  candidates : U16
  maxTrees  : U32
  retireStart : U32
  lambda    : U32
  gamma     : U32
  eta       : U32
  minHess   : U32
  baseG     : U16
  baseH     : U16
  rnd       : Byte
  parts     : Byte
  firstCore : U16
deriving DecidableEq, Repr

/-- The addresses of a growth schedule (R183). -/
structure ScheduleAt where
  records   : U32
  collective : U32
  candAddr  : U64
  codesAddr : U64
  labelAddr : U64
  weightAddr : U64
  rawAddr   : U64
  gradAddr  : U64
  workAddr  : U64
  workBytes : U64
  imageArea : U64
  slotBytes : U64
  imageSlots : Byte
  reserved  : Bool
deriving DecidableEq, Repr

/-- A growth session (R179). -/
structure Session where
  isOpen    : Bool
  queue     : Nat
  sched     : Option (Schedule × ScheduleAt)
  /-- Candidate feature indices of the staged codes (R183). -/
  cands     : List Nat
  inRound   : Bool
  /-- The round's base version, its contents, the deletions of its ensemble's ID before it, and its K, leaf format and s
  (R157, R185). -/
  base      : U32
  content   : Option Ensemble
  era       : Nat
  outputs   : Nat
  fixedPoint : Bool
  scale     : Nat
  records   : List GrowRecord
  scoresValid : Bool
  lastPublished : Option U32
  /-- The retirement cursor (R201). -/
  cursor    : Nat
  treeInRound : Nat
  /-- The tree in progress and its frontier depth. -/
  tree      : Option (GrowNode × Nat)
  /-- The totals G and H of each frontier node. -/
  totals    : List (Xs × Xs)
  /-- Full cells of each node that split at the last level: by candidate and bin, gradient and hessian totals (R192). -/
  parents   : List (List (Sparse (Xs × Xs)))
  /-- Finished trees not yet published, with their depths. -/
  finished  : List (GrowNode × Nat)
  /-- Levels grown (R190). -/
  levels    : Nat
deriving DecidableEq, Repr

/-- What a growth report tells (R204). -/
structure GrowReport where
  session  : Nat
  op       : Nat
  events   : BitVec 7
  level    : Byte
  tree     : Nat
  split    : Nat
  leaves   : Nat
  version  : U32
  base     : U32
  first    : Nat
  placed   : Nat
  replFirst : Nat
  replaced : Nat
  excluded : Nat
  reject   : Nat
  hist     : Nat
deriving DecidableEq, Repr

/-- A GROW command whose publication is retried (R202): the session as its work left it, and its report so far. -/
structure GrowRetry where
  session : Session
  report  : GrowReport
deriving DecidableEq, Repr

/-! ## Embedding tables (R205 to R236) -/

/-- A table descriptor (R205). -/
structure TableDesc where
  rows     : U64
  width    : U16
  fmt      : Byte
  opt      : Byte
  stage    : Byte
  rounding : Byte
  stageBase : U16
  keyMode  : Byte
  leafBits : Byte
  shard    : Byte
  treeBase : U32
  mu       : U32
  eps      : U32
  initAcc  : U32
  tensor   : U32
  collective : U32
  slots    : U32
  undoBytes : U32
deriving DecidableEq, Repr

/-- A directory entry (R212). -/
structure Page where
  channel : Byte
  frame   : BitVec 20
  pinned  : Bool
deriving DecidableEq, Repr

/-- A staging slot in use (R218, R221). -/
structure Staged where
  channel : Nat
  slot    : Nat
  row     : Nat
  step    : U32
  tag     : Byte
  values  : List (BitVec 128)
  range   : Bool
deriving DecidableEq, Repr

/-- An undo-log entry (R222): the channel, local row, the addends as they entered, whether the row was first touched, and the
issuing job, a command of this module or, with 2^18 × (module + 1) added to its queue, of another. -/
structure Undo where
  channel : Nat
  row     : Nat
  values  : List U32
  first   : Bool
  job     : Nat × U32
  /-- The scatter as it arrived. -/
  request : List Byte
deriving DecidableEq, Repr

/-- A pin (R234). -/
structure Pin where
  first  : Nat
  pages  : Nat
  target : Byte
deriving DecidableEq, Repr

/-- A gather held at its engine (R226, R228). -/
structure HeldGather where
  request : List Byte
  owner   : Option (Nat × U32)
deriving DecidableEq, Repr

/-- A table. -/
structure Table where
  desc       : Option TableDesc
  step       : Option U64
  incomplete : Bool
  /-- APPLY has begun and not closed the step: rows serve no gathers (R228). -/
  applying   : Bool
  pages      : Sparse (Option Page)
  /-- Frames of each channel that hold its directory, its staging slots and its undo log, in this order, as runs: the first frame
  and how many (R212, R218). -/
  areas      : Sparse (List (Nat × Nat))
  staging    : List Staged
  undo       : List Undo
  /-- Jobs that added a scatter without logging since their last all-core barrier (R222). -/
  unlogged   : List (Nat × U32)
  /-- Jobs that added scatters in the open step (R222). -/
  jobs       : List (Nat × U32)
  /-- Scatters sent to other modules that have not been answered (R226 step 1). -/
  sent       : Nat
  /-- Other modules that scatters of a job of this module went to since its last all-core barrier (R222). -/
  away       : List (ModId × Nat × U32)
  pins       : List Pin
  gathers    : List HeldGather
deriving DecidableEq, Repr

/-- A Badger engine's step count and list of hottest pages (R232): table, page, count. -/
structure Engine where
  accesses : Nat
  heat     : List (Nat × Nat × Nat)
deriving DecidableEq, Repr

/-- The tables and engines. -/
structure Embed where
  tables  : Sparse Table
  engines : Sparse Engine
  placeRatio : U32
  placeMoves : U32
deriving DecidableEq, Repr

/-! ## Fabric (R410 to R440) -/

/-- Link training states (R414). -/
inductive LState where
  | disabled | detect | equalise | laneMap | lock | identify | active | retrain | failed | ethernet
deriving DecidableEq, Repr

/-- A link's status and control registers (R436, R437). -/
structure LinkReg where
  state    : LState
  lanes    : Nat
  reversed : Bool
  polarity : BitVec 4
  dropped  : BitVec 4
  miswire  : Bool
  peerId   : ModId
  peerFace : BitVec 3
  peerLink : BitVec 3
  enable   : Bool
deriving DecidableEq, Repr

/-- A link's protocol state (R420 to R424). -/
structure LinkRun where
  failures  : Nat
  txSeq     : BitVec 12
  rxSeq     : BitVec 12
  unacked   : List Flit
  waiting   : List Flit
  credits   : List Nat
  resends   : Nat
  retried   : Bool
  discarding : Bool
  /-- When a RETRAIN of a link that carries flows began, while the link is not ACTIVE again (R422). -/
  retrainAt : Option U64
  live      : Bool
  roundTrip : U32
  /-- Equalisation coefficients are stored (R414, R514). -/
  coefficients : Bool
  /-- The stamp of the last flit taken, extended to 64 bits (R364, R418). -/
  flitStamp : U64
deriving DecidableEq, Repr

/-- A link. -/
structure Link where
  reg : LinkReg
  run : LinkRun
deriving DecidableEq, Repr

/-- A collective group's box (R427). -/
structure Box where
  loX : Nat
  hiX : Nat
  loY : Nat
  hiY : Nat
  loZ : Nat
  hiZ : Nat
deriving DecidableEq, Repr

/-- A barrier of a group (R428): its current SEQ, the children that have arrived for SEQ and SEQ + 1, the own arrivals. -/
structure GroupBarrier where
  /-- An arrival has set the current SEQ. -/
  begun   : Bool
  seq     : U64
  now     : List Nat
  next    : List Nat
  ownNow  : Bool
  ownNext : Bool
  sentUp  : Bool
deriving DecidableEq, Repr

/-- A running collective (R429 to R431). -/
structure Collective where
  descriptor : List Byte
  crc        : U32
  owner      : Option (Nat × U32)
  /-- The sum so far of each element, with its poison mark. -/
  values     : Sparse Xs
  poison     : Sparse Bool
  /-- The phase and step of the rings that it is in, and the lines of the step that have come (R431). -/
  phase      : Nat
  step       : Nat
  lines      : List Nat
  /-- Its flits that have come and are not taken yet. -/
  inbox      : List Flit
  /-- Members that have been sent the CRC. -/
  told       : List Nat
  failed     : Bool
deriving DecidableEq, Repr

/-- A collective group. -/
structure Group where
  box      : Option Box
  barrier  : GroupBarrier
  seq      : U64
  running  : Option Collective
  /-- COLLECTIVE flits that came before this member started the collective. -/
  early    : List Flit
deriving DecidableEq, Repr

/-- Fabric configuration and routing. -/
structure FabricCfg where
  configured : Bool
  moduleId   : ModId
  sizeX      : Nat
  sizeY      : Nat
  sizeZ      : Nat
  wrap       : BitVec 3
  timeSource : U16
  resetDone  : Bool
  /-- Dead faces of rings: dimension, coordinate of the module, plus direction (R425). -/
  breaks     : List (Nat × Nat × Bool)
  /-- Modules no longer reachable. -/
  unreachable : List Nat
  /-- Children that have sent RESET_SYNC READY (R433). -/
  ready      : List Nat
  readySent  : Bool
  /-- T0 by this module's estimate and the estimated root time minus its own (R433). -/
  t0         : Option (U64 × U64)
deriving DecidableEq, Repr

/-- The fabric. -/
structure Fabric where
  cfg    : FabricCfg
  links  : Sparse Link
  groups : Sparse Group
  /-- Badger requests received in part, by origin and flow key (R419, MORE). -/
  parts  : List (Nat × Nat × List Byte)
deriving DecidableEq, Repr

/-! ## The scoring service (R441 to R466) -/

/-- An Ethernet port configuration (R442). -/
structure PortCfg where
  mac     : List Byte
  vlan    : U16
  ipv4    : List Byte
  flags   : Byte
  ipv6    : List Byte
  rxAddr  : U64
  rxBytes : U32
  txBytes : U32
  txAddr  : U64
deriving DecidableEq, Repr

/-- A port: configuration, status (R464) and buffer use. -/
structure Port where
  cfg       : Option PortCfg
  up        : Bool
  ptpLocked : Bool
  dropping  : Bool
  rxUsed    : Nat
  rxNext    : Nat
  /-- Frames queued in the transmit buffer; a reply of a batch names its entry, ensemble and version. -/
  tx        : List (List Byte × Option (Nat × Nat × U32))
  dropTick  : Bool
  /-- Sync interval announced, in fabric-time units, and the last Sync. -/
  syncEvery : U64
  lastSync  : U64
deriving DecidableEq, Repr

/-- Service entry states (R448). -/
inductive EState where
  | disabled | enabled | draining
deriving DecidableEq, Repr

/-- A service table entry (R447). -/
structure ServiceCfg where
  layoutAddr : U64
  ports      : Byte
  eflags     : Byte
  udpPort    : U16
  queue      : U32
  deadlineNs : U32
  groups     : U16
  stride     : U16
  awakeFloor : U16
  backlog    : Byte
  reserved   : Bool
deriving DecidableEq, Repr

/-- A service entry: contents, state and batches. -/
structure Service where
  cfg      : Option ServiceCfg
  raw      : List Byte
  state    : EState
  layout   : Option Layout
  openBatch : List Datagram
  closed   : List (List Datagram)
  /-- Batches admitted and not ended, and replies of batches not yet sent. -/
  inFlight : Nat
  /-- Batches admitted (R369). -/
  admitted : U32
  dropped  : List Nat
  refusedTick : Bool
  /-- The ensemble was deleted while it was enabled (R462). -/
  deleted  : Bool
  /-- The fabric time of the disable edge. -/
  drainAt  : U64
deriving DecidableEq, Repr

/-- Ports and the service table. -/
structure ServiceBlock where
  ports    : Sparse Port
  services : Sparse Service
deriving DecidableEq, Repr

/-! ## Journal and trace (R368 to R384) -/

/-- A journal or trace record (R369). -/
structure JRecord where
  stamp   : U64
  type    : Byte
  queue   : U32
  index   : U32
  source  : U32
  check   : U32
  payload : List Byte
deriving DecidableEq, Repr

/-- The journal, the trace and their status (R372, R380, R384). -/
structure Journal where
  records   : List JRecord
  /-- Segments that cannot be replayed for want of room (R371), by QUEUE and INDEX. -/
  marked    : List (Nat × U32)
  /-- Transfers that have landed since the restart point, or again since the replay began (R368): QUEUE, INDEX, global stream. -/
  passed    : List (Nat × U32 × Nat)
  full      : Bool
  region    : Option (Nat × Nat)
  /-- Records written to the trace region (R380). -/
  traceRecords : Nat
  writeOff  : Nat
  startedAt : U64
  traceFull : Bool
  diverged  : Bool
  divergeOff : Nat
  divergeAt : U64
  divergeCore : U32
  /-- Offset and number of the next record to inject. -/
  injectOff : Nat
  injected  : Nat
  sources   : BitVec 7
  /-- Ensembles whose admissions, and whose publications, have taken place since REPLAY took effect (R382). -/
  admits    : List Nat
  publishes : List Nat
deriving DecidableEq, Repr

/-! ## The device -/

/-- What the Den cycle in progress holds for its edge: the S32 counters that software has written to zero in it, and the P48
counters that have wrapped in it (R10, R11). -/
structure DenCycle where
  zeroed  : List Nat
  wrapped : List Nat
  /-- The rows whose change of placement the cycle has counted (R83). -/
  rows    : List Nat
  /-- The bits that the block has set for writes of 1 to clear (R473): the offset of the 64-bit word, and the bit. -/
  sets    : List (Nat × Nat)
deriving DecidableEq, Repr

/-- Everything of the block but its command queue. -/
structure Dev where
  out      : Outputs
  time     : Time
  mode     : Mode
  events   : Events
  power    : Power
  health   : Health
  start    : Start
  ident    : Identity
  owl      : Owl
  fe       : FrontEnd
  mesh     : Mesh
  streams  : Streams
  mem      : Memory
  scoring  : Scoring
  sessions : Sparse Session
  /-- GROW commands whose publications are retried, by session (R202). -/
  retries  : List (Nat × GrowRetry)
  embed    : Embed
  fabric   : Fabric
  service  : ServiceBlock
  journal  : Journal
  /-- Every counter of R495 and R527, by the BAR0 offset of its slot. -/
  counters : Sparse U64
  cycle    : DenCycle
  /-- The model's own: how many free values have been drawn. -/
  free     : Nat
deriving DecidableEq, Repr

/-- The bounded configuration registers: POWER_BOUNDS (R507) and MEM_CTRL (R407). A field written with a value outside
its range keeps its old value (R506, R407). -/
structure Bounds where
  ceilingW    : BitVec 11
  floorStep   : BitVec 6
  ceilingStep : BitVec 6
  rowFloor    : BitVec 5
  scrubHours  : Byte
  correctLimit : BitVec 3
  writeback   : Bool
  innerThreshold : Byte
deriving DecidableEq, Repr

/-- The block: the device, its bounded configuration registers, what both were at the last Den clock edge, which RS
registers show (R6, R7), and the commands that wait, first in first out. -/
structure State where
  dev     : Dev
  bounds  : Bounds
  atEdge  : Dev
  edgeBounds : Bounds
  pending : List Instr
deriving DecidableEq, Repr

/-! ## Reset -/

/-- No output has been sent. -/
def Outputs.reset : Outputs :=
  { hostWrites := [], waiting := [], completions := [], frames := [], flits := [], controls := [], msix := [], mgmt := [],
    hostReads := [], aer := [] }

/-- R362: FABRIC_TIME 0, TIME_STATUS 0 with ERROR 0xFFFF. -/
def Time.reset : Time :=
  { ft := 0, edges := 0, aligned := false, isRoot := false, plant := false, plantOffset := 0, error := 0xFFFF,
    rootId := 0, slew := 0, missedSync := 0, admitted := false, syncSent := none, goodSyncs := 0,
    transmitter := none, delayReqAt := none }

/-- No half is held. -/
def PairHalves.reset : PairHalves := { value := none, complement := none }

/-- The MSI-X table of R533: every vector masked, as the PCI standard resets it (log entry 29). -/
def msixReset : Sparse Byte := [(12, 1), (28, 1), (44, 1), (60, 1), (76, 1), (92, 1), (108, 1), (124, 1)]

/-- R306, R349, R379, R472, R531: every mode register at its reset value; BAR4 at 64 GiB (R530). -/
def Mode.reset : Mode :=
  { det := false, refused := false, queueCtl := 0, queueSelect := 0, traceCtl := 0, pairs := [], mismatch := false,
    lastOffset := 0, bar4Base := 0, bar4Log2 := 36, d3hot := false, msixTable := msixReset, msixPending := 0, msixCause := 0 }

/-- R487: LOG2 6, CLASS_EN 0x1FF, all else 0. -/
def Events.reset : Events :=
  { base := 0, enable := false, log2 := 6, classEn := 0x1FF, producer := 0, consumer := 0, overflow := false,
    badBase := false, badConsumer := false, held := [], seq := 0, lost := 0, lostFirst := 0, lostLast := 0 }

/-- R507, R508: every status field 0; STATE 0b000 DEN_ONLY. -/
def Power.reset : Power :=
  { state := .denOnly, regulators54 := false, step := 0, p1 := 0, history := [], p10 := 0, cause := 0, causesNow := 0, overrides := [], throttleRun := false,
    inputMv := 0, inputCa := 0, inputFlags := 0 }

/-- R510: a sensor reads 0. -/
def Sensor.reset : Sensor := { reading := 0, isOpen := false }

/-- R509, R87: a row is gated, with no fault and not fenced. -/
def RowState.reset : RowState :=
  { mv := 0, awake := false, fault := false, droop := false, currentDa := 0, fenced := false }

/-- R506, R524: sensors, rows and MGMT_STATUS read 0. -/
def Health.reset : Health :=
  { sensors := [], rows := [], smbusStuck := false, i3cStuck := false, recovered := false,
    thermtrip := false }

/-- R512, R517: START_CTRL, BOOT_STATUS and the firmware registers read 0. -/
def Start.reset : Start :=
  { kind := 0, preserve := false, perstWarm := false, step := 0, running := false, failed := false, warm := false,
    preserved := false, error := 0, retainValid := false, completed := false, test := none, fwAddr := 0, fwBytes := 0,
    fwGo := false }

/-- R474: no firmware runs; nothing is offered or agreed. -/
def Identity.reset : Identity :=
  { build := 0, minor := 0, major := 0, owlReady := false, offered := 0, agreed := 0,
    negotiated := false }

/-- R474: a mailbox is IDLE. -/
def Mailbox.reset : Mailbox :=
  { state := .idle, before := .idle, refused := false, lastSeq := 0, doneSeq := 0, request := [], response := [] }

/-- R540: a management port holds no fragment. -/
def MgmtPort.reset : MgmtPort :=
  { mail := Mailbox.reset, gathered := none, nextFrag := 0, readFrag := 0, alert := false, address := none,
    recovering := false }

/-- The Owl serves nothing. -/
def Owl.reset : Owl :=
  { pcie := Mailbox.reset, smbus := MgmtPort.reset, i3c := MgmtPort.reset, current := none, waiting := [] }

/-- R305: a queue that has not been created. -/
def Queue.reset : Queue :=
  { ringBase := 0, ringLog2 := 0, inDevice := false, persistent := false, rtAllowed := false, enabled := false,
    priority := 0, state := .unused, gen := 0, windowMs := 0, producer := 0, started := 0, retired := 0,
    slot := none, task := none }

/-- A queue with no doorbell, entry or command. -/
def QueueRun.reset : QueueRun :=
  { doorbells := [], doorbellFt := 0, fetched := [], asked := [], running := [], slotSince := 0, yielding := false, doorbell := 0, need := 0 }

/-- R324: a fence that is not registered. -/
def Fence.reset : Fence := { registered := false, producer := 0, value := 0 }

/-- R332: no task. -/
def Task.reset : Task :=
  { present := false, image := 0, version := 0, queues := [], halves := [], running := none, lastQueue := 0 }

/-- R334: no image. -/
def ImageObj.reset : ImageObj := { loaded := false, unloading := false, versions := [] }

/-- The front end with no queue, fence, image or task. -/
def FrontEnd.reset : FrontEnd :=
  { queues := [], runs := [], summary := [], fences := [], lastAdmitted := [], pollList := [], tasks := [],
    images := [], lastMove := 0, running := false }

/-- R118, R119: the three capture words at 0. -/
def Capture.reset : Capture :=
  { valid := false, more := false, flag := 0, unit := 0, origin := 0, logical := 0, instr := 0, tileRow := 0,
    column := 0, k := 0, stamp := 0 }

/-- R86: LOGICAL 0x7FF, STATE 0b10, CAUSE 0, EPOCH 0. -/
def CoreEntry.reset : CoreEntry := { logical := 0x7FF, state := .fenced, thread := false, cause := 0, epoch := 0 }

/-- R42: a zeroed XS element is 0 with tag 0x00. -/
def Xs.zero : Xs := { reg := 0, tag := 0 }

/-- An owned element before the image loads it. -/
def OwnedElem.reset : OwnedElem :=
  { master := 0, state := 0, total0 := Xs.zero, total1 := Xs.zero, poison0 := false, poison1 := false, working := 0, done := 0 }

/-- No deferred work. -/
def Dense.reset : Dense := { array := [], vector := [], arrayBusy := 0, vectorBusy := 0, owned := [], received := [], arrived := [], rotations := [] }

/-- R78: a thread at pc 0 with its registers at 0 (DESIGN CHOICE, log entry 2). -/
def Thread.reset : Thread := { pc := 0, regs := [], read := none, swap := none }

/-- An empty weight block. -/
def WeightBlock.reset : WeightBlock := { fmt := .lf16, bytes := [], poisoned := [] }

/-- A core after reset: memories and weight blocks at 0 (DESIGN CHOICE, log entry 2), flags and capture clear. -/
def Core.reset : Core :=
  { lm := [], lmPoison := [], acc := [], accPoison := [], active := WeightBlock.reset, staged := WeightBlock.reset, sticky := 0,
    capture := Capture.reset, entry := CoreEntry.reset, dense := Dense.reset, threads := [], lastThread := 15, issued := 0,
    waiting := [], ueTimes := [], reserve := [] }

/-- R254: a stash before its tower is loaded. -/
def Stash.reset : Stash :=
  { header := 0, micro := false, lag := 0, u := 0, newest := 0, slots := [], waiting := 0, updates := 0, stalled := [],
    flight := [], ripe := none, steps := 0 }

/-- R84: the map epoch is 0 and no map is built. -/
def Mesh.reset : Mesh := { cores := [], mapBuilt := false, epoch := 0, jobs := [], stashes := [], packets := [], served := [] }

/-- R274, R276: a slot is IDLE with generation 0. -/
def Slot.reset : Slot :=
  { state := .idle, desc := none, shadow := none, half := false, late := false, spilled := false, refused := false,
    gen := 0, released := 0, issued := 0, returned := 0, releasedAt := 0, lateCount := 0, poisonIn := 0,
    poisonOut := 0 }

/-- A slot that runs for no command. -/
def SlotRun.reset : SlotRun :=
  { owner := none, elements := 0, opened := false, landed := 0, poisonSeen := false, frames := [],
    everSpilled := false, killed := false, byProgram := false, killedAt := none, parts := [], owed := [], tail := [] }

/-- R287: FORCE 0b00, MODE priority. -/
def Side.reset : Side := { force := 0, mode := false, owlChoice := false, lastServed := 0 }

/-- The stream engines at reset. -/
def Streams.reset : Streams := { slots := [], runs := [], sides := [], spill := [] }

/-- A channel that has captured nothing. -/
def Channel.reset : Channel :=
  { capture := none, ceLogged := false, poisonLogged := false, scrubAt := 0, refreshBank := 0, passes := 0 }

/-- R408: statuses 0. Memory lists nothing: every granule is zero with correct check bytes (R515 step 4). -/
def Memory.reset : Memory :=
  { cells := [], poison := [], channels := [], scrubFrame := 0, scrubActive := false, selfRefresh := false, hot := 0, logNext := 0,
    logWrapped := false, logLost := false, allocs := [], windows := [] }

/-- R153: no ensemble. -/
def EnsObj.reset : EnsObj := { present := false, current := 0, versions := [], era := 0 }

/-- A scoring group with no layout and no batch. -/
def ScoreGroup.reset : ScoreGroup := 
  { layout := none, held := none, bad := [], nodeB := false, recordB := false, keyB := false, active := none, next := none,
    finishing := none }

/-- R179: a session is closed. -/
def Session.reset : Session :=
  { isOpen := false, queue := 0, sched := none, cands := [], inRound := false, base := 0, content := none, era := 0, outputs := 0, fixedPoint := false,
    scale := 0, records := [], scoresValid := false, lastPublished := none, cursor := 0, treeInRound := 0, tree := none,
    totals := [], parents := [], finished := [], levels := 0 }

/-- R205: no table. -/
def Table.reset : Table :=
  { desc := none, step := none, incomplete := false, applying := false, pages := [], areas := [], staging := [], undo := [],
    unlogged := [], jobs := [], sent := 0, away := [], pins := [], gathers := [] }

/-- R232: an engine that has served nothing. -/
def Engine.reset : Engine := { accesses := 0, heat := [] }

/-- R233: PLACE_RATIO 1.25 (0x3FA0_0000) and PLACE_MOVES 64. -/
def Embed.reset : Embed := { tables := [], engines := [], placeRatio := 0x3FA00000, placeMoves := 64 }

/-- R436, R437: STATE DISABLED, ENABLE 1. -/
def LinkReg.reset : LinkReg :=
  { state := .disabled, lanes := 0, reversed := false, polarity := 0, dropped := 0, miswire := false, peerId := 0,
    peerFace := 0, peerLink := 0, enable := true }

/-- R420: each virtual channel has 128 credits. -/
def LinkRun.reset : LinkRun :=
  { failures := 0, txSeq := 0, rxSeq := 0, unacked := [], waiting := [], credits := [128, 128, 128, 128],
    resends := 0, retried := false, discarding := false, retrainAt := none, live := false, roundTrip := 0,
    coefficients := false, flitStamp := 0 }

/-- A link at reset. -/
def Link.reset : Link := { reg := LinkReg.reset, run := LinkRun.reset }

/-- A group's barrier before its first arrival, which sets SEQ; one that the module numbers itself is 1 (DESIGN CHOICE, log
entry 16). -/
def GroupBarrier.reset : GroupBarrier :=
  { begun := false, seq := 1, now := [], next := [], ownNow := false, ownNext := false, sentUp := false }

/-- R427: a group that is not defined. -/
def Group.reset : Group := { box := none, barrier := GroupBarrier.reset, seq := 0, running := none, early := [] }

/-- R411, R438: module 0 of a 1 × 1 × 1 fabric, not configured. -/
def FabricCfg.reset : FabricCfg :=
  { configured := false, moduleId := 0, sizeX := 1, sizeY := 1, sizeZ := 1, wrap := 0, timeSource := 0xFFFF,
    resetDone := false, breaks := [], unreachable := [], ready := [], readySent := false, t0 := none }

/-- The fabric at reset. -/
def Fabric.reset : Fabric := { cfg := FabricCfg.reset, links := [], groups := [], parts := [] }

/-- R464: a port that is not set. -/
def Port.reset : Port :=
  { cfg := none, up := false, ptpLocked := false, dropping := false, rxUsed := 0, rxNext := 0, tx := [],
    dropTick := false, syncEvery := 0, lastSync := 0 }

/-- R447: an entry never written. -/
def Service.reset : Service :=
  { cfg := none, raw := [], state := .disabled, layout := none, openBatch := [], closed := [], inFlight := 0, admitted := 0,
    dropped := [], refusedTick := false, deleted := false, drainAt := 0 }

/-- R372, R384: the journal is empty and no trace runs. -/
def Journal.reset : Journal :=
  { records := [], marked := [], passed := [], full := false, region := none, traceRecords := 0, writeOff := 0, startedAt := 0, traceFull := false,
    diverged := false, divergeOff := 0, divergeAt := 0, divergeCore := 0xFFFFFFFF, injectOff := 0, injected := 0,
    sources := 0, admits := [], publishes := [] }

/-- A Den cycle in which nothing has been counted or written. -/
def DenCycle.reset : DenCycle := { zeroed := [], wrapped := [], rows := [], sets := [] }

/-- The device with every register at its reset value. -/
def Dev.reset : Dev :=
  { out := Outputs.reset, time := Time.reset, mode := Mode.reset, events := Events.reset, power := Power.reset,
    health := Health.reset, start := Start.reset, ident := Identity.reset, owl := Owl.reset, fe := FrontEnd.reset,
    mesh := Mesh.reset, streams := Streams.reset, mem := Memory.reset,
    scoring := { ensembles := [], groups := [] }, sessions := [], retries := [], embed := Embed.reset, fabric := Fabric.reset,
    service := { ports := [], services := [] }, journal := Journal.reset, counters := [], cycle := DenCycle.reset, free := 0 }

/-- R507, R407: CEILING_W 1,500, FLOOR_STEP 10, CEILING_STEP 34, ROW_FLOOR 0; SCRUB_HOURS 24, CORRECT_LIMIT 4,
SCRUB_WRITEBACK 1, INNER_THRESHOLD 64. -/
def Bounds.reset : Bounds :=
  { ceilingW := 1500, floorStep := 10, ceilingStep := 34, rowFloor := 0, scrubHours := 24, correctLimit := 4,
    writeback := true, innerThreshold := 64 }

/-- The block right after reset: registers at their reset values, and no command waiting. -/
def State.reset : State :=
  { dev := Dev.reset, bounds := Bounds.reset, atEdge := Dev.reset, edgeBounds := Bounds.reset, pending := [] }

end Sys2Proof.Machine
end

