-- ==== Sys2Proof/Machine/Formats.lean ====
section
/-! DEFINITION. Number formats (chapter 2): values, rounding, conversions, the exact formats and arithmetic on elements. -/

namespace Sys2Proof

/-! ## Element formats and codes (R29, R38, R49) -/

/-- Fraction width of a floating-point format (R29). -/
def Fmt.mant : Fmt → Nat
  | .lf32 => 23 | .lf16 => 8 | .lf8r => 2 | .lf8p => 3 | _ => 0

/-- Bias of a floating-point format (R29). -/
def Fmt.bias : Fmt → Nat
  | .lf32 => 127 | .lf16 => 63 | .lf8r => 15 | .lf8p => 7 | _ => 0

/-- Width in bits of an element's value (R29). -/
def Fmt.width : Fmt → Nat
  | .lf32 | .int32 => 32
  | .lf16 | .int16 | .bin16 => 16
  | .lf8r | .lf8p | .int8 | .bin8 => 8
  | .xs64 => 64
  | .xs128 => 128

/-- Size in bytes of an element's value plane (R29, R48). -/
def Fmt.size (f : Fmt) : Nat := f.width / 8

/-- The four floating-point formats. -/
def Fmt.isFloat : Fmt → Bool
  | .lf32 | .lf16 | .lf8r | .lf8p => true
  | _ => false

/-- The three signed integer formats. -/
def Fmt.isInt : Fmt → Bool
  | .int8 | .int16 | .int32 => true
  | _ => false

/-- The two bin-code formats. -/
def Fmt.isBin : Fmt → Bool
  | .bin8 | .bin16 => true
  | _ => false

/-- The exact formats. -/
def Fmt.isXs : Fmt → Bool
  | .xs64 | .xs128 => true
  | _ => false

/-- Formats with infinities: LF32 and LF16 (R29). -/
def Fmt.hasInf : Fmt → Bool
  | .lf32 | .lf16 => true
  | _ => false

/-- Magnitude code of the largest finite value of the given sign (R38). -/
def Fmt.maxCode (f : Fmt) (neg : Bool) : Nat :=
  match f with
  | .lf32 => 0x7F7FFFFF
  | .lf16 => 0x7EFF
  | _ => if neg then 0x7E else 0x7F

/-- Code of a rounding mode (R49). -/
def Rnd.code : Rnd → Nat
  | .nearestEven => 0
  | .towardZero => 1
  | .stochastic => 2

/-- The rounding mode of a 2-bit field; the reserved 0b11 has none. -/
def Rnd.ofCode : Nat → Option Rnd
  | 0 => some .nearestEven
  | 1 => some .towardZero
  | 2 => some .stochastic
  | _ => none

/-- The functions of R68 that the numerical reference defines, by code. -/
def VFun.code : VFun → Nat
  | .reciprocal => 0 | .sqrt => 1 | .rsqrt => 2 | .exp => 3 | .exp2 => 4 | .log => 5 | .log2 => 6
  | .logistic => 7 | .tanh => 8 | .erf => 9 | .abs => 10 | .neg => 11

end Sys2Proof

namespace Sys2Proof.Machine
open Sys2Proof

/-! ## Flags (R55, bits of R116) -/

/-- Flag bits of R116. -/
def fInvalid : BitVec 6 := 1
/-- OVERFLOW_INF. -/
def fOverflow : BitVec 6 := 2
/-- INT_SAT. -/
def fIntSat : BitVec 6 := 4
/-- RANGE. -/
def fRange : BitVec 6 := 8
/-- XS_LOW. -/
def fXsLow : BitVec 6 := 16
/-- XS_OVERFLOW. -/
def fXsOver : BitVec 6 := 32

/-- A result element: its bits, the flags it sets and the origin code of a NaN it generates (R118). -/
structure Res where
  bits   : Nat
  flags  : BitVec 6
  origin : BitVec 6
deriving DecidableEq, Repr

/-- A result with no flag. -/
def Res.plain (x : Nat) : Res := { bits := x, flags := 0, origin := 0 }

/-! ## Values (R30) -/

/-- The value of an element: a NaN with its payload in the element's own format (R35), an infinity, or
(−1)^neg × num / den × 2^exp. -/
inductive Num where
  | nan (payload : Nat)
  | inf (neg : Bool)
  | fin (neg : Bool) (num den : Nat) (exp : Int)
deriving DecidableEq, Repr

/-- The sign bit placed. -/
def signed (f : Fmt) (neg : Bool) (code : Nat) : Nat := if neg then code + 2 ^ (f.width - 1) else code

/-- The infinity of a format that has one (R38). -/
def infBits (f : Fmt) (neg : Bool) : Nat := signed f neg (f.maxCode false + 1)

/-- Read a floating-point element (R30, R32, R34, R35). -/
def readFloat (f : Fmt) (x : Nat) : Num :=
  let m := f.mant
  let neg := bitOf x (f.width - 1)
  let frac := x % 2 ^ m
  let e := (x >>> m) % 2 ^ (f.width - 1 - m)
  let top := 2 ^ (f.width - 1 - m) - 1
  if f.hasInf && decide (e = top) then
    if frac = 0 then .inf neg else .nan (if f = .lf32 then frac % 2 ^ 22 else frac)
  else if (!f.hasInf) && decide (x % 256 = 0xFF) then .nan 0
  else if e = 0 then .fin neg frac 1 (1 - (f.bias : Int) - m)
  else .fin neg (2 ^ m + frac) 1 ((e : Int) - f.bias - m)

/-- An integer as a value. -/
def intNum (n : Int) : Num := .fin (decide (n < 0)) n.natAbs 1 0

/-- Read an element of any format of R29 but XS. -/
def readElem (f : Fmt) (x : Nat) : Num :=
  if f.isFloat then readFloat f x
  else if f.isInt then intNum (toSigned f.width x)
  else .fin false x 1 0

/-! ## NaNs (R32 to R37) -/

/-- Write a NaN of the given payload (R32, R34). -/
def nanBits (f : Fmt) (payload : Nat) : Nat :=
  match f with
  | .lf32 => 0x7FC00000 + payload % 2 ^ 22
  | .lf16 => 0x7F00 + payload % 256
  | _ => 0xFF

/-- The payload of a NaN that is generated with an origin code (R33, R34); core is the core field. -/
def genPayload (f : Fmt) (origin core : Nat) : Nat :=
  match f with
  | .lf32 => origin * 65536 + core % 65536
  | .lf16 => origin / 8 * 32 + 1
  | _ => 0

/-- The NaN class of a payload (R37, R43 step 1). -/
def nanClass (f : Fmt) (payload : Nat) : Nat :=
  match f with
  | .lf32 => bits payload 21 19
  | .lf16 => bits payload 7 5
  | _ => 0

/-- A NaN's payload carried from one format into another (R37). -/
def nanCarry (src dst : Fmt) (payload : Nat) : Nat :=
  if src = dst then payload
  else match src, dst with
    | .lf32, .lf16 => bits payload 21 19 * 32 + 1
    | .lf16, .lf32 => (8 * bits payload 7 5) * 65536 + 0xFFFF
    | _, .lf16 => 0x01
    | _, _ => 0x01FFFF

/-- The origin code of a NaN's payload in a format: its own in LF32, that of the widened NaN otherwise (R36, R37). -/
def nanOrigin (f : Fmt) (payload : Nat) : BitVec 6 := BitVec.ofNat 6 (bits (nanCarry f .lf32 payload) 21 16)

/-- A NaN that an operation generates (R33, R36), competing with the operands' payloads (R35), and the flag INVALID
when its class is 1 (R55). -/
def genNan (f : Fmt) (origin core : Nat) (others : List Nat) : Res :=
  { bits := nanBits f ((genPayload f origin core :: others).foldl max 0),
    flags := if origin / 8 = 1 then fInvalid else 0, origin := BitVec.ofNat 6 origin }

/-- The payloads of the operands that are NaN. -/
def nansOf : List Num → List Nat
  | [] => []
  | .nan p :: l => p :: nansOf l
  | _ :: l => nansOf l

/-- Bits of an element of a format that is derived from poisoned data (R36, R40, R59). -/
def poisonElem (f : Fmt) (core : Nat) (x : Nat) : Nat :=
  if f.isFloat then nanBits f (genPayload f 0x10 core)
  else if f.isInt then 2 ^ (f.width - 1)
  else x

/-! ## Rounding (R49 to R51) -/

/-- The random bits of R51. -/
def srBits (tensor : U32) (index : BitVec 48) (step : U32) : Nat :=
  let z0 : BitVec 64 := (tensor.setWidth 64 <<< 32) ||| step.setWidth 64
  let z1 := z0 ^^^ (index.setWidth 64 * 0x9E3779B97F4A7C15)
  let z2 := (z1 ^^^ (z1 >>> 30)) * 0xBF58476D1CE4E5B9
  let z3 := (z2 ^^^ (z2 >>> 27)) * 0x94D049BB133111EB
  let z4 := z3 ^^^ (z3 >>> 31)
  (z4 >>> 32).toNat

/-- Round the nonnegative rational n / d to an integer (R50), and whether bits were lost. sr: the bits of R51. -/
def roundInt (r : Rnd) (sr n d : Nat) : Nat × Bool :=
  let lo := n / d
  let rem := n % d
  if rem = 0 then (lo, false)
  else match r with
    | .nearestEven =>
      if 2 * rem > d then (lo + 1, true)
      else if 2 * rem = d then (lo + lo % 2, true)
      else (lo, true)
    | .towardZero => (lo, true)
    | .stochastic => (if sr < rem * 2 ^ 32 / d then lo + 1 else lo, true)

/-- The integer multiple of 2^q next to num / den × 2^exp, rounded (R50). -/
def roundAt (r : Rnd) (sr num den : Nat) (exp q : Int) : Nat × Bool :=
  if q ≤ exp then roundInt r sr (num * 2 ^ (exp - q).toNat) den
  else roundInt r sr num (den * 2 ^ (q - exp).toNat)

/-- The exponent E with 2^E ≤ num / den × 2^exp < 2^(E+1), for num > 0. -/
def floorLog (num den : Nat) (exp : Int) : Int :=
  let l : Int := (Nat.log2 num : Int) - Nat.log2 den
  let ok := if 0 ≤ l then decide (den * 2 ^ l.toNat ≤ num) else decide (den ≤ num * 2 ^ (-l).toNat)
  exp + (if ok then l else l - 1)

/-- The magnitude code of num / den × 2^exp in a floating-point format, its exponent unbounded above (R49). -/
def roundCode (f : Fmt) (r : Rnd) (sr num den : Nat) (exp : Int) : Nat :=
  if num = 0 then 0
  else
    let emin : Int := 1 - (f.bias : Int)
    let e := max (floorLog num den exp) emin
    let k := (roundAt r sr num den exp (e - f.mant)).1
    (e - emin).toNat * 2 ^ f.mant + k

/-- Round an exact value of an arithmetic operation to LF32 or LF16; beyond the range it becomes an infinity and sets
OVERFLOW_INF (R55). -/
def roundArith (f : Fmt) (r : Rnd) (sr : Nat) (neg : Bool) (num den : Nat) (exp : Int) : Res :=
  let c := roundCode f r sr num den exp
  if c ≤ f.maxCode neg then Res.plain (signed f neg c)
  else { bits := infBits f neg, flags := fOverflow, origin := 0 }

/-! ## Conversions between the plain formats (R52 to R54) -/

/-- Whether a pair of formats is offered (R52). -/
def convOffered (src dst : Fmt) : Bool :=
  match src, dst with
  | .bin8, d => d = .int16 || d = .int32 || d = .bin8 || d = .bin16
  | .bin16, d => d = .int32 || d = .bin8 || d = .bin16
  | _, d => !d.isBin

/-- A finite value beyond a floating-point target (R53). -/
def beyondFloat (f : Fmt) (neg sat : Bool) : Res :=
  { bits := if f.hasInf && !sat then infBits f neg else signed f neg (f.maxCode neg), flags := fRange, origin := 0 }

/-- A signed integer into a target of width w: saturated or wrapped beyond its range (R53). -/
def clampInt (w : Nat) (iov : Bool) (n : Int) : Res :=
  if -(2 ^ (w - 1) : Int) ≤ n ∧ n < (2 ^ (w - 1) : Int) then Res.plain (ofSigned w n)
  else
    { bits := if iov then ofSigned w n else if n < 0 then 2 ^ (w - 1) else 2 ^ (w - 1) - 1, flags := fRange,
      origin := 0 }

/-- An infinity converted to a format (R52 code I, R54, R46 step 2). -/
def convInf (dst : Fmt) (sat neg : Bool) : Res :=
  if dst.hasInf then Res.plain (infBits dst neg)
  else if dst.isFloat then
    (if sat then { bits := signed dst neg (dst.maxCode neg), flags := fRange, origin := 0 }
      else { bits := 0xFF, flags := fInvalid, origin := 0 })
  else { bits := if neg then 2 ^ (dst.width - 1) else 2 ^ (dst.width - 1) - 1, flags := fRange, origin := 0 }

/-- A finite value rounded into a floating-point or integer target (R49, R52, R53). -/
def convFin (dst : Fmt) (sat iov : Bool) (r : Rnd) (sr : Nat) (neg : Bool) (num den : Nat) (exp : Int) : Res :=
  if dst.isFloat then
    let c := roundCode dst r sr num den exp
    if c ≤ dst.maxCode neg then Res.plain (signed dst neg c) else beyondFloat dst neg sat
  else
    let k := (roundAt r sr num den exp 0).1
    clampInt dst.width iov (if neg then -(k : Int) else k)

/-- Convert an element between two formats that are neither XS (R52). -/
def convElem (src dst : Fmt) (sat iov : Bool) (r : Rnd) (sr x : Nat) : Res :=
  if src.isBin then
    match src, dst with
    | .bin8, .bin16 => Res.plain (if x = 0xFF then 0xFFFF else x)
    | .bin16, .bin8 =>
      if x = 0xFFFF then Res.plain 0xFF
      else if x ≤ 0xFE then Res.plain x
      else { bits := 0xFE, flags := fRange, origin := 0 }
    | _, _ => Res.plain x
  else match readElem src x with
    | .nan p => if dst.isFloat then Res.plain (nanBits dst (nanCarry src dst p))
                else { bits := 0, flags := fInvalid, origin := nanOrigin src p }
    | .inf neg => convInf dst sat neg
    | .fin neg num den exp => convFin dst sat iov r sr neg num den exp

/-! ## The exact formats (R41 to R48) -/

/-- Register width of an XS format. -/
def xsWidth (wide : Bool) : Nat := if wide then 128 else 64

/-- Window width of an XS format: values lie in −2^w to 2^w − 1 (R41). -/
def xsWindow (wide : Bool) : Nat := if wide then 111 else 47

/-- The integer an XS register holds. -/
def xsInt (wide : Bool) (x : Xs) : Int := toSigned (xsWidth wide) x.reg.toNat

/-- An XS register of an integer, modulo its width and held sign-extended. -/
def xsReg (wide : Bool) (n : Int) : BitVec 128 := BitVec.ofInt 128 (toSigned (xsWidth wide) (ofSigned (xsWidth wide) n))

/-- KIND of a tag (R42): 0 finite, 1 +INF, 2 −INF, 3 NaN. -/
def tagKind (t : Byte) : Nat := bits t.toNat 1 0
/-- LOW of a tag (R42). -/
def tagLow (t : Byte) : Bool := bitOf t.toNat 2
/-- CLASS of a tag (R42). -/
def tagClass (t : Byte) : Nat := bits t.toNat 7 5
/-- A tag of its fields; CLASS is 0 when KIND is not NaN (R42). -/
def mkTag (kind : Nat) (low : Bool) (cls : Nat) : Byte :=
  BitVec.ofNat 8 (kind + 4 * b2n low + (if kind = 3 then 32 * cls else 0))

/-- In range: the guard bits repeat the window's sign (R41). -/
def xsInRange (wide : Bool) (n : Int) : Bool :=
  decide (-(2 ^ xsWindow wide : Int) ≤ n) && decide (n < (2 ^ xsWindow wide : Int))

/-- An integer result in a window: beyond it the tag becomes an infinity and RANGE is set (R43 step 4, R47). -/
def xsPlace (wide : Bool) (n : Int) (low : Bool) : Xs × BitVec 6 :=
  if xsInRange wide n then ({ reg := xsReg wide n, tag := mkTag 0 low 0 }, 0)
  else ({ reg := 0, tag := mkTag (if n < 0 then 2 else 1) false 0 }, fRange)

/-- A value as an addend of an XS total of base b (R43); f is the format its NaN payload is in. -/
def xsAddend (wide : Bool) (b : Int) (r : Rnd) (sr : Nat) (f : Fmt) (v : Num) : Xs × BitVec 6 :=
  match v with
  | .nan p => ({ reg := 0, tag := mkTag 3 false (nanClass f p) }, 0)
  | .inf neg => ({ reg := 0, tag := mkTag (if neg then 2 else 1) false 0 }, 0)
  | .fin neg num den exp =>
    let (k, lost) := roundAt r sr num den exp b
    xsPlace wide (if neg then -(k : Int) else k) lost

/-- The NaN class that a tag brings to a sum: a tag of another KIND brings none (R44; log entry 91). -/
def tagNanClass (t : Byte) : Nat := if tagKind t = 3 then tagClass t else 0

/-- KIND and CLASS combine by the table of R44. -/
def tagJoin (s t : Byte) : Byte :=
  let low := tagLow s || tagLow t
  let ks := tagKind s
  let kt := tagKind t
  if ks = 3 ∨ kt = 3 then mkTag 3 low (max (tagNanClass s) (tagNanClass t))
  else if ks = 0 then mkTag kt low 0
  else if kt = 0 ∨ ks = kt then mkTag ks low 0
  else mkTag 3 low 1

/-- Whether infinities of both signs meet in a sum, which generates a NaN of class 1 (R44). -/
def tagsClash (s t : Byte) : Bool := decide ((tagKind s = 1 ∧ tagKind t = 2) ∨ (tagKind s = 2 ∧ tagKind t = 1))

/-- The flag of an XS addition: INVALID, of origin INVALID_SUM, where it generates a NaN of class 1 (R44, R55). -/
def xsAddFlag (x y : Xs) : Res := if tagsClash x.tag y.tag then { bits := 0, flags := fInvalid, origin := 0x09 } else Res.plain 0

/-- Two XS elements of one width and base add (R44). -/
def xsAdd (wide : Bool) (x y : Xs) : Xs :=
  { reg := xsReg wide (xsInt wide x + xsInt wide y), tag := tagJoin x.tag y.tag }

/-- An XS element of a given class that is NaN, for poisoned data (R36, R42). -/
def xsNan (cls : Nat) : Xs := { reg := 0, tag := mkTag 3 false cls }

/-- The flags that every conversion out sets: XS_LOW (R46). -/
def xsLowFlag (x : Xs) : BitVec 6 := if tagLow x.tag then fXsLow else 0

/-- Convert an XS element out to a floating-point or integer format (R46). -/
def xsOut (wide : Bool) (b : Int) (dst : Fmt) (sat iov : Bool) (r : Rnd) (sr : Nat) (x : Xs) : Res :=
  let n := xsInt wide x
  let base : Res :=
    match tagKind x.tag with
    | 3 => if dst.isFloat then Res.plain (nanBits dst (genPayload dst (8 * tagClass x.tag) 0xFFFF))
           else { bits := 0, flags := fInvalid, origin := BitVec.ofNat 6 (8 * tagClass x.tag) }
    | 1 => convInf dst sat false
    | 2 => convInf dst sat true
    | _ =>
      if xsInRange wide n then convFin dst sat iov r sr (decide (n < 0)) n.natAbs 1 b
      else { bits := if dst.isFloat then nanBits dst (genPayload dst 0x19 0xFFFF) else 0, flags := fXsOver,
             origin := 0 }
  { base with flags := base.flags ||| xsLowFlag x }

/-- Convert an XS element to another width or base (R47). -/
def xsToXs (w w' : Bool) (b b' : Int) (r : Rnd) (sr : Nat) (x : Xs) : Xs × BitVec 6 :=
  let n := xsInt w x
  let low := tagLow x.tag
  let (y, fl) : Xs × BitVec 6 :=
    match tagKind x.tag with
    | 3 => ({ reg := 0, tag := mkTag 3 low (tagClass x.tag) }, 0)
    | 1 => ({ reg := 0, tag := mkTag 1 low 0 }, 0)
    | 2 => ({ reg := 0, tag := mkTag 2 low 0 }, 0)
    | _ =>
      if xsInRange w n then
        let (k, lost) := roundAt r sr n.natAbs 1 b b'
        let (z, g) := xsPlace w' (if n < 0 then -(k : Int) else k) lost
        ({ z with tag := mkTag (tagKind z.tag) (low || lost) 0 }, g)
      else ({ reg := 0, tag := mkTag 3 low 3 }, fXsOver)
  (y, fl ||| xsLowFlag x)

/-! ## Arithmetic on elements of LF32 and LF16 (R35, R57 to R59, R68) -/

/-- A finite value as a scaled integer at exponent e, for den = 1. -/
def scaledInt (e : Int) (neg : Bool) (num : Nat) (exp : Int) : Int :=
  let k : Int := num * 2 ^ (exp - e).toNat
  if neg then -k else k

/-- The exact sum of two finite values with den = 1; −0 only when both are −0 (R59). -/
def sumFin (na : Bool) (a : Nat) (ea : Int) (nb : Bool) (b : Nat) (eb : Int) : Bool × Nat × Int :=
  let e := min ea eb
  let s := scaledInt e na a ea + scaledInt e nb b eb
  if s = 0 then (a = 0 && b = 0 && na && nb, 0, e)
  else (decide (s < 0), s.natAbs, e)

/-- A sum of two values in a format. -/
def addNum (f : Fmt) (r : Rnd) (sr core : Nat) (x y : Num) : Res :=
  match x, y with
  | .inf s, .inf t => if s = t then Res.plain (infBits f s) else genNan f 0x09 core []
  | .fin na a _ ea, .fin nb b _ eb =>
    let (n, m, e) := sumFin na a ea nb b eb
    roundArith f r sr n m 1 e
  | .inf s, .fin _ _ _ _ => Res.plain (infBits f s)
  | .fin _ _ _ _, .inf s => Res.plain (infBits f s)
  | _, _ => Res.plain (nanBits f ((nansOf [x, y]).foldl max 0))

/-- A sum of two elements. -/
def addElem (f : Fmt) (r : Rnd) (sr core x y : Nat) : Res := addNum f r sr core (readFloat f x) (readFloat f y)

/-- A value negated; a NaN keeps its payload. -/
def negNum : Num → Num
  | .nan p => .nan p
  | .inf s => .inf (!s)
  | .fin s n d e => .fin (!s) n d e

/-- A difference of two elements. -/
def subElem (f : Fmt) (r : Rnd) (sr core x y : Nat) : Res :=
  addNum f r sr core (readFloat f x) (negNum (readFloat f y))

/-- A product of two values, rounded into a format. -/
def mulNum (f : Fmt) (r : Rnd) (sr core : Nat) (x y : Num) : Res :=
  match x, y with
  | .fin na a _ ea, .fin nb b _ eb => roundArith f r sr (na != nb) (a * b) 1 (ea + eb)
  | .inf s, .fin t b _ _ => if b = 0 then genNan f 0x08 core [] else Res.plain (infBits f (s != t))
  | .fin s a _ _, .inf t => if a = 0 then genNan f 0x08 core [] else Res.plain (infBits f (s != t))
  | .inf s, .inf t => Res.plain (infBits f (s != t))
  | _, _ => Res.plain (nanBits f ((nansOf [x, y]).foldl max 0))

/-- A product of two elements. -/
def mulElem (f : Fmt) (r : Rnd) (sr core x y : Nat) : Res := mulNum f r sr core (readFloat f x) (readFloat f y)

/-- A fused multiply-add x × y + z with one rounding (R68). -/
def fmaNum (f : Fmt) (r : Rnd) (sr core : Nat) (x y z : Num) : Res :=
  let nans := nansOf [x, y, z]
  let prodInf (s : Bool) : Res :=
    match z with
    | .inf t => if s = t then Res.plain (infBits f s) else genNan f 0x09 core nans
    | .nan _ => Res.plain (nanBits f (nans.foldl max 0))
    | .fin _ _ _ _ => Res.plain (infBits f s)
  match x, y with
  | .fin na a _ ea, .fin nb b _ eb =>
    (match z with
     | .fin nc c _ ec =>
       let (n, m, e) := sumFin (na != nb) (a * b) (ea + eb) nc c ec
       roundArith f r sr n m 1 e
     | .inf s => Res.plain (infBits f s)
     | .nan p => Res.plain (nanBits f p))
  | .inf s, .fin t b _ _ => if b = 0 then genNan f 0x08 core nans else prodInf (s != t)
  | .fin s a _ _, .inf t => if a = 0 then genNan f 0x08 core nans else prodInf (s != t)
  | .inf s, .inf t => prodInf (s != t)
  | _, _ => Res.plain (nanBits f (nans.foldl max 0))

/-- A fused multiply-add of elements. -/
def fmaElem (f : Fmt) (r : Rnd) (sr core x y z : Nat) : Res :=
  fmaNum f r sr core (readFloat f x) (readFloat f y) (readFloat f z)

/-- A quotient of two elements (R59). -/
def divElem (f : Fmt) (r : Rnd) (sr core x y : Nat) : Res :=
  match readFloat f x, readFloat f y with
  | .fin na a _ ea, .fin nb b _ eb =>
    if b = 0 then (if a = 0 then genNan f 0x0A core [] else Res.plain (infBits f (na != nb)))
    else roundArith f r sr (na != nb) a b (ea - eb)
  | .inf s, .fin t _ _ _ => Res.plain (infBits f (s != t))
  | .fin s _ _ _, .inf t => Res.plain (signed f (s != t) 0)
  | .inf _, .inf _ => genNan f 0x0A core []
  | u, v => Res.plain (nanBits f ((nansOf [u, v]).foldl max 0))

/-- One in a floating-point format. -/
def oneBits (f : Fmt) : Nat := f.bias * 2 ^ f.mant

/-- A square root, correctly rounded (R59, R68). -/
def sqrtElem (f : Fmt) (r : Rnd) (sr core x : Nat) : Res :=
  match readFloat f x with
  | .nan p => Res.plain (nanBits f p)
  | .inf false => Res.plain (infBits f false)
  | .inf true => genNan f 0x0B core []
  | .fin neg num _ exp =>
    if num = 0 then Res.plain (signed f neg 0)
    else if neg then genNan f 0x0B core []
    else
      let e2 := (exp - 120) / 2 * 2
      let n := num * 2 ^ (exp - e2).toNat
      let q := isqrtBits n 80 0
      roundArith f r sr false (2 * q + b2n (decide (q * q ≠ n))) 1 (e2 / 2 - 1)

/-- The magnitude of an LF32 code as an integer and an exponent; the code of an infinity stands for 2^128. -/
def codeReal (c : Nat) : Real2 :=
  let e : Nat := c / 2 ^ 23
  if e = 0 then (c, -149) else (2 ^ 23 + c % 2 ^ 23, (e : Int) - 150)

/-- A real as an integer at exponent q, cut off. -/
def realAt (q : Int) (x : Real2) : Int := Int.ofNat (if q ≤ x.2 then x.1 * 2 ^ (x.2 - q).toNat else x.1 / 2 ^ (q - x.2).toNat)

/-- Whether an LF32 magnitude code lies within n ulp of a magnitude; lo: the code at or next below that magnitude. -/
def withinUlp (n lo : Nat) (x : Real2) (c : Nat) : Bool :=
  let at_ (y : Real2) : Int := realAt (-420) y
  decide (((at_ (codeReal c) - at_ x).natAbs : Int) ≤ n * (at_ (codeReal (lo + 1)) - at_ (codeReal lo)))

/-- The LF32 magnitude codes within n ulp of a magnitude, none beyond the infinity. -/
def ulpCodes (n : Nat) (x : Real2) : List Nat :=
  let lo := min (roundCode .lf32 .towardZero 0 x.1 1 x.2) (infBits .lf32 false)
  ((List.range (2 * n + 2)).map (fun i => lo + i - n)).eraseDups.filter (fun c =>
    decide (c ≤ infBits .lf32 false) && withinUlp n lo x c)

/-- The LF32 bits of a function of R68 that is not correctly rounded, at a finite operand: one of the values within the error
bound, which the numerical reference chooses (R69; log entry 8). The sign of a result next to an exact zero is its choice too. -/
def refBits (fn : VFun) (r : Rnd) (sr x : Nat) (neg : Bool) (n : Nat) (e : Int) : Nat :=
  let pick := (Config.functionBits fn.code r.code (BitVec.ofNat 32 sr) (BitVec.ofNat 32 x)).toNat
  let v := exactFun fn neg n e
  let codes := ulpCodes (ulpBound fn) v.2
  let c := codes.getD (pick % 2 ^ 31 % codes.length) (min (roundCode .lf32 .towardZero 0 v.2.1 1 v.2.2) (infBits .lf32 false))
  signed .lf32 (if v.2.1 = 0 then decide (2 ^ 31 ≤ pick) else v.1) c

/-- What a function of R68 gives for an infinity, where it has a value there. -/
def refInf (fn : VFun) (neg : Bool) : Nat :=
  match fn with
  | .exp | .exp2 => if neg then 0 else infBits .lf32 false
  | .log | .log2 => infBits .lf32 false
  | .logistic => if neg then 0 else oneBits .lf32
  | .tanh | .erf => signed .lf32 neg (oneBits .lf32)
  | _ => 0

/-- A function of R68 that is not correctly rounded, in LF32 (R59, R68, R69). A finite operand whose result lies beyond the
range sets OVERFLOW_INF; the exact infinities of a logarithm or reciprocal square root of zero set nothing. -/
def refFun32 (fn : VFun) (r : Rnd) (sr core x : Nat) : Res :=
  match readFloat .lf32 x with
  | .nan p => Res.plain (nanBits .lf32 p)
  | .inf neg =>
    if neg && (fn = .rsqrt || fn = .log || fn = .log2) then genNan .lf32 0x0B core [] else Res.plain (refInf fn neg)
  | .fin neg n _ e =>
    if decide (n = 0) && (fn = .log || fn = .log2) then Res.plain (infBits .lf32 true)
    else if decide (n = 0) && fn = .rsqrt then Res.plain (infBits .lf32 neg)
    else if neg && (fn = .rsqrt || fn = .log || fn = .log2) then genNan .lf32 0x0B core []
    else
      let y := refBits fn r sr x neg n e
      { bits := y, flags := if y % 2 ^ 31 = infBits .lf32 false then fOverflow else 0, origin := 0 }

/-- Rounding of an LF32 function result to LF16, where beyond the range is OVERFLOW_INF (R68, R55). -/
def lf32ToLf16Arith (r : Rnd) (sr x : Nat) : Res :=
  match readFloat .lf32 x with
  | .nan p => Res.plain (nanBits .lf16 (nanCarry .lf32 .lf16 p))
  | .inf neg => Res.plain (infBits .lf16 neg)
  | .fin neg n d e => roundArith .lf16 r sr neg n d e

/-- A function of R68 on an element of LF32 or LF16. The LF32 value from which an LF16 result is rounded once is itself rounded
to nearest-even, whatever the rounding field (DESIGN CHOICE, log entry 96). -/
def funElem (fn : VFun) (f : Fmt) (r : Rnd) (sr core x : Nat) : Res :=
  match fn with
  | .reciprocal => divElem f r sr core (oneBits f) x
  | .sqrt => sqrtElem f r sr core x
  | .abs => (match readFloat f x with
    | .nan p => Res.plain (nanBits f p)
    | _ => Res.plain (x % 2 ^ (f.width - 1)))
  | .neg => (match readFloat f x with
    | .nan p => Res.plain (nanBits f p)
    | _ => Res.plain ((x + 2 ^ (f.width - 1)) % 2 ^ f.width))
  | fn =>
    if f = .lf32 then refFun32 fn r sr core x
    else match readFloat f x with
      | .nan p => Res.plain (nanBits f p)
      | _ =>
        let w := (convElem f .lf32 false false .nearestEven 0 x).bits
        let y := refFun32 fn .nearestEven 0 core w
        match readFloat .lf32 y.bits with
        | .nan _ => { bits := nanBits f (genPayload f y.origin.toNat core), flags := y.flags, origin := y.origin }
        | _ =>
          let z := lf32ToLf16Arith r sr y.bits
          { z with flags := z.flags ||| y.flags }

/-- The order of two values that are not NaN: a negative number, 0 or a positive number (R57). -/
def cmpNum (x y : Num) : Int :=
  match x, y with
  | .inf s, .inf t => if s = t then 0 else if s then -1 else 1
  | .inf s, _ => if s then -1 else 1
  | _, .inf t => if t then 1 else -1
  | .fin na a da ea, .fin nb b db eb =>
    let e := min ea eb
    let p := scaledInt e na a ea * db
    let q := scaledInt e nb b eb * da
    if p < q then -1 else if p = q then 0 else 1
  | _, _ => 0

/-- Whether a value is NaN. -/
def Num.isNan : Num → Bool
  | .nan _ => true
  | _ => false

/-- A comparison (R57): with a NaN operand false, except that ≠ is true. -/
def cmpElem (f : Fmt) (c : VCmp) (x y : Nat) : Bool :=
  let u := readElem f x
  let v := readElem f y
  if u.isNan || v.isNan then c = .ne
  else
    let o := cmpNum u v
    match c with
    | .eq => o = 0 | .ne => o ≠ 0 | .lt => decide (o < 0) | .le => decide (o ≤ 0)
    | .gt => decide (o > 0) | .ge => decide (o ≥ 0)

/-- Minimum or maximum of two elements (R58). -/
def minMaxElem (f : Fmt) (isMax : Bool) (x y : Nat) : Nat :=
  let u := readElem f x
  let v := readElem f y
  if u.isNan || v.isNan then nanBits f ((nansOf [u, v]).foldl max 0)
  else
    let o := cmpNum u v
    let neg (z : Nat) : Bool := bitOf z (f.width - 1)
    if o = 0 then (if isMax then (if neg x then y else x) else (if neg x then x else y))
    else if decide (o < 0) = isMax then y else x

/-- Add of integers: exact; a sum outside the format has no stated value (log entry 9). -/
def intElem (f : Fmt) (n : Int) (free : U64) : Nat :=
  if -(2 ^ (f.width - 1) : Int) ≤ n ∧ n < (2 ^ (f.width - 1) : Int) then ofSigned f.width n
  else free.toNat % 2 ^ f.width

/-! ## LF32 shorthands, nearest-even unless said (R197, R229, R248) -/

/-- LF32 sum. -/
def add32 (core x y : Nat) : Res := addElem .lf32 .nearestEven 0 core x y
/-- LF32 difference. -/
def sub32 (core x y : Nat) : Res := subElem .lf32 .nearestEven 0 core x y
/-- LF32 product. -/
def mul32 (core x y : Nat) : Res := mulElem .lf32 .nearestEven 0 core x y
/-- LF32 quotient. -/
def div32 (core x y : Nat) : Res := divElem .lf32 .nearestEven 0 core x y
/-- LF32 x × y + z. -/
def fma32 (core x y z : Nat) : Res := fmaElem .lf32 .nearestEven 0 core x y z
/-- LF32 square root. -/
def sqrt32 (core x : Nat) : Res := sqrtElem .lf32 .nearestEven 0 core x
/-- LF32 negation. -/
def neg32 (x : Nat) : Nat := (funElem .neg .lf32 .nearestEven 0 0 x).bits
/-- Whether an LF32 is NaN. -/
def isNan32 (x : Nat) : Bool := (readFloat .lf32 x).isNan
/-- Whether an LF32 is finite. -/
def isFin32 (x : Nat) : Bool := match readFloat .lf32 x with
  | .fin _ _ _ _ => true
  | _ => false
/-- Whether an LF32 is finite and of no negative sign bit, or −0. -/
def isNonNeg32 (x : Nat) : Bool := cmpElem .lf32 .ge x 0

end Sys2Proof.Machine
end

