-- ==== Sys2Proof/Machine/Ops.lean ====
section
/-! DEFINITION. Shared operations on the device: access to objects, counters, events, device memory and host writes. -/

namespace Sys2Proof.Machine
open Sys2Proof

/-! ## Lifting -/

/-- A command that changes the device only. -/
def lift (f : Dev → Dev) (s : State) : Host.Outcome State Fault Refusal := .next { s with dev := f s.dev }

/-- f when the condition holds, nothing otherwise: a happening whose condition does not hold does not happen
(log entry 5). -/
def guarded (p : Bool) (f : Dev → Dev) (d : Dev) : Dev := if p then f d else d

/-- Apply f to each element of a list in turn. -/
def forEach {α : Type} (f : α → Dev → Dev) : List α → Dev → Dev
  | [], d => d
  | x :: xs, d => forEach f xs (f x d)

/-! ## Objects by number -/

/-- Queue q. -/
def Dev.queue (d : Dev) (q : Nat) : Queue := look Queue.reset d.fe.queues q
/-- Change queue q. -/
def modQueue (q : Nat) (f : Queue → Queue) (d : Dev) : Dev :=
  { d with fe := { d.fe with queues := upd Queue.reset d.fe.queues q f } }
/-- What runs on queue q. -/
def Dev.qrun (d : Dev) (q : Nat) : QueueRun := look QueueRun.reset d.fe.runs q
/-- Change what runs on queue q. -/
def modRun (q : Nat) (f : QueueRun → QueueRun) (d : Dev) : Dev :=
  { d with fe := { d.fe with runs := upd QueueRun.reset d.fe.runs q f } }
/-- Registered fence n. -/
def Dev.fence (d : Dev) (n : Nat) : Fence := look Fence.reset d.fe.fences n
/-- Set fence n. -/
def setFence (n : Nat) (f : Fence) (d : Dev) : Dev :=
  { d with fe := { d.fe with fences := put Fence.reset d.fe.fences n f } }
/-- Task t. -/
def Dev.task (d : Dev) (t : Nat) : Task := look Task.reset d.fe.tasks t
/-- Change task t. -/
def modTask (t : Nat) (f : Task → Task) (d : Dev) : Dev :=
  { d with fe := { d.fe with tasks := upd Task.reset d.fe.tasks t f } }
/-- Image i. -/
def Dev.image (d : Dev) (i : Nat) : ImageObj := look ImageObj.reset d.fe.images i
/-- Change image i. -/
def modImage (i : Nat) (f : ImageObj → ImageObj) (d : Dev) : Dev :=
  { d with fe := { d.fe with images := upd ImageObj.reset d.fe.images i f } }
/-- The core at physical index p. -/
def Dev.core (d : Dev) (p : Nat) : Core := look Core.reset d.mesh.cores p
/-- Change the core at physical index p. -/
def modCore (p : Nat) (f : Core → Core) (d : Dev) : Dev :=
  { d with mesh := { d.mesh with cores := upd Core.reset d.mesh.cores p f } }
/-- Slot s, numbered 8 × physical index + slot. -/
def Dev.slot (d : Dev) (s : Nat) : Slot := look Slot.reset d.streams.slots s
/-- Change slot s. -/
def modSlot (s : Nat) (f : Slot → Slot) (d : Dev) : Dev :=
  { d with streams := { d.streams with slots := upd Slot.reset d.streams.slots s f } }
/-- The other half of slot s. -/
def Dev.slotRun (d : Dev) (s : Nat) : SlotRun := look SlotRun.reset d.streams.runs s
/-- Change the other half of slot s. -/
def modSlotRun (s : Nat) (f : SlotRun → SlotRun) (d : Dev) : Dev :=
  { d with streams := { d.streams with runs := upd SlotRun.reset d.streams.runs s f } }
/-- Arbitration side n. -/
def Dev.side (d : Dev) (n : Nat) : Side := look Side.reset d.streams.sides n
/-- Change arbitration side n. -/
def modSide (n : Nat) (f : Side → Side) (d : Dev) : Dev :=
  { d with streams := { d.streams with sides := upd Side.reset d.streams.sides n f } }
/-- Memory channel k. -/
def Dev.chan (d : Dev) (k : Nat) : Channel := look Channel.reset d.mem.channels k
/-- Change memory channel k. -/
def modChan (k : Nat) (f : Channel → Channel) (d : Dev) : Dev :=
  { d with mem := { d.mem with channels := upd Channel.reset d.mem.channels k f } }
/-- Ensemble e. -/
def Dev.ens (d : Dev) (e : Nat) : EnsObj := look EnsObj.reset d.scoring.ensembles e
/-- Change ensemble e. -/
def modEns (e : Nat) (f : EnsObj → EnsObj) (d : Dev) : Dev :=
  { d with scoring := { d.scoring with ensembles := upd EnsObj.reset d.scoring.ensembles e f } }
/-- The scoring group whose first logical core is g. -/
def Dev.sgroup (d : Dev) (g : Nat) : ScoreGroup := look ScoreGroup.reset d.scoring.groups g
/-- Change the scoring group at g. -/
def modSGroup (g : Nat) (f : ScoreGroup → ScoreGroup) (d : Dev) : Dev :=
  { d with scoring := { d.scoring with groups := upd ScoreGroup.reset d.scoring.groups g f } }
/-- Growth session n. -/
def Dev.session (d : Dev) (n : Nat) : Session := look Session.reset d.sessions n
/-- Change growth session n. -/
def modSession (n : Nat) (f : Session → Session) (d : Dev) : Dev :=
  { d with sessions := upd Session.reset d.sessions n f }
/-- Table t. -/
def Dev.table (d : Dev) (t : Nat) : Table := look Table.reset d.embed.tables t
/-- Change table t. -/
def modTable (t : Nat) (f : Table → Table) (d : Dev) : Dev :=
  { d with embed := { d.embed with tables := upd Table.reset d.embed.tables t f } }
/-- Badger engine k. -/
def Dev.engine (d : Dev) (k : Nat) : Engine := look Engine.reset d.embed.engines k
/-- Change Badger engine k. -/
def modEngine (k : Nat) (f : Engine → Engine) (d : Dev) : Dev :=
  { d with embed := { d.embed with engines := upd Engine.reset d.embed.engines k f } }
/-- Link n. -/
def Dev.link (d : Dev) (n : Nat) : Link := look Link.reset d.fabric.links n
/-- Change link n. -/
def modLink (n : Nat) (f : Link → Link) (d : Dev) : Dev :=
  { d with fabric := { d.fabric with links := upd Link.reset d.fabric.links n f } }
/-- Collective group g. -/
def Dev.group (d : Dev) (g : Nat) : Group := look Group.reset d.fabric.groups g
/-- Change collective group g. -/
def modGroup (g : Nat) (f : Group → Group) (d : Dev) : Dev :=
  { d with fabric := { d.fabric with groups := upd Group.reset d.fabric.groups g f } }
/-- Ethernet port n. -/
def Dev.port (d : Dev) (n : Nat) : Port := look Port.reset d.service.ports n
/-- Change Ethernet port n. -/
def modPort (n : Nat) (f : Port → Port) (d : Dev) : Dev :=
  { d with service := { d.service with ports := upd Port.reset d.service.ports n f } }
/-- Service entry e. -/
def Dev.serv (d : Dev) (e : Nat) : Service := look Service.reset d.service.services e
/-- Change service entry e. -/
def modServ (e : Nat) (f : Service → Service) (d : Dev) : Dev :=
  { d with service := { d.service with services := upd Service.reset d.service.services e f } }
/-- Row r. -/
def Dev.row (d : Dev) (r : Nat) : RowState := look RowState.reset d.health.rows r
/-- Change row r. -/
def modRow (r : Nat) (f : RowState → RowState) (d : Dev) : Dev :=
  { d with health := { d.health with rows := upd RowState.reset d.health.rows r f } }
/-- Sensor n. -/
def Dev.sensor (d : Dev) (n : Nat) : Sensor := look Sensor.reset d.health.sensors n
/-- Set sensor n. -/
def setSensor (n : Nat) (v : Sensor) (d : Dev) : Dev :=
  { d with health := { d.health with sensors := put Sensor.reset d.health.sensors n v } }
/-- The stash at device address a. -/
def Dev.stash (d : Dev) (a : Nat) : Stash := look Stash.reset d.mesh.stashes a
/-- Change the stash at device address a. -/
def modStash (a : Nat) (f : Stash → Stash) (d : Dev) : Dev :=
  { d with mesh := { d.mesh with stashes := upd Stash.reset d.mesh.stashes a f } }

/-- Draw a free value (log entry 4). -/
def drawFree (d : Dev) : U64 × Dev := (Config.freeValue d.free, { d with free := d.free + 1 })

/-! ## Counters (R9 to R11, R494, R495, R527) -/

/-- Slot of counter n of the core at physical index p. -/
def cCore (p n : Nat) : Nat := 0x400000 + 256 * p + 8 * n
/-- Slot of counter n of stream slot s. -/
def cSlot (s n : Nat) : Nat := 0x480000 + 64 * s + 8 * n
/-- Slot of counter n of Badger engine k. -/
def cBadger (k n : Nat) : Nat := 0x520000 + 128 * k + 8 * n
/-- Slot of counter n of channel k. -/
def cChan (k n : Nat) : Nat := 0x528000 + 128 * k + 8 * n
/-- Slot of counter n of link k. -/
def cLink (k n : Nat) : Nat := 0x530000 + 128 * k + 8 * n
/-- Slot of counter n of Ethernet port k. -/
def cPort (k n : Nat) : Nat := 0x531800 + 128 * k + 8 * n
/-- Slot of counter n of service entry e. -/
def cServ (e n : Nat) : Nat := 0x540000 + 64 * e + 8 * n
/-- Slot of counter n of side k. -/
def cSide (k n : Nat) : Nat := 0x040000 + 128 * k + 8 * n
/-- Slot of BRIDGE_FLITS of tile k. -/
def cTile (k : Nat) : Nat := 0x040180 + 8 * k
/-- Slot of counter n of the front end. -/
def cFront (n : Nat) : Nat := 0x040200 + 8 * n
/-- Slot of counter n of the Owl. -/
def cOwl (n : Nat) : Nat := 0x040300 + 8 * n
/-- Slot of TIME_SYNC_LOST. -/
def cDen : Nat := 0x040400
/-- Slot of counter n of the power manager. -/
def cPower (n : Nat) : Nat := 0x040500 + 8 * n

/-- Counter classes: 0 none, 1 W64, 2 S32, 3 P48 (R9), of the counters of one unit in order of n. -/
def classesCore : List Nat := [2, 2, 2, 2, 2, 2, 2, 3, 3, 3, 3, 3, 3, 2, 1, 2, 3, 3, 2, 3, 2, 2, 3, 2]

/-- The class of counter n in a unit's list. -/
def nthClass (l : List Nat) (o width : Nat) : Nat := if o % 8 = 0 then l.getD (o % width / 8) 0 else 0

/-- The class of the counter whose slot lies at BAR0 offset o, or 0 (R495, R527). -/
def counterClass (o : Nat) : Nat :=
  if 0x400000 ≤ o ∧ o < 0x400000 + 256 * 1260 then nthClass classesCore (o - 0x400000) 256
  else if 0x480000 ≤ o ∧ o < 0x480000 + 64 * 10080 then nthClass [3, 2, 2, 2, 2] (o - 0x480000) 64
  else if 0x520000 ≤ o ∧ o < 0x528000 then nthClass [3, 3, 3, 3, 1, 2, 2, 2, 2, 2, 2, 2, 2, 2] (o - 0x520000) 128
  else if 0x528000 ≤ o ∧ o < 0x530000 then nthClass [2, 2, 2, 2, 2, 3, 3, 3, 3] (o - 0x528000) 128
  else if 0x530000 ≤ o ∧ o < 0x531800 then nthClass [3, 3, 2, 2, 2, 2, 2, 3, 2] (o - 0x530000) 128
  else if 0x531800 ≤ o ∧ o < 0x531C00 then nthClass [3, 3, 2, 2, 2, 2, 2, 2, 2, 2, 2] (o - 0x531800) 128
  else if 0x540000 ≤ o ∧ o < 0x580000 then nthClass [3, 3, 1, 2, 2, 2] (o - 0x540000) 64
  else if 0x040000 ≤ o ∧ o < 0x040100 then nthClass [3, 3, 2, 2, 3, 2] (o - 0x040000) 128
  else if 0x040100 ≤ o ∧ o < 0x040180 then nthClass [3, 3, 2, 2] (o - 0x040100) 128
  else if 0x040180 ≤ o ∧ o < 0x040190 then nthClass [3] (o - 0x040180) 8
  else if 0x040200 ≤ o ∧ o < 0x040280 then nthClass [1, 3, 2, 2, 2, 2, 2, 2, 2, 3] (o - 0x040200) 128
  else if 0x040300 ≤ o ∧ o < 0x040380 then
    nthClass [2, 2, 2, 2, 2, 2, 2, 2, 2, 3, 2, 2, 2, 2, 2, 1] (o - 0x040300) 128
  else if o = 0x040400 then 2
  else if 0x040500 ≤ o ∧ o < 0x040600 then nthClass [1, 3, 2, 2, 3, 2, 2, 2, 2] (o - 0x040500) 256
  else 0

/-- The source ID of the unit that keeps the counter at BAR0 offset o (R492, R493). -/
def counterSource (o : Nat) : Nat :=
  if 0x400000 ≤ o ∧ o < 0x480000 then (o - 0x400000) / 256
  else if 0x480000 ≤ o ∧ o < 0x520000 then 0x4000 + (o - 0x480000) / 64
  else if 0x520000 ≤ o ∧ o < 0x528000 then 0x6800 + (o - 0x520000) / 128
  else if 0x528000 ≤ o ∧ o < 0x530000 then 0x6800 + (o - 0x528000) / 128
  else if 0x530000 ≤ o ∧ o < 0x531800 then 0x6900 + (o - 0x530000) / 128
  else if 0x531800 ≤ o ∧ o < 0x531C00 then 0x6900 + (o - 0x531800) / 128
  else if 0x540000 ≤ o ∧ o < 0x580000 then 0x7000 + (o - 0x540000) / 64
  else if 0x040000 ≤ o ∧ o < 0x040180 then 0x8004 + (o - 0x040000) / 128
  else if 0x040200 ≤ o ∧ o < 0x040280 then 0x8000
  else if o = 0x040400 then 0x8002
  else if 0x040500 ≤ o ∧ o < 0x040600 then 0x8003
  else 0x8001

/-- What the counter slot at offset o holds. -/
def Dev.counter (d : Dev) (o : Nat) : Nat := (look 0 d.counters o).toNat

/-- The new value of a counter of a class after n more happenings (R9, R11). -/
def countTo (cls v n : Nat) : Nat :=
  match cls with
  | 2 => min (v + n) 0xFFFFFFFF
  | 3 =>
    let c := v % 2 ^ 48 + n
    c % 2 ^ 48 + (if 2 ^ 48 ≤ c ∨ bitOf v 63 then 2 ^ 63 else 0)
  | _ => (v + n) % 2 ^ 64

/-- Set the slot at offset o. -/
def setCounter (o v : Nat) (d : Dev) : Dev := { d with counters := put 0 d.counters o (BitVec.ofNat 64 v) }

/-! ## Events (R490 to R493) and MSI-X causes (R533) -/

/-- The cause of MSI-X vector v has arisen. -/
def msixBit (v : Nat) (d : Dev) : Dev :=
  { d with mode := { d.mode with msixCause := d.mode.msixCause ||| (1 <<< v) } }

/-- The vectors whose cause an event is (R533). -/
def eventVectors (code : Nat) (d : Dev) : Dev :=
  if code = 0x7001 ∨ code = 0x7002 ∨ code = 0x7003 then msixBit 5 d
  else if code = 0x5003 ∨ code = 0x5004 then msixBit 6 d
  else if code = 0x4003 ∨ code = 0x6005 then msixBit 7 d
  else d

/-- Put an event into the holding queue with the next SEQ. -/
def holdEvent (code source : Nat) (detail : List Byte) (d : Dev) : Dev :=
  { d with events := { d.events with
      held := d.events.held ++ [{ stamp := d.time.ft, code := BitVec.ofNat 16 code, source := BitVec.ofNat 16 source,
                                  seq := d.events.seq, detail := detail }],
      seq := d.events.seq + 1 } }

/-- The block sets a bit that a write of 1 clears: the offset of its 64-bit word, and the bit (R473). -/
def hwSet (o b : Nat) (d : Dev) : Dev := { d with cycle := { d.cycle with sets := (o, b) :: d.cycle.sets } }

/-- The block sets the first n bits of a word that are set in v. -/
def hwSets (o n v : Nat) (d : Dev) : Dev := forEach (hwSet o) ((List.range n).filter (bitOf v)) d

/-- Bits written as 1 to a word, without those that the block has set in the same Den cycle, which stay set (R473). -/
def Dev.clears (d : Dev) (o c : Nat) : Nat :=
  d.cycle.sets.foldl (fun c s => if s.1 = o ∧ bitOf c s.2 = true then c - 2 ^ s.2 else c) c

/-- The value of a counter after n happenings: a write of zero in the same Den cycle wins over them (R10). -/
def Dev.counted (d : Dev) (o n : Nat) : Nat :=
  if d.cycle.zeroed.contains o then d.counter o else countTo (counterClass o) (d.counter o) n

/-- Whether n happenings take an S32 counter to its largest value (R9). -/
def Dev.sticks (d : Dev) (o n : Nat) : Bool :=
  decide (counterClass o = 2 ∧ d.counted o n = 0xFFFFFFFF ∧ d.counter o ≠ 0xFFFFFFFF)

/-- One lost event (R490): OVERFLOW, and the stamps of the losses. -/
def noteLoss (d : Dev) : Dev :=
  let d := hwSet 0x5020 1 (if d.events.overflow then d else msixBit 2 d)
  { d with events := { d.events with
      overflow := true, lost := d.events.lost + 1,
      lostFirst := if d.events.lost = 0 then d.time.ft else d.events.lostFirst,
      lostLast := d.time.ft } }

/-- An event that finds the holding queue full is lost and counted (R490). A count that reaches its largest value raises
0x9001 (R9), which the full queue loses in its turn. -/
def loseEvent (d : Dev) : Dev :=
  let stuck := d.sticks (cOwl 14) 1 && bitOf d.events.classEn.toNat 8
  let d := noteLoss (setCounter (cOwl 14) (d.counted (cOwl 14) 1) d)
  if stuck then noteLoss d else d

/-- Take 0x9002 EVENTS_LOST into a free place, whatever CLASS_EN holds (R490). -/
def takeLost (d : Dev) : Dev :=
  if d.events.lost ≠ 0 ∧ d.events.held.length < 1024 then
    let d' := holdEvent 0x9002 0x8002
      (pack [(4, d.events.lost.toNat), (8, d.events.lostFirst.toNat), (8, d.events.lostLast.toNat)] []) d
    { d' with events := { d'.events with lost := 0 } }
  else d

/-- Raise an event (R490): judged by CLASS_EN, then held or lost. -/
def raiseEvent (code source : Nat) (detail : List Byte) (d : Dev) : Dev :=
  let d := eventVectors code d
  if bitOf d.events.classEn.toNat (code / 0x1000 - 1) then
    let d := takeLost d
    if d.events.held.length < 1024 then holdEvent code source detail d else loseEvent d
  else d

/-- A P48 counter that wraps is remembered until the edge (R11). -/
def noteWrap (o n : Nat) (d : Dev) : Dev :=
  if counterClass o = 3 ∧ 2 ^ 48 ≤ d.counter o % 2 ^ 48 + n then
    { d with cycle := { d.cycle with wrapped := o :: d.cycle.wrapped } }
  else d

/-- Count n happenings in the counter at offset o (R9); an S32 counter that reaches its largest value raises 0x9001. -/
def bump (o n : Nat) (d : Dev) : Dev :=
  let d' := setCounter o (d.counted o n) (noteWrap o n d)
  if d.sticks o n then raiseEvent 0x9001 (counterSource o) (leBytes 4 o) d' else d'

/-- A software write to a counter slot (R9 to R11), which takes effect at the edge that ends the Den cycle in progress: a write
of zero to an S32 counter wins over what that cycle counts, before and after the write, and a P48 overflow bit whose counter
wraps in that cycle stays set. An S32 write is a write of zero when all 64 bits of the slot's word are zero (DESIGN CHOICE, log
entry 94). -/
def writeCounter (o v : Nat) (d : Dev) : Dev :=
  match counterClass o with
  | 2 =>
    if v = 0 then setCounter o 0 { d with cycle := { d.cycle with zeroed := o :: d.cycle.zeroed } } else d
  | 3 =>
    let keep := bitOf (d.counter o) 63 && (!bitOf v 63 || d.cycle.wrapped.contains o)
    setCounter o (v % 2 ^ 48 + (if keep then 2 ^ 63 else 0)) d
  | _ => d

/-! ## Host memory (R266, R300, R315) -/

/-- Whether the n bytes at host address a lie in one registered host window. -/
def Dev.inWindow (d : Dev) (a n : Nat) : Bool :=
  d.mem.windows.any (fun w => decide (w.2.1 ≤ a ∧ a + n ≤ w.2.1 + w.2.2))

/-- Whether each of the n bytes at host address a lies in a registered host window (R269). -/
def Dev.inWindows (d : Dev) (a n : Nat) : Bool := d.inWindow a n || (rangeFrom a n).all (fun x => d.inWindow x 1)

/-- A posted write to host memory; without a registered window none is sent (R535, R536), and in D3hot it waits (R529). -/
def hostWrite (a : Nat) (bytes : List Byte) (poisoned : Bool) (d : Dev) : Dev :=
  let w : HostWrite := { addr := BitVec.ofNat 64 a, bytes := bytes, poisoned := poisoned }
  if !d.inWindows a bytes.length then d
  else if d.mode.d3hot then { d with out := { d.out with waiting := d.out.waiting ++ [w] } }
  else { d with out := { d.out with hostWrites := d.out.hostWrites ++ [w] } }

/-- A non-posted read sent to the host, by its tag. -/
def hostRead (tag a n : Nat) (d : Dev) : Dev :=
  { d with out := { d.out with hostReads := d.out.hostReads ++ [(tag, BitVec.ofNat 64 a, n)] } }

/-- An error reported through AER (R534). -/
def aerReport (n : Nat) (d : Dev) : Dev := { d with out := { d.out with aer := d.out.aer ++ [n] } }

/-! ## Device memory (R389 to R400) -/

/-- The software range ends here; the reserved range follows (R390). -/
def softEnd : Nat := 0xFF00000000

/-- Channel of a device address (R389). -/
def channelOf (a : Nat) : Nat := bits a 19 12 ^^^ bits a 27 20

/-- The device address of byte o of frame f in channel k (R389). -/
def frameAddr (k f o : Nat) : Nat := f * 2 ^ 20 + (k ^^^ (f % 256)) * 4096 + o

/-- Whether the n bytes at a lie in the software range. -/
def inSoft (a n : Nat) : Bool := decide (a + n ≤ softEnd)

/-- The canonical form of the stacks' contents: addresses rise, and no entry is what an unlisted address reads as. -/
def Memory.wf (m : Memory) : Bool := Sparse.wf 0 m.cells && Sparse.wf false m.poison

/-- The n bytes at a device address. -/
def Dev.bytesAt (d : Dev) (a n : Nat) : List Byte := lookAll 0 d.mem.cells a n

/-- The granules that n bytes at a reach. -/
def granulesOf (a n : Nat) : List Nat := if n = 0 then [] else rangeFrom (a / 64) ((a + n - 1) / 64 + 1 - a / 64)

/-- How many granules of n bytes at a are poisoned. -/
def Dev.poisonedIn (d : Dev) (a n : Nat) : Nat := ((granulesOf a n).filter (fun g => look false d.mem.poison g)).length

/-- Number of a record's KIND, source and so on as 32 bytes (R404). -/
def memRecordBytes (r : MemRecord) : List Byte :=
  leBytes 8 r.stamp.toNat ++ leBytes 8 r.address.toNat ++ [r.kind, r.source, r.symbols, r.channel, r.flags, 0, 0, 0] ++
    leBytes 4 r.positions.toNat ++ leBytes 4 r.inner.toNat

/-- Store bytes at a device address, and nothing else. -/
def setCells (a : Nat) (bytes : List Byte) (d : Dev) : Dev :=
  { d with mem := { d.mem with cells := putAll 0 d.mem.cells a bytes } }

/-- Mark or clear granule g. -/
def setPoison (g : Nat) (v : Bool) (d : Dev) : Dev :=
  { d with mem := { d.mem with poison := put false d.mem.poison g v } }

/-- Write a record to the place in the log that comes next (R405). -/
def storeRecord (r : MemRecord) (d : Dev) : Dev :=
  let d := setCells (0xFF01080000 + 32 * d.mem.logNext.toNat) (memRecordBytes r) d
  { d with mem := { d.mem with
      logNext := d.mem.logNext + 1, logWrapped := d.mem.logWrapped || decide (d.mem.logNext = 0x7FFF),
      logLost := false } }

/-- A corrected or uncorrectable read takes the capture of its channel, where that is free (R406). -/
def captureRecord (r : MemRecord) (d : Dev) : Dev :=
  let k := r.channel.toNat
  if (r.kind = 1 ∨ r.kind = 2) ∧ (d.chan k).capture = none then
    hwSet (0x50010 + 32 * k) 32 (modChan k (fun c => { c with capture := some r }) d)
  else d

/-- Log a record (R405) and take the channel's capture (R406). -/
def logRecord (r : MemRecord) (d : Dev) : Dev :=
  let r := { r with flags := r.flags ||| (if d.mem.logLost then 4 else 0) }
  captureRecord r (storeRecord r d)

/-- A granule written with the poison syndrome from a marked write (R400, R404 KIND 0x03). -/
def poisonGranule (src : Byte) (g : Nat) (d : Dev) : Dev :=
  let k := channelOf (64 * g)
  let d := bump (cChan k 4) 1 (setPoison g true d)
  if (d.chan k).poisonLogged then d
  else
    logRecord { stamp := d.time.ft, address := BitVec.ofNat 40 (64 * g), kind := 3, source := src, symbols := 0,
                channel := BitVec.ofNat 8 k, flags := 1, positions := 0xFFFFFFFF, inner := 0 }
      (modChan k (fun c => { c with poisonLogged := true }) d)

/-- The poison of granule g after n bytes at a are written (R400). -/
def writeGranulePoison (src : Byte) (a n : Nat) (marked : Bool) (g : Nat) (d : Dev) : Dev :=
  let whole := decide (a ≤ 64 * g ∧ 64 * g + 64 ≤ a + n)
  if marked then poisonGranule src g d
  else if whole then setPoison g false d
  else if look false d.mem.poison g then bump (cChan (channelOf (64 * g)) 3) 1 d
  else d

/-- The aligned units of u bytes that n bytes at a reach. -/
def unitsOf (u a n : Nat) : List Nat := if n = 0 then [] else rangeFrom (a / u) ((a + n - 1) / u + 1 - a / u)

/-- The counter of a source's accesses (R393, R409): granules for a Badger engine and the Owl, else blocks. -/
def accessCounter (src : Byte) : Nat := if src = 1 ∨ src = 4 then 6 else 5

/-- Count a source's accesses of n bytes at a (R393, R409): one for each unit at its channel, two where a write covers part
of a granule. -/
def countAccess (src : Byte) (write : Bool) (a n : Nat) (d : Dev) : Dev :=
  let u := if accessCounter src = 6 then 64 else 256
  forEach (fun i d =>
    let part := write && decide (max a (u * i) % 64 ≠ 0 ∨ min (a + n) (u * i + u) % 64 ≠ 0)
    bump (cChan (channelOf (u * i)) (accessCounter src)) (if part then 2 else 1) d) (unitsOf u a n) d

/-- Store bytes in device memory, with the poison of their granules (R400). -/
def memStore (src : Byte) (a : Nat) (bytes : List Byte) (marked : Bool) (d : Dev) : Dev :=
  forEach (writeGranulePoison src a bytes.length marked) (granulesOf a bytes.length) (setCells a bytes d)

/-- Write bytes to device memory: stored (R400), and counted (R409). -/
def memWrite (src : Byte) (a : Nat) (bytes : List Byte) (marked : Bool) (d : Dev) : Dev :=
  countAccess src true a bytes.length (memStore src a bytes marked d)

/-- A read of n bytes at a counts POISON_READS for each poisoned granule (R398, R399). -/
def countPoisonReads (a n : Nat) (d : Dev) : Dev :=
  forEach (fun g d => if look false d.mem.poison g then bump (cChan (channelOf (64 * g)) 3) 1 d else d)
    (granulesOf a n) d

/-- Clear a range of device memory: every byte zero and no granule poisoned. -/
def clearCells (lo hi : Nat) (m : Memory) : Memory :=
  { m with cells := m.cells.filter (fun c => !decide (lo ≤ c.1 ∧ c.1 < hi)),
           poison := m.poison.filter (fun c => !decide (lo ≤ 64 * c.1 ∧ 64 * c.1 < hi)) }

/-- Whether a device address lies in runs of frames of channel k. -/
def inFrames (k : Nat) (rs : List (Nat × Nat)) (a : Nat) : Bool :=
  decide (channelOf a = k) && rs.any (fun r => decide (r.1 ≤ a / 2 ^ 20 ∧ a / 2 ^ 20 < r.1 + r.2))

/-- Clear runs of frames of channel k: every byte zero and no granule poisoned. -/
def clearFrames (k : Nat) (rs : List (Nat × Nat)) (m : Memory) : Memory :=
  { m with cells := m.cells.filter (fun c => !inFrames k rs c.1), poison := m.poison.filter (fun c => !inFrames k rs (64 * c.1)) }

/-! ## Leaving IDLE and QUIET (R497) -/

/-- Demand returns the module to ACTIVE: the clocks run and the stacks leave self-refresh. -/
def wakeModule (d : Dev) : Dev :=
  if d.power.state = .idle ∨ d.power.state = .quiet then
    { d with power := { d.power with state := .active }, mem := { d.mem with selfRefresh := false } }
  else d

/-! ## Local memory (R61, R63) -/

/-- The n bytes at a local address of a core. -/
def Core.bytesAt (c : Core) (a n : Nat) : List Byte := lookAll 0 c.lm a n

/-- Whether any granule of n bytes at a local address is poisoned. -/
def Core.poisonedIn (c : Core) (a n : Nat) : Bool := (granulesOf a n).any (fun g => look false c.lmPoison g)

/-- The poison bit of local granule g after a write of n bytes at a: a whole unmarked granule is clean, a marked one is
poisoned, a part of a poisoned granule leaves it so (R63, R291). -/
def localPoison (a n : Nat) (marked : Bool) (m : Sparse Bool) : List Nat → Sparse Bool
  | [] => m
  | g :: gs =>
    let whole := decide (a ≤ 64 * g ∧ 64 * g + 64 ≤ a + n)
    localPoison a n marked (if marked then put false m g true else if whole then put false m g false else m) gs

/-- Write bytes to local memory, wrapping at 2^20 being left out as no access reaches past it. -/
def Core.write (c : Core) (a : Nat) (bytes : List Byte) (marked : Bool) : Core :=
  { c with lm := putAll 0 c.lm a bytes, lmPoison := localPoison a bytes.length marked c.lmPoison (granulesOf a bytes.length) }

/-! ## Bytes with poison marks (R291) -/

/-- The n bytes at a device address, each with the poison of its granule. -/
def Dev.marked (d : Dev) (a n : Nat) : List (Byte × Bool) :=
  (rangeFrom a n).map (fun x => (look 0 d.mem.cells x, look false d.mem.poison (x / 64)))

/-- The n bytes at a local address, each with the poison of its granule. -/
def Core.marked (c : Core) (a n : Nat) : List (Byte × Bool) :=
  (rangeFrom a n).map (fun x => (look 0 c.lm x, look false c.lmPoison (x / 64)))

/-- Cut bytes at a destination address by granule: each part is marked when any byte of it is (fuel: the bytes). -/
def byGranule : Nat → Nat → List (Byte × Bool) → List (Nat × List Byte × Bool)
  | 0, _, _ => []
  | n + 1, a, data =>
    if data.isEmpty then []
    else
      let k := 64 - a % 64
      (a, (data.take k).map (·.1), (data.take k).any (·.2)) :: byGranule n (a + k) (data.drop k)

/-- Write marked bytes to local memory: a granule that takes any byte of a poisoned granule takes the mark. -/
def Core.land (c : Core) (a : Nat) (data : List (Byte × Bool)) : Core :=
  (byGranule data.length a data).foldl (fun c g => c.write g.1 g.2.1 g.2.2) c

/-- Store marked bytes in device memory. -/
def memLand (src : Byte) (a : Nat) (data : List (Byte × Bool)) (d : Dev) : Dev :=
  forEach (fun (g : Nat × List Byte × Bool) => memStore src g.1 g.2.1 g.2.2) (byGranule data.length a data) d

/-- Granules of n bytes at a that the marks of the bytes make poisoned. -/
def markedGranules (a : Nat) (data : List (Byte × Bool)) : Nat :=
  ((byGranule data.length a data).filter (fun g => g.2.2)).length

/-- POISON of a flit (R418): bit i for payload bytes 16i to 16i + 15 (fuel: the bits). -/
def poisonMask : Nat → List (Byte × Bool) → Nat
  | 0, _ => 0
  | n + 1, data => b2n ((data.take 16).any (·.2)) + 2 * poisonMask n (data.drop 16)

/-- Cut marked bytes in payloads of at most 240 bytes, each with its offset (fuel: the bytes). -/
def payloads : Nat → Nat → List (Byte × Bool) → List (Nat × List (Byte × Bool))
  | 0, _, _ => []
  | n + 1, o, data => if data.isEmpty then [] else (o, data.take 240) :: payloads n (o + 240) (data.drop 240)

/-! ## Choices that the manual leaves open -/

/-- n bytes of open value (log entry 4), eight to a draw. -/
def drawBytes (n : Nat) (d : Dev) : List Byte × Dev :=
  ((List.range n).map (fun i => (Config.freeValue (d.free + i / 8)).extractLsb' (8 * (i % 8)) 8), { d with free := d.free + n / 8 + 1 })

/-- The bytes of a weight block take open values. -/
def scrambled (w : WeightBlock) (d : Dev) : WeightBlock × Dev :=
  let (bytes, d) := drawBytes w.bytes.length d
  ({ w with bytes := bytes, poisoned := [] }, d)

/-- The registers and the pc of a thread take open values. -/
def scrambleThread (p t : Nat) (d : Dev) : Dev :=
  let x := look Thread.reset (d.core p).threads t
  let v (i : Nat) : U64 := Config.freeValue (d.free + i)
  let d' := { d with free := d.free + 33 }
  let x' := { x with pc := v 32, regs := x.regs.map (fun r => (r.1, v r.1)) }
  modCore p (fun c => { c with threads := put Thread.reset c.threads t x' }) d'

/-- R23: a core of a gated row keeps its local memory and accumulator memory. What the array and the threads hold outside them
is not kept: its value is open from then on. The flags, captures and map entries that BAR0 shows are kept (DESIGN CHOICE, log
entry 95). -/
def loseLogic (p : Nat) (d : Dev) : Dev :=
  let (a, d) := scrambled (d.core p).active d
  let (s, d) := scrambled (d.core p).staged d
  let d := modCore p (fun c => { c with active := a, staged := s }) d
  forEach (scrambleThread p) ((d.core p).threads.map (·.1)) d

/-- One of several, the manual giving no rule: a free value chooses (log entry 4). -/
def pickOne {α : Type} (l : List α) (d : Dev) : Option α × Dev :=
  if l.length ≤ 1 then (l.head?, d)
  else
    let (v, d) := drawFree d
    (l[v.toNat % l.length]?, d)

/-! ## Placement (R80, R85, R88) -/

/-- Physical indices of a row. -/
def rowPositions (r : Nat) : List Nat := rangeFrom (42 * r) 42

/-- Whether a position is fenced. -/
def Dev.fenced (d : Dev) (p : Nat) : Bool := decide ((d.core p).entry.state = PosState.fenced)

/-- The healthy positions of a row, west first: the first 40 carry the row's logical cores (R80). -/
def Dev.rowPlaces (d : Dev) (r : Nat) : List Nat := ((rowPositions r).filter (fun p => !d.fenced p)).take 40

/-- The physical index that carries a logical core, or none when it is absent (R80, R81, R88). -/
def Dev.placeOf (d : Dev) (logical : Nat) : Option Nat :=
  if d.mesh.mapBuilt && decide (logical < 1200) then (d.rowPlaces (logical / 40))[logical % 40]? else none

/-- Logical cores present (R22). -/
def Dev.logicalCount (d : Dev) : Nat :=
  if d.mesh.mapBuilt then ((List.range 30).map (fun r => (d.rowPlaces r).length)).sum else 0

/-- The logical number at a position, 0x7FF for none (R86). -/
def Dev.logicalOf (d : Dev) (p : Nat) : Nat := (d.core p).entry.logical.toNat

/-- The local stream number of a slot: 8 × logical core + slot. -/
def Dev.streamNo (d : Dev) (s : Nat) : Nat := 8 * d.logicalOf (s / 8) + s % 8

/-- The global stream number of a slot. -/
def Dev.globalStream (d : Dev) (s : Nat) : Nat := d.fabric.cfg.moduleId.toNat * 2 ^ 14 + d.streamNo s % 2 ^ 14

/-- The NaN core field of a core (R33). -/
def Dev.nanCore (d : Dev) (p : Nat) : Nat := if d.mode.det then 0xFFFF else d.logicalOf p

/-- A gated row that is needed wakes, and the wake is counted (R498); a row whose regulator has shut its output off does
not. -/
def wakeRow (r : Nat) (d : Dev) : Dev :=
  if (d.row r).awake || (d.row r).fault then d else bump (cPower 4) 1 (modRow r (fun x => { x with awake := true }) d)

/-- Wake the rows of logical cores. -/
def wakeCores (cores : List Nat) (d : Dev) : Dev :=
  forEach wakeRow ((cores.filterMap (fun c => (d.placeOf c).map (· / 42))).eraseDups) d

/-- Whether a feature bit is agreed (R484). -/
def Dev.agreed (d : Dev) (bit : Nat) : Bool := bitOf d.ident.agreed.toNat bit

end Sys2Proof.Machine
end

