-- ==== Sys2Proof/Machine/Flags.lean ====
section
/-! DEFINITION. Arithmetic exceptions: occurrences, sticky registers, captures, command summaries and their events (R114 to R122). -/

namespace Sys2Proof.Machine
open Sys2Proof

/-- One flag occurrence of an element operation: flag number, NaN origin, tile row, column or lane, and k (R118, R119). -/
structure Occ where
  flag    : Nat
  origin  : Nat
  tileRow : Nat
  column  : Nat
  k       : Nat
deriving DecidableEq, Repr

/-- The occurrences of a result's flags: one per flag it sets (R56, R114). -/
def occsOf (flags : BitVec 6) (origin tileRow column k : Nat) : List Occ :=
  ((List.range 6).filter (fun i => bitOf flags.toNat i)).map
    (fun i => { flag := i, origin := if i = 0 then origin else 0, tileRow := tileRow, column := column, k := k })

/-- The order of occurrences of one cycle (R120): lowest FLAG, then TILE_ROW, then COLUMN, then K. -/
def Occ.before (a b : Occ) : Bool :=
  if a.flag ≠ b.flag then decide (a.flag < b.flag)
  else if a.tileRow ≠ b.tileRow then decide (a.tileRow < b.tileRow)
  else if a.column ≠ b.column then decide (a.column < b.column)
  else decide (a.k < b.k)

/-- The first occurrence of a cycle. -/
def firstOcc : List Occ → Option Occ
  | [] => none
  | o :: os => match firstOcc os with
    | none => some o
    | some p => some (if p.before o then p else o)

/-- A capture of an occurrence (R118, R119). -/
def captureOf (o : Occ) (more : Bool) (unit logical instr : Nat) (stamp : U64) : Capture :=
  { valid := true, more := more, flag := BitVec.ofNat 3 o.flag, unit := BitVec.ofNat 3 unit,
    origin := BitVec.ofNat 6 o.origin, logical := BitVec.ofNat 11 logical, instr := BitVec.ofNat 32 instr,
    tileRow := BitVec.ofNat 9 o.tileRow, column := BitVec.ofNat 7 o.column, k := BitVec.ofNat 32 o.k, stamp := stamp }

/-- Capture word A (R118). -/
def Capture.wordA (c : Capture) : Nat :=
  c.flag.toNat + 8 * b2n c.valid + 16 * b2n c.more + 32 * c.unit.toNat + 256 * c.origin.toNat +
    2 ^ 16 * c.logical.toNat + 2 ^ 32 * c.instr.toNat

/-- Capture word B (R119). -/
def Capture.wordB (c : Capture) : Nat := c.tileRow.toNat + 2 ^ 9 * c.column.toNat + 2 ^ 16 * c.k.toNat

/-- Change the running command of a queue whose first entry has the given index. -/
def modCmd (q : Nat) (i : U32) (f : Cmd → Cmd) (d : Dev) : Dev :=
  modRun q (fun r => { r with running := updateFirst (fun c => decide (c.index = i)) f r.running }) d

/-- The running command of a queue at an index. -/
def Dev.cmd (d : Dev) (q : Nat) (i : U32) : Option Cmd := (d.qrun q).running.find? (fun c => decide (c.index = i))

/-- The command, by queue and index, that the core at p works for: its job. -/
def Dev.ownerOf (d : Dev) (p : Nat) : Option (Nat × U32) :=
  (d.mesh.jobs.find? (fun j => j.cores.contains (d.logicalOf p))).map (fun j => (j.queue, j.index))

/-- The step number of stochastic rounding on the core at p (R51): the low 32 bits of STEP of the LAUNCH it works for, and 0 for
work that carries none. -/
def Dev.coreStep (d : Dev) (p : Nat) : U32 :=
  match d.ownerOf p with
  | none => 0
  | some (q, i) => match d.cmd q i with
    | some c => if byteAt c.bytes 0 = 1 then BitVec.ofNat 32 (field c.bytes 0x18 4) else 0
    | none => 0

/-- The flag's event for one command and unit, raised once (R122), and the command's summary (R121). -/
def commandFlag (owner : Option (Nat × U32)) (source : Nat) (cap : Capture) (d : Dev) : Dev :=
  match owner with
  | none => d
  | some (q, i) =>
    match d.cmd q i with
    | none => d
    | some c =>
      let n := cap.flag.toNat
      let d := modCmd q i (fun c => { c with flags := c.flags ||| (1 <<< n) }) d
      if c.raised.contains (source, n) then d
      else
        raiseEvent (0x1001 + n) source (pack [(8, cap.wordA), (8, cap.wordB), (4, q)] [])
          (modCmd q i (fun c => { c with raised := c.raised ++ [(source, n)] }) d)

/-- Record the occurrences of one cycle on a core (R114 to R122). MORE of the word A in an event's detail is 0: R122 fixes it for
streams, and the model takes the same for cores (DESIGN CHOICE, log entry 97). -/
def recordOccs (owner : Option (Nat × U32)) (p unit instr : Nat) (occs : List Occ) (d : Dev) : Dev :=
  match firstOcc occs with
  | none => d
  | some o =>
    let logical := d.logicalOf p
    let cap (x : Occ) := captureOf x false unit logical instr d.time.ft
    let d := forEach (fun x d => hwSet (0x30000 + 32 * p) x.flag (bump (cCore p x.flag) 1 d)) occs d
    let d := if (d.core p).capture.valid then d else hwSet (0x30008 + 32 * p) 3 d
    let d := modCore p (fun c =>
      { c with
        sticky := occs.foldl (fun s x => s ||| (1 <<< x.flag)) c.sticky,
        capture :=
          if c.capture.valid then { c.capture with more := true }
          else captureOf o (decide (1 < occs.length)) unit logical instr d.time.ft }) d
    forEach (fun n d => match firstOcc (occs.filter (fun x => x.flag = n)) with
      | none => d
      | some x => commandFlag owner p (cap x) d) (List.range 6) d

/-- The flags of a stream conversion: the counters and sticky register of the slot's core (R53, R114, R116), the
command's summary and its event, with no capture (R122). -/
def recordStreamFlags (owner : Option (Nat × U32)) (slot : Nat) (flags : BitVec 6) (origin k : Nat) (d : Dev) : Dev :=
  let d := hwSets (0x30000 + 32 * (slot / 8)) 6 flags.toNat
    (if flags = 0 then d else modCore (slot / 8) (fun c => { c with sticky := c.sticky ||| flags }) d)
  forEach (fun n d =>
    if bitOf flags.toNat n then
      let d := bump (cCore (slot / 8) n) 1 d
      commandFlag owner (0x4000 + slot)
        (captureOf { flag := n, origin := if n = 0 then origin else 0, tileRow := 0, column := 0, k := k % 2 ^ 32 }
          false 5 (d.logicalOf (slot / 8)) 0 d.time.ft) d
    else d) (List.range 6) d

/-- The chip flag summary (R117): the OR of every sticky register. -/
def Dev.flagSummary (d : Dev) : BitVec 6 := d.mesh.cores.foldl (fun s c => s ||| c.2.sticky) 0

/-- Clear bits of a core's sticky register (R116, R473). -/
def clearFlags (mask : Nat) (p : Nat) (d : Dev) : Dev :=
  modCore p (fun c => { c with sticky := c.sticky &&& ~~~(BitVec.ofNat 6 (d.clears (0x30000 + 32 * p) mask)) }) d

/-- Clear bits of every sticky register (R117). -/
def clearSticky (mask : BitVec 6) (d : Dev) : Dev := forEach (clearFlags mask.toNat) (d.mesh.cores.map (·.1)) d

end Sys2Proof.Machine
end

