-- ==== Sys2Proof/Machine/Descriptors.lean ====
section
/-! DEFINITION. Stream descriptors: their fields, patterns, halves, block accesses and conversions (R265 to R268, R283). -/

namespace Sys2Proof.Machine
open Sys2Proof

/-- A two's-complement stride of 8 bytes. -/
def strideAt (b : List Byte) (i : Nat) : Int := toSigned 64 (field b (0x28 + 8 * i) 8)

/-- A stream descriptor (R265). -/
def parseDesc (b : List Byte) : Desc :=
  { farAddr := BitVec.ofNat 64 (field b 0 8), farKind := BitVec.ofNat 4 (field b 8 1), out := bitOf (field b 9 1) 0,
    rt := bitOf (field b 9 1) 1, srcFmt := BitVec.ofNat 4 (field b 0xA 1), dstFmt := BitVec.ofNat 4 (field b 0xB 1),
    conv := BitVec.ofNat 4 (field b 0xC 1), priority := BitVec.ofNat 4 (field b 0xD 1),
    armGen := BitVec.ofNat 16 (field b 0xE 2),
    counts := (List.range 5).map (fun i => BitVec.ofNat 32 (field b (0x10 + 4 * i) 4)),
    strides := (List.range 5).map (fun i => BitVec.ofNat 64 (field b (0x28 + 8 * i) 8)),
    nearA := BitVec.ofNat 20 (field b 0x50 4), nearB := BitVec.ofNat 20 (field b 0x54 4),
    halfBytes := BitVec.ofNat 32 (field b 0x58 4), deadline := BitVec.ofNat 32 (field b 0x5C 4),
    tensor := BitVec.ofNat 32 (field b 0x60 4), elemBytes := BitVec.ofNat 16 (field b 0x64 2),
    next := BitVec.ofNat 14 (field b 0x66 2), indexBase := BitVec.ofNat 48 (field b 0x68 8),
    compAddr := BitVec.ofNat 40 (field b 0x70 8) }

/-- The format of a code of SRC_FMT, OUT_FMT and the like; RAW 0xF and reserved codes have none. -/
def fmtOfCode (c : Nat) : Option Fmt :=
  [some Fmt.lf32, some .lf16, some .lf8r, some .lf8p, some .int8, some .int16, some .int32, some .bin8, some .bin16].getD c none

/-- Element size on the source side. -/
def Desc.srcSize (x : Desc) : Nat := match fmtOfCode x.srcFmt.toNat with
  | some f => f.size
  | none => x.elemBytes.toNat

/-- Element size on the destination side. -/
def Desc.dstSize (x : Desc) : Nat := match fmtOfCode x.dstFmt.toNat with
  | some f => f.size
  | none => x.elemBytes.toNat

/-- Near-side element size (R268). -/
def Desc.nearSize (x : Desc) : Nat := if x.out then x.srcSize else x.dstSize
/-- Far-side element size. -/
def Desc.farSize (x : Desc) : Nat := if x.out then x.dstSize else x.srcSize
/-- E of R267. -/
def Desc.elements (x : Desc) : Nat := (x.counts.map (·.toNat)).foldl (· * ·) 1
/-- h of R268. -/
def Desc.perHalf (x : Desc) : Nat := x.halfBytes.toNat / x.nearSize
/-- How many transfers. -/
def Desc.transfers (x : Desc) : Nat := ceilDiv x.elements x.perHalf
/-- First element and count of transfer n (R268). -/
def Desc.transfer (x : Desc) (n : Nat) : Nat × Nat := (n * x.perHalf, min x.perHalf (x.elements - n * x.perHalf))
/-- Local address of a half. -/
def Desc.half (x : Desc) (b : Bool) : Nat := if b then x.nearB.toNat else x.nearA.toNat
/-- NEXT names a further stage. -/
def Desc.chained (x : Desc) : Bool := decide (x.next ≠ 0x3FFF)
/-- Rounding, SAT and IOV of CONV. -/
def Desc.rnd (x : Desc) : Rnd := (Rnd.ofCode (bits x.conv.toNat 1 0)).getD .nearestEven
/-- SAT of CONV. -/
def Desc.sat (x : Desc) : Bool := bitOf x.conv.toNat 2
/-- IOV of CONV. -/
def Desc.iov (x : Desc) : Bool := bitOf x.conv.toNat 3

/-- Far address of element e (R267). -/
def farOf : List (Nat × Int) → Nat → Int → Int
  | [], _, a => a
  | (n, s) :: ds, i, a => farOf ds (i / n) (a + ((i % n : Nat) : Int) * s)

/-- Far address of element e of a descriptor. -/
def Desc.elemAddr (x : Desc) (e : Nat) : Int :=
  farOf ((x.counts.map (·.toNat)).zip (x.strides.map (fun s => s.toInt))) e
    (x.farAddr.toNat : Int)

/-- Lowest and highest byte address that the pattern reaches: its corners. -/
def Desc.span (x : Desc) : Int × Int :=
  let l := (x.counts.map (·.toNat)).zip (x.strides.map (fun s => s.toInt))
  let lo := l.foldl (fun a p => if p.2 < 0 then a + ((p.1 : Int) - 1) * p.2 else a) (x.farAddr.toNat : Int)
  let hi := l.foldl (fun a p => if 0 < p.2 then a + ((p.1 : Int) - 1) * p.2 else a) (x.farAddr.toNat : Int)
  (lo, hi + (x.farSize : Int) - 1)

/-- Banks that n bytes at a local address touch (R61). -/
def banksOf (a n : Nat) : List Nat := if n = 0 then [] else rangeFrom (a / 65536) ((a + n - 1) / 65536 + 1 - a / 65536)

/-! ## Block accesses (R283) -/

/-- A part of an element in one block: far address, bytes, element and the part's place in it. -/
structure Piece where
  addr : Nat
  len  : Nat
  elem : Nat
  at_  : Nat
deriving DecidableEq, Repr

/-- The parts of an element of n bytes at a, by aligned 256-byte block (fuel: the blocks). -/
def piecesOf (e : Nat) : Nat → Nat → Nat → Nat → List Piece
  | 0, _, _, _ => []
  | fuel + 1, a, n, o =>
    let k := min n (256 - a % 256)
    { addr := a, len := k, elem := e, at_ := o } :: (if k = n then [] else piecesOf e fuel (a + k) (n - k) (o + k))

/-- Gather parts into block accesses: consecutive ones of one block share an access (R283). -/
def groupPieces : List Piece → List (List Piece)
  | [] => []
  | p :: ps =>
    match groupPieces ps with
    | [] => [[p]]
    | g :: gs => match g with
      | [] => [p] :: gs
      | x :: _ => if x.addr / 256 = p.addr / 256 then (p :: g) :: gs else [p] :: g :: gs

/-- The block accesses of transfer n (R268, R283). -/
def Desc.accesses (x : Desc) (n : Nat) : List (List Piece) :=
  let (e0, k) := x.transfer n
  groupPieces ((rangeFrom e0 k).map (fun e => piecesOf e 18 (x.elemAddr e).toNat x.farSize 0)).flatten

/-! ## Element conversion of a stream (R268, R291) -/

/-- One element through a descriptor's conversion: bytes, flags and origin. RAW elements keep their bytes; an element
from poisoned bytes becomes the poison value of its destination (R36, R40, R291). core: the NaN core field. -/
def Desc.convert (x : Desc) (step : U32) (core e : Nat) (bytes : List Byte) (poisoned : Bool) : List Byte × BitVec 6 × Nat :=
  match fmtOfCode x.srcFmt.toNat, fmtOfCode x.dstFmt.toNat with
  | some s, some t =>
    if poisoned then
      let v := (convElem s t x.sat x.iov .towardZero 0 (leNat bytes)).bits
      (leBytes t.size (poisonElem t core v), 0, 0)
    else
      let r := convElem s t x.sat x.iov x.rnd (srBits x.tensor (x.indexBase + BitVec.ofNat 48 e) step) (leNat bytes)
      (leBytes t.size r.bits, r.flags, r.origin.toNat)
  | _, _ => (bytes, 0, 0)

end Sys2Proof.Machine
end

