-- ==== Sys2Proof/Machine/SlotOps.lean ====
section
/-! DEFINITION. Operations on stream slots that other units share: completion records, kills and spill frames (R273, R292, R296, R298). -/

namespace Sys2Proof.Machine
open Sys2Proof

/-- Add to a count that sticks at 0xFFFF_FFFF (R292, R298, R314). -/
def stick32 (v : U32) (n : Nat) : U32 := BitVec.ofNat 32 (min (v.toNat + n) 0xFFFFFFFF)

/-- The 32-byte stream completion record (R298): FLAGS [0] KILLED, [1] ABANDONED, [2] late, [3] spilled. -/
def streamRecord (now : U64) (sl : Slot) (r : SlotRun) (killed abandoned : Bool) : List Byte :=
  leBytes 8 now.toNat ++ leBytes 8 r.elements.toNat ++ leBytes 2 sl.gen.toNat ++
    leBytes 2 (b2n killed + 2 * b2n abandoned + 4 * b2n (decide (sl.lateCount ≠ 0)) + 8 * b2n r.everSpilled) ++
    leBytes 4 sl.lateCount.toNat ++ leBytes 4 sl.poisonIn.toNat ++ leBytes 4 sl.poisonOut.toNat

/-- Write slot s's completion record where its descriptor names one (R298). -/
def writeStreamRecord (s : Nat) (killed abandoned : Bool) (d : Dev) : Dev :=
  let sl := d.slot s
  match sl.desc with
  | none => d
  | some desc =>
    if desc.compAddr = 0 then d
    else memWrite 0 desc.compAddr.toNat (streamRecord d.time.ft sl (d.slotRun s) killed abandoned) false d

/-- Free the spill frames of slot s (R294). -/
def freeFrames (s : Nat) (d : Dev) : Dev :=
  let d := forEach (fun f d => { d with streams := { d.streams with spill := put none d.streams.spill f none } })
    (d.slotRun s).frames d
  modSlot s (fun x => { x with spilled := false }) (modSlotRun s (fun r => { r with frames := [], owed := [] }) d)

/-- The slots that run for a command. -/
def Dev.slotsOf (d : Dev) (q : Nat) (i : U32) : List Nat :=
  (d.streams.runs.filter (fun r => decide (r.2.owner = some (q, i)))).map (·.1)

/-- A job's slots return to IDLE when its last command completes, and any shadow is dropped (R273). A generation is
kept (R276). -/
def idleSlot (s : Nat) (d : Dev) : Dev :=
  let d := freeFrames s d
  let d := modSlot s (fun x => { Slot.reset with gen := x.gen, late := x.late, refused := x.refused }) d
  modSlotRun s (fun _ => SlotRun.reset) d

/-- Poisoned granules that a slot read, counted in the slot, its counter and its command (R292, R299, R314). The first
of the stream in the command raises 0x2004. -/
def poisonIn (s n far : Nat) (d : Dev) : Dev :=
  if n = 0 then d
  else
    let r := d.slotRun s
    let d := modSlot s (fun x => { x with poisonIn := stick32 x.poisonIn n }) (bump (cSlot s 4) n d)
    let d := match r.owner with
      | none => d
      | some (q, i) => modCmd q i (fun c => { c with poisonIn := stick32 c.poisonIn n }) d
    if r.poisonSeen then d
    else
      let q := match r.owner with
        | some (q, _) => q
        | none => 0xFFFFFFFF
      raiseEvent 0x2004 (0x4000 + s) (pack [(4, q), (8, far)] []) (modSlotRun s (fun r => { r with poisonSeen := true }) d)

/-- Poisoned granules that a slot wrote at the far side (R292). -/
def poisonOut (s n : Nat) (d : Dev) : Dev :=
  if n = 0 then d
  else
    let d := modSlot s (fun x => { x with poisonOut := stick32 x.poisonOut n }) d
    match (d.slotRun s).owner with
    | none => d
    | some (q, i) => modCmd q i (fun c => { c with poisonOut := stick32 c.poisonOut n }) d

/-! ## The transfer in hand -/

/-- The step number of stochastic rounding of a stream (R51): STEP of its LAUNCH (R318) for a descriptor that the program armed, 0
for one that the Owl or the front end armed. -/
def Dev.slotStep (d : Dev) (s : Nat) : U32 :=
  match if (d.slotRun s).byProgram then (d.slotRun s).owner else none with
  | none => 0
  | some (q, i) => match d.cmd q i with
    | some c => if byteAt c.bytes 0 = 1 then BitVec.ofNat 32 (field c.bytes 0x18 4) else 0
    | none => 0

/-- The descriptor's far side is the stacks of this module: STACKS, or FABRIC of its own module alone (R392). -/
def Dev.nearStacks (d : Dev) (x : Desc) : Bool :=
  decide (x.farKind = 0) || (decide (x.farKind = 1) && decide (x.span.1 / 2 ^ 40 = (d.fabric.cfg.moduleId.toNat : Int) ∧
    x.span.2 / 2 ^ 40 = (d.fabric.cfg.moduleId.toNat : Int)))

/-- The far side lies beyond the links: FABRIC that reaches another module, or LINK. -/
def Dev.overLinks (d : Dev) (x : Desc) : Bool :=
  decide (x.farKind = 5) || (decide (x.farKind = 1) && !d.nearStacks x)

/-- The transfer that a slot's engine works. -/
def Slot.current (x : Slot) : Nat := x.released - 1

/-- Its block accesses (R283); a Badger stream's transfer counts as one. -/
def Slot.accesses (x : Slot) (desc : Desc) : List (List Piece) :=
  if desc.farKind = 4 then [[]] else desc.accesses x.current

/-! ## Landing (R268, R291) -/

/-- One far-side element landed in the half: converted, marked, counted. -/
def landElem (s : Nat) (desc : Desc) (e : Nat) (data : List (Byte × Bool)) (d : Dev) : Dev :=
  let x := d.slot s
  let p := s / 8
  let (e0, _) := desc.transfer x.current
  let poisoned := data.any (·.2)
  let (bytes, flags, origin) := desc.convert (d.slotStep s) (d.nanCore p) e (data.map (·.1)) poisoned
  let d := modCore p (fun c => c.land (desc.half x.half + (e - e0) * desc.nearSize) (bytes.map (fun b => (b, poisoned)))) d
  let d := modSlotRun s (fun r => { r with elements := r.elements + 1 }) d
  recordStreamFlags (d.slotRun s).owner s flags origin (desc.indexBase.toNat + e) d

/-- Bytes of the far side arrive in order: whole elements land, the rest waits (fuel: the bytes). -/
def landLoop (s : Nat) (desc : Desc) : Nat → List (Byte × Bool) → Dev → Dev
  | 0, data, d => modSlotRun s (fun r => { r with tail := data }) d
  | n + 1, data, d =>
    let r := d.slotRun s
    let (e0, k) := desc.transfer (d.slot s).current
    let i := r.landed / desc.farSize
    if data.length < desc.farSize ∨ k ≤ i then modSlotRun s (fun r => { r with tail := data }) d
    else
      let d := landElem s desc (e0 + i) (data.take desc.farSize) d
      landLoop s desc n (data.drop desc.farSize) (modSlotRun s (fun r => { r with landed := r.landed + desc.farSize }) d)

/-- Far-side bytes of a slot's transfer arrive. -/
def landBytes (s : Nat) (desc : Desc) (data : List (Byte × Bool)) (d : Dev) : Dev :=
  let all := (d.slotRun s).tail ++ data
  landLoop s desc all.length all d

/-- Whether every far-side byte of the transfer in hand has landed. -/
def Dev.landedAll (d : Dev) (s : Nat) (desc : Desc) : Bool :=
  decide ((desc.transfer (d.slot s).current).2 * desc.farSize ≤ (d.slotRun s).landed)

/-! ## KILL (R296) -/

/-- The issued and not yet returned accesses of a slot that reads this module's stacks land. -/
def finishIssued (s : Nat) (d : Dev) : Dev :=
  let o := d.slot s
  match if o.state = .active then o.desc else none with
  | none => d
  | some x =>
    if x.out ∨ d.nearStacks x = false then d
    else
      forEach (fun (a : List Piece) d =>
        let data := (a.map (fun p => d.marked (p.addr % 2 ^ 40) p.len)).flatten
        let bad := ((a.map (fun p => granulesOf (p.addr % 2 ^ 40) p.len)).flatten.eraseDups).filter (fun g => look false d.mem.poison g)
        landBytes s x data (poisonIn s bad.length (64 * bad.headD 0) d))
        (((o.accesses x).drop o.returned).take (o.issued - o.returned)) d

/-- KILL of slot s (R272, R296): a slot that is IDLE stays so, one already DONE keeps DONE. Block accesses already issued
complete. -/
def killSlot (s : Nat) (d : Dev) : Dev :=
  let st := (d.slot s).state
  if st = .idle ∨ st = .done then d
  else
    let d := finishIssued s (freeFrames s d)
    let d := modSlotRun s (fun r => { r with killed := true, killedAt := some d.time.edges }) d
    let d := modSlot s (fun x => { x with state := .killed }) d
    if st = .fault ∨ st = .killed then d else writeStreamRecord s true false d

/-- Progress of a command (R338). -/
def progress (q : Nat) (i : U32) (d : Dev) : Dev :=
  modCmd q i (fun c => { c with progress := c.progress + 1, lastProgress := d.time.ft, excluded := 0 }) d

/-- Progress of the command that a slot runs for. -/
def slotProgress (s : Nat) (d : Dev) : Dev :=
  match (d.slotRun s).owner with
  | none => d
  | some (q, i) => progress q i d

/-- Progress of the command that a core works for (R338: an instruction issued). -/
def coreProgress (p : Nat) (d : Dev) : Dev :=
  match d.ownerOf p with
  | none => d
  | some (q, i) => progress q i d

end Sys2Proof.Machine
end

