-- ==== Sys2Proof/Machine/Records.lean ====
section
/-! DEFINITION. Journal and trace records (R368 to R372, R379 to R384). -/

namespace Sys2Proof.Machine
open Sys2Proof

/-- Bytes a record takes: a 32-byte header and its payload padded to a multiple of 32 (R369). -/
def JRecord.size (r : JRecord) : Nat := 32 + alignUp r.payload.length 32

/-- The bytes of a record (R369). -/
def JRecord.bytes (r : JRecord) : List Byte :=
  leBytes 8 r.stamp.toNat ++ [r.type, 0, 0, 0] ++ leBytes 4 r.payload.length ++ leBytes 4 r.queue.toNat ++
    leBytes 4 r.index.toNat ++ leBytes 4 r.source.toNat ++ leBytes 4 r.check.toNat ++ r.payload ++
    zeros (alignUp r.payload.length 32 - r.payload.length)

/-- Bytes of the journal in use. -/
def Journal.used (j : Journal) : Nat := (j.records.map JRecord.size).sum

/-- The job whose segment needs a journal record, by queue and index. -/
def Dev.job (d : Dev) (q : Nat) (i : U32) : Option Job :=
  d.mesh.jobs.find? (fun j => decide (j.queue = q ∧ j.index = i))

/-- Change the job of a command. -/
def modJob (q : Nat) (i : U32) (f : Job → Job) (d : Dev) : Dev :=
  { d with mesh := { d.mesh with jobs := updateFirst (fun j => decide (j.queue = q ∧ j.index = i)) f d.mesh.jobs } }

/-- Whether the segment of a command is marked unreplayable (R371). -/
def Dev.unreplayable (d : Dev) (q : Nat) (i : U32) : Bool :=
  d.journal.marked.contains (q, i)

/-- Add a journal record for a command (R370); without room its segment cannot be replayed (R371). -/
def journalAdd (type q : Nat) (i : U32) (source : Nat) (check : U32) (payload : List Byte) (d : Dev) : Dev :=
  let r : JRecord := { stamp := d.time.ft, type := BitVec.ofNat 8 type, queue := BitVec.ofNat 32 q, index := i,
                       source := BitVec.ofNat 32 source, check := check, payload := payload }
  if d.unreplayable q i then d
  else if d.journal.used + r.size ≤ 2 ^ 31 then
    { d with journal := { d.journal with records := d.journal.records ++ [r] } }
  else
    bump (cOwl 3) 1 { d with journal := { d.journal with marked := d.journal.marked ++ [(q, i)], full := true } }

/-- A segment begins, or begins again: no transfer of it has landed. -/
def forgetPassed (q : Nat) (i : U32) (d : Dev) : Dev :=
  { d with journal := { d.journal with passed := d.journal.passed.filter (fun k => decide ((k.1, k.2.1) ≠ (q, i))) } }

/-- Free the records of a command's segment (R370); FULL clears when no segment stays marked (R372). -/
def journalFree (q : Nat) (i : U32) (d : Dev) : Dev :=
  let marked := d.journal.marked.filter (fun k => k ≠ (q, i))
  { forgetPassed q i d with journal := { (forgetPassed q i d).journal with
      records := d.journal.records.filter (fun r => !decide (r.queue.toNat = q ∧ r.index = i)),
      marked := marked, full := !marked.isEmpty } }

/-- A restart point is reached (R370): its checkpoint slot and its segment number. -/
def journalPoint (q : Nat) (i : U32) (slot : Bool) (segment : Nat) (d : Dev) : Dev :=
  let p := leBytes 8 (b2n slot + 2 * segment)
  journalAdd 0x01 q i 0 (crc32c p) p d

/-- A segment's journal record of a type and a stream, for the transfer of that stream that lands now: none but in a replay. -/
def Dev.replayRecord (d : Dev) (type q : Nat) (i : U32) (source : Nat) : Option JRecord :=
  (d.journal.records.filter (fun r => decide (r.type.toNat = type ∧ r.queue.toNat = q ∧ r.index = i ∧ r.source.toNat = source)))[(
    d.journal.passed.filter (fun k => k = (q, i, source))).length]?

/-- A transfer of a stream has landed. -/
def notePassed (q : Nat) (i : U32) (source : Nat) (d : Dev) : Dev :=
  { d with journal := { d.journal with passed := d.journal.passed ++ [(q, i, source)] } }

/-- Whether a trace is being recorded of a source: its bit in TRACE_CTRL (R379). -/
def Dev.recording (d : Dev) (bit : Nat) : Bool :=
  bitOf d.mode.traceCtl.toNat 0 && bitOf d.mode.traceCtl.toNat bit

/-- Write the trace header's WRITE_OFFSET and RECORDS (R380). -/
def traceHeader (base : Nat) (d : Dev) : Dev :=
  memWrite 4 (base + 0x10) (leBytes 8 d.journal.writeOff ++ leBytes 8 d.journal.traceRecords) false d

/-- Store a trace record at an offset of the region. -/
def traceStore (base off : Nat) (r : JRecord) (d : Dev) : Dev :=
  let d := memWrite 4 (base + off) r.bytes false d
  let d := { d with journal := { d.journal with writeOff := off + r.size, traceRecords := d.journal.traceRecords + 1 } }
  traceHeader base d

/-- Record an input of a source while recording (R381): TRACE_CTRL bit, TYPE, QUEUE, INDEX, SOURCE and payload. -/
def traceAdd (bit type q : Nat) (i : U32) (source : Nat) (payload : List Byte) (d : Dev) : Dev :=
  match d.journal.region with
  | none => d
  | some (base, len) =>
    if !d.recording bit then d
    else
      let r : JRecord := { stamp := d.time.ft, type := BitVec.ofNat 8 type, queue := BitVec.ofNat 32 q, index := i,
                           source := BitVec.ofNat 32 source, check := crc32c payload, payload := payload }
      if d.journal.traceFull then bump (cOwl 4) 1 d
      else if d.journal.writeOff + r.size ≤ len then traceStore base d.journal.writeOff r d
      else if bitOf d.mode.traceCtl.toNat 9 ∧ 256 + r.size ≤ len then traceStore base 256 r d
      else bump (cOwl 4) 1 { d with journal := { d.journal with traceFull := true } }

/-- A record read back from bytes of the trace region (R369, R380). -/
def traceRead (d : Dev) (a : Nat) : JRecord :=
  let h := d.bytesAt a 32
  { stamp := BitVec.ofNat 64 (field h 0 8), type := byteAt h 8, queue := BitVec.ofNat 32 (field h 0x10 4),
    index := BitVec.ofNat 32 (field h 0x14 4), source := BitVec.ofNat 32 (field h 0x18 4),
    check := BitVec.ofNat 32 (field h 0x1C 4), payload := d.bytesAt (a + 32) (field h 0x0C 4) }

/-- The records of the trace region from an offset on, n of them, each with its offset. -/
def traceList (d : Dev) (base : Nat) : Nat → Nat → List (Nat × JRecord)
  | 0, _ => []
  | n + 1, off => let r := traceRead d (base + off); (off, r) :: traceList d base n (off + r.size)

/-- The header fields of a divergence (R380, R383). -/
def traceDiverge (base off core : Nat) (d : Dev) : Dev :=
  let d := hwSet 0x3018 42 (memWrite 4 (base + 0x20) (leBytes 8 off ++ leBytes 8 d.time.ft.toNat ++ leBytes 4 core) false d)
  { d with journal := { d.journal with diverged := true, divergeOff := off, divergeAt := d.time.ft,
                                       divergeCore := BitVec.ofNat 32 core } }

/-- A digest of a job at a channel-0 barrier (R383): recorded, or compared with the recorded one of the same ordinal.
cores: the job's logical cores. -/
def traceDigest (q : Nat) (i : U32) (ordinal : Nat) (cores : List Nat) (crcs : List U32) (d : Dev) : Dev :=
  let payload := (crcs.map (fun c => leBytes 4 c.toNat)).flatten
  let d := traceAdd 8 0x19 q i 0 payload d
  if bitOf d.mode.traceCtl.toNat 1 ∧ bitOf d.mode.traceCtl.toNat 8 then
    match d.journal.region with
    | none => d
    | some (base, _) =>
      let mine := (traceList d base d.journal.traceRecords 256).filter (fun r => decide (r.2.type = 0x19 ∧ r.2.queue.toNat = q ∧ r.2.index = i))
      match mine[ordinal]? with
      | none => d
      | some (off, r) =>
        match ((cores.zip (List.range cores.length)).filter (fun c =>
            decide (field r.payload (4 * c.2) 4 ≠ (crcs.getD c.2 0).toNat))).map (·.1) with
        | [] => d
        | c :: cs => if d.journal.diverged then d else traceDiverge base off (cs.foldl min c) d
  else d

/-- Whether inputs come from the trace and not the world (R382). -/
def Dev.replaying (d : Dev) : Bool := bitOf d.mode.traceCtl.toNat 1

/-- The records before the one of a type and ensemble that is number n, from 0; none where there is no such record. -/
def aheadOf (type e : Nat) : Nat → List JRecord → Option (List JRecord)
  | _, [] => none
  | n, r :: rs =>
    if r.type.toNat = type ∧ field r.payload 0 4 = e then
      (match n with
       | 0 => some []
       | m + 1 => (aheadOf type e m rs).map (r :: ·))
    else (aheadOf type e n rs).map (r :: ·)

/-- Whether an admission (TYPE 0x17) or a publication (0x18) of an ensemble may take place (R382): while REPLAY is set, every
one of the other kind recorded before its own record has taken place. -/
def Dev.inOrder (d : Dev) (type e : Nat) : Bool :=
  if !d.replaying then true
  else
    let records := match d.journal.region with
      | some (base, _) => (traceList d base d.journal.traceRecords 256).map (·.2)
      | none => []
    let done (t : Nat) := if t = 0x17 then d.journal.admits else d.journal.publishes
    let other := if type = 0x17 then 0x18 else 0x17
    match aheadOf type e ((done type).filter (fun x => x = e)).length records with
    | none => true
    | some rs =>
      let before := (rs.filter (fun r => decide (r.type.toNat = other))).map (fun r => field r.payload 0 4)
      before.all (fun x => decide ((before.filter (fun y => y = x)).length ≤ ((done other).filter (fun y => y = x)).length))

/-- An admission or a publication has taken place while REPLAY is set. -/
def noteOrder (type e : Nat) (d : Dev) : Dev :=
  if !d.replaying then d
  else if type = 0x17 then { d with journal := { d.journal with admits := d.journal.admits ++ [e] } }
  else { d with journal := { d.journal with publishes := d.journal.publishes ++ [e] } }

/-- Whether a source is taken from the trace and not from the world (R379, R382): bit n of SOURCES while REPLAY is set. -/
def Dev.fromTrace (d : Dev) (n : Nat) : Bool := d.replaying && bitOf d.journal.sources.toNat n

/-- A live input dropped while REPLAY is set (R382). -/
def dropLive (d : Dev) : Dev := bump (cOwl 5) 1 d

end Sys2Proof.Machine
end

