-- ==== Sys2Proof/Machine/Queue.lean ====
section
/-! DEFINITION. Queues: entries, starting, completion records, retirement, slots and stopping commands (R300 to R316, R339 to R342, R346, R347). -/

namespace Sys2Proof.Machine
open Sys2Proof

/-! ## Entries (R300, R310, R312) -/

/-- Ring size S. -/
def Queue.ringSize (u : Queue) : Nat := 2 ^ u.ringLog2

/-- Address of entry i of a queue's ring (R300). -/
def Queue.entryAddr (u : Queue) (i : Nat) : Nat := u.ringBase.toNat + 64 * (i % u.ringSize)

/-- Entries accepted and not yet started. -/
def Queue.avail (u : Queue) : Nat := (u.producer - u.started).toNat

/-- The entry at an index, once it can be read: from device memory, or fetched. -/
def Dev.entryAt (d : Dev) (q : Nat) (i : U32) : Option RingEntry :=
  let u := d.queue q
  if u.inDevice then
    some { bytes := d.bytesAt (u.entryAddr i.toNat) 64, poisoned := decide (0 < d.poisonedIn (u.entryAddr i.toNat) 64) }
  else ((d.qrun q).fetched.find? (fun e => decide (e.1 = i.toNat))).map (·.2)

/-- Entries a command occupies, from its first entry (R312, R317); 1 where the opcode or STAGES is not valid. -/
def entriesNeeded (first : List Byte) : Nat :=
  match (byteAt first 0).toNat with
  | 1 => 5
  | 5 => let n := (byteAt first 0x13).toNat
         if 2 ≤ n ∧ n ≤ 4 then 1 + 2 * n else 1
  | _ => 1

/-- Whether a first entry is not waited on: a reserved opcode, or a COPY with STAGES outside 2 to 4 (R312). -/
def badFirst (first : List Byte) : Option Nat :=
  let op := (byteAt first 0).toNat
  if 9 < op then some 0
  else if op = 5 ∧ entriesNeeded first = 1 then some 0x13
  else none

/-- The entries at consecutive indices, when all can be read. -/
def Dev.entriesAt (d : Dev) (q : Nat) (i : U32) : Nat → Option (List RingEntry)
  | 0 => some []
  | n + 1 => match d.entryAt q i, d.entriesAt q (i + 1) n with
    | some e, some es => some (e :: es)
    | _, _ => none

/-- The command at the head of a queue: its bytes, its entries and how many of them were read poisoned. -/
def Dev.head (d : Dev) (q : Nat) : Option (List Byte × Nat × Nat) :=
  let u := d.queue q
  match if u.avail = 0 then none else d.entryAt q u.started with
  | none => none
  | some e =>
    let n := entriesNeeded e.bytes
    if u.avail < n then none
    else match d.entriesAt q u.started n with
      | none => none
      | some es => some ((es.map (·.bytes)).flatten, n, (es.filter (·.poisoned)).length)

/-- Whether the queue has entries to start (R312: a command not wholly covered counts as not accepted). -/
def Dev.hasWork (d : Dev) (q : Nat) : Bool :=
  decide (0 < (d.queue q).avail) && decide ((d.qrun q).need ≤ (d.queue q).avail)

/-- OVERLAP permitted and set (R311, R317). -/
def overlapOk (first : List Byte) : Bool :=
  [0, 1, 2, 5].contains (byteAt first 0).toNat && bitOf (byteAt first 1).toNat 0

/-- Commands running: started and not completed. -/
def Dev.live (d : Dev) (q : Nat) : List Cmd := (d.qrun q).running.filter (fun c => !c.completed)

/-- Whether the front end may start the head (R311, R309). -/
def Dev.mayStart (d : Dev) (q : Nat) (first : List Byte) : Bool :=
  d.fe.running && decide ((d.queue q).state = .active) && !(d.qrun q).yielding &&
    decide ((d.live q).length < 16) && ((d.live q).isEmpty || overlapOk first)

/-! ## Slots and states (R305, R309) -/

/-- One granule access for a queue's context in the reserved range (R308, R391, R409). -/
def contextAccess (q : Nat) (d : Dev) : Dev := bump (cChan (channelOf (0xFF00000000 + 64 * q)) 6) 1 d

/-- A queue leaves its slot for a state, its context written back; fetched entries are not kept (R309, R310). -/
def leaveSlot (q : Nat) (st : QState) (d : Dev) : Dev :=
  let d := if (d.queue q).slot = none then d else contextAccess q d
  modRun q (fun r => { r with fetched := [], asked := [], yielding := false }) (modQueue q (fun u => { u with slot := none, state := st }) d)

/-- Learn how many entries the head needs once its first entry can be read (R312). -/
def learnNeed (q : Nat) (d : Dev) : Dev :=
  let u := d.queue q
  match if u.avail = 0 then none else d.entryAt q u.started with
  | none => d
  | some e => modRun q (fun r => { r with need := entriesNeeded e.bytes }) d

/-- The first of n entries from an index that cannot be read yet. -/
def Dev.missing (d : Dev) (q : Nat) (i : U32) : Nat → Option U32
  | 0 => none
  | n + 1 => if (d.entryAt q i).isNone then some i else d.missing q (i + 1) n

/-- Entries of the head to be fetched: all it needs once it is known and covered, else only its first (R310, R312). -/
def Dev.wanted (d : Dev) (q : Nat) : Nat :=
  let need := (d.qrun q).need
  if (d.queue q).avail = 0 then 0
  else if 0 < need ∧ need ≤ (d.queue q).avail then need else 1

/-- Issue the fetch of the aligned block of four entries that holds the head's first entry not yet read, from a ring in
host memory, while a further command may be started (R310, R311); none in D3hot (R529), none twice. -/
def fetchMore (q : Nat) (d : Dev) : Dev :=
  let u := d.queue q
  match d.missing q u.started (d.wanted q) with
  | none => d
  | some i =>
    let block := i.toNat / 4 * 4
    if decide (u.state = .active) && !u.inDevice && !(d.qrun q).yielding && decide ((d.live q).length < 16) &&
        !(d.qrun q).asked.contains block && !d.mode.d3hot then
      hostRead (2 ^ 20 + q) (u.entryAddr block) 256 (modRun q (fun r => { r with asked := r.asked ++ [block] }) d)
    else d

/-- Look at the head of a queue that holds a slot: what it needs, and what is to be fetched for it. -/
def lookAhead (q : Nat) (d : Dev) : Dev :=
  if (d.queue q).state = .active then fetchMore q (learnNeed q d) else d

/-- What a queue's state becomes once commands have completed (R309, R341). -/
def settle (q : Nat) (d : Dev) : Dev :=
  let u := d.queue q
  if !(d.live q).isEmpty then lookAhead q d
  else match u.state with
    | .draining => raiseEvent 0x3004 0x8000 (leBytes 4 q) (leaveSlot q .stopped d)
    | .parked => leaveSlot q .pending d
    | .active =>
      let d := learnNeed q d
      if !d.hasWork q then leaveSlot q .idle d
      else if (d.qrun q).yielding then leaveSlot q .pending d
      else fetchMore q d
    | _ => d

/-! ## Completion (R313, R314, R347) -/

/-- Statuses in the order of R347. -/
def statusOrder : List Nat := [0x10, 0x11, 0x12, 0x13, 0x21, 0x20, 0x23, 0x22, 0x02, 0x30, 0x14, 0x03, 0x01, 0x00]

/-- Rank of a status, from 0. -/
def statusRank (code : Byte) : Nat := statusOrder.findIdx (fun x => x = code.toNat)

/-- The fact of the first rank. -/
def bestFact : List (Byte × U32) → Byte × U32
  | [] => (0, 0)
  | [f] => f
  | f :: fs =>
    let g := bestFact fs
    if statusRank g.1 < statusRank f.1 then g else f

/-- STATUS and DETAIL of a command (R121, R125, R292, R347, R378). A SCORE's DETAIL of rank 9 to 14 is its last batch's
version. -/
def Cmd.result (c : Cmd) : Byte × U32 :=
  let facts := c.facts ++ (if c.poisonOut = 0 then [] else [(0x02, 0)]) ++
    (if c.preemptions = 0 then [] else [(0x14, BitVec.ofNat 32 c.preemptions)]) ++
    (if c.replays = 0 then [] else [(0x03, BitVec.ofNat 32 c.replays)]) ++
    (if c.flags = 0 then [] else [(0x01, 0)])
  let best := match facts with
    | [] => (0x00, 0)
    | fs => bestFact fs
  match c.work with
  | .score _ _ _ v _ => if 8 ≤ statusRank best.1 then (best.1, v) else best
  | _ => best

/-- The completion record (R314). -/
def completionRecord (d : Dev) (c : Cmd) : List Byte :=
  let (st, det) := c.result
  [st, byteAt c.bytes 0, BitVec.ofNat 8 c.flags.toNat, BitVec.ofNat 8 c.notes.toNat] ++ leBytes 4 c.index.toNat ++
    slice c.bytes 8 8 ++ leBytes 8 c.tDoorbell.toNat ++ leBytes 8 c.tStart.toNat ++ leBytes 8 d.time.ft.toNat ++
    leBytes 4 d.mesh.epoch.toNat ++ leBytes 4 c.version.toNat ++ leBytes 4 c.poisonIn.toNat ++
    leBytes 4 c.poisonOut.toNat ++ leBytes 4 det.toNat ++ leBytes 4 c.count.toNat

/-- Write a record over a command's first entry (R314): in host memory, or in device memory. -/
def writeCompletion (q : Nat) (c : Cmd) (d : Dev) : Dev :=
  let u := d.queue q
  let rec_ := completionRecord d c
  if u.inDevice then memWrite 0 (u.entryAddr c.index.toNat) rec_ false d
  else hostWrite (u.entryAddr c.index.toNat) rec_ false d

/-- Retire the head command (R313, R316, R348): the counter advances and the summary bit is set. -/
def retireOne (q : Nat) (c : Cmd) (d : Dev) : Dev :=
  let d := modQueue q (fun u => { u with retired := u.retired + BitVec.ofNat 64 c.entries }) d
  let d := modRun q (fun r => { r with running := r.running.drop 1 }) d
  let d := { d with fe := { d.fe with
      summary := upd 0 d.fe.summary (q / 64) (fun w => w ||| (1 <<< (q % 64))), lastMove := d.time.ft } }
  bump (cFront 0) 1 (hwSet (0x100000 + 8 * (q / 64)) (q % 64) d)

/-- Retire every completed command at the head, at most n of them. -/
def retireLoop (q : Nat) : Nat → Dev → Dev
  | 0, d => d
  | n + 1, d => match (d.qrun q).running.head? with
    | some c => if c.completed then retireLoop q n (retireOne q c d) else d
    | none => d

/-! ## Versions in use (R334 to R337) -/

/-- Versions that stay: the newest while the image is loaded, and those with users; an unloading image with none is
freed (R335, R337). -/
def pruneImage (o : ImageObj) : ImageObj :=
  let top := (o.versions.map (·.number)).foldl max 0
  let vs := (o.versions.filter (fun v => decide (v.users ≠ 0 ∨ (v.number = top ∧ !o.unloading)))).map
    (fun v => { v with state := if v.number = top then .newest else .pinned })
  if vs.isEmpty then ImageObj.reset else { o with versions := vs }

/-- A user of an image version ends. -/
def releaseVersion (image version : Nat) (d : Dev) : Dev :=
  modImage image (fun o => pruneImage
    { o with versions := updateFirst (fun v => decide (v.number = version)) (fun v => { v with users := v.users - 1 }) o.versions }) d

/-- The 64 bytes of a growth report (R204). -/
def GrowReport.bytes (r : GrowReport) (cycles : U64) : List Byte :=
  [BitVec.ofNat 8 r.session, BitVec.ofNat 8 r.op, BitVec.ofNat 8 r.events.toNat, r.level] ++ leBytes 4 r.tree ++ leBytes 4 r.split ++
    leBytes 4 r.leaves ++ leBytes 4 r.version.toNat ++ leBytes 4 r.base.toNat ++ leBytes 4 r.first ++ leBytes 4 r.placed ++
    leBytes 4 r.replFirst ++ leBytes 4 r.replaced ++ leBytes 4 r.excluded ++ leBytes 4 r.reject ++ leBytes 8 r.hist ++
    leBytes 8 cycles.toNat

/-- Write a GROW command's report; CYCLES follows timing that the model leaves out and is open (log entry 4). -/
def writeReport (c : Cmd) (r : GrowReport) (d : Dev) : Dev :=
  let (v, d) := drawFree d
  memWrite 4 (field c.bytes 0x18 8) (r.bytes v) false d

/-- The report of a GROW command that did nothing: SESSION and OP (R204). -/
def bareReport (c : Cmd) (d : Dev) : Dev :=
  memWrite 4 (field c.bytes 0x18 8) ([byteAt c.bytes 0x20, byteAt c.bytes 0x21] ++ zeros 62) false d

/-- A GROW command that is stopped while its publication is retried leaves its session as it was (R180). -/
def dropRetry (c : Cmd) (d : Dev) : Dev :=
  match c.work with
  | .growRetry n => bareReport c { d with retries := d.retries.filter (fun r => decide (r.1 ≠ n)) }
  | _ => d

/-! ## The stash headers (R249, R251, R254) -/

/-- Micro-batches in flight whose TAG names a version. -/
def Stash.readers (t : Stash) (v : U32) : Nat := (t.flight.filter (fun f => f.2.1 = v)).length

/-- The header bytes of a stash (R254). -/
def Stash.bytes (t : Stash) : List Byte :=
  let sl (i : Nat) : StashSlot := t.slots.getD i { version := 0, state := 0 }
  leBytes 4 t.newest.toNat ++ [BitVec.ofNat 8 (b2n t.micro), t.lag] ++ leBytes 2 t.u.toNat ++
    ((List.range 4).map (fun i => leBytes 4 (sl i).version.toNat)).flatten ++
    ((List.range 4).map (fun i => leBytes 2 (if (sl i).state = 0 then 0 else t.readers (sl i).version))).flatten ++
    [BitVec.ofNat 8 ((sl 0).state.toNat + 4 * (sl 1).state.toNat + 16 * (sl 2).state.toNat + 64 * (sl 3).state.toNat),
     BitVec.ofNat 8 (b2n (decide (t.waiting ≠ 0))), 0, 0] ++ leBytes 4 t.waiting.toNat ++ leBytes 8 t.updates.toNat ++ zeros 16

/-- Rewrite a stash header in device memory (R254). -/
def writeStash (a : Nat) (d : Dev) : Dev := memWrite 4 a (d.stash a).bytes false d

/-- Change a stash, and its header where that changes. -/
def setStash (a : Nat) (f : Stash → Stash) (d : Dev) : Dev :=
  let d' := modStash a f d
  if (d'.stash a).bytes = (d.stash a).bytes then d' else writeStash a d'

/-- An update that no master write has reached is discarded when its command is stopped (R255); a version that every owner has
written stays. -/
def dropUpdate (a : Nat) (d : Dev) : Dev :=
  setStash a (fun t => if t.ripe.isSome then t else { t with
    waiting := 0, stalled := [], slots := t.slots.map (fun x => if x.state = 3 then { version := 0, state := 0 } else x) }) d

/-- The live version of an image with a number. -/
def Dev.imageVersion (d : Dev) (image version : Nat) : Option ImageVersion :=
  (d.image image).versions.find? (fun v => v.number = version)

/-- The towers of the image that a command's job runs. -/
def Dev.workTowers (d : Dev) (w : Work) : List TowerDecl :=
  let v := match w with
    | .launch im n _ _ => d.imageVersion im n
    | .taskLaunch t => d.imageVersion (d.task t).image (d.task t).version
    | _ => none
  (v.map (fun v => v.image.towers)).getD []

/-- What a command holds when it completes: its job, slots, and image version. -/
def releaseJob (q : Nat) (c : Cmd) (d : Dev) : Dev :=
  let d := forEach idleSlot (d.slotsOf q c.index) d
  let d := forEach (fun (w : TowerDecl) d => dropUpdate w.header.toNat d) (d.workTowers c.work) d
  let d := { d with mesh := { d.mesh with
      jobs := d.mesh.jobs.filter (fun j => !decide (j.queue = q ∧ j.index = c.index)) } }
  match c.work with
  | .launch image version _ _ => releaseVersion image version d
  | .taskLaunch t => modTask t (fun k => if k.running = some (q, c.index) then { k with running := none } else k) d
  | _ => d

/-- Complete a command (R313): its record is written before its retirement; the journal's segment is freed. -/
def finishCmd (q : Nat) (i : U32) (d : Dev) : Dev :=
  match d.cmd q i with
  | none => d
  | some c =>
    if c.completed then d
    else
      let d := journalFree q i d
      let d := writeCompletion q c d
      let d := releaseJob q c d
      let d := modCmd q i (fun c => { c with completed := true }) d
      settle q (retireLoop q (d.qrun q).running.length d)

/-- Note a fact of a command's outcome (R347). -/
def addFact (q : Nat) (i : U32) (code : Byte) (detail : Nat) (d : Dev) : Dev :=
  modCmd q i (fun c => { c with facts := c.facts ++ [(code, BitVec.ofNat 32 detail)] }) d

/-- Set a NOTES bit (R314): 0 REPLAYED, 1 PREEMPTED, 2 LATE, 3 EPOCH_CHANGED, 4 INCOMPLETE. -/
def addNote (q : Nat) (i : U32) (n : Nat) (d : Dev) : Dev :=
  modCmd q i (fun c => { c with notes := c.notes ||| (1 <<< n) }) d

/-- Complete a command with a status. -/
def finishWith (q : Nat) (i : U32) (code : Byte) (detail : Nat) (d : Dev) : Dev :=
  finishCmd q i (addFact q i code detail d)

/-- Complete a command with 0x22 BAD_COMMAND and the offset of its first faulty field. -/
def badCommand (q : Nat) (i : U32) (detail : Nat) (d : Dev) : Dev := finishWith q i 0x22 detail d

/-! ## Stopping commands (R296, R339, R341, R346) -/

/-- Whether a batch works for a SCORE command. -/
def Batch.forCmd (q : Nat) (i : U32) (b : Batch) : Bool :=
  match b.source with
  | .score q' i' _ => decide (q' = q ∧ i' = i)
  | .service _ => false

/-- The segment of a batch, as the journal names it (R369): queue and index of its command, or its service and its number. -/
def Batch.segment (b : Batch) : Nat × U32 :=
  match b.source with
  | .score q i _ => (q, i)
  | .service e => (2 ^ 18 + e, b.number)

/-! Versions of ensembles (R155) -/

/-- Whether a version is its ensemble's current one. -/
def EnsObj.isCurrent (o : EnsObj) (v : EnsVersion) : Bool := decide (o.present = true ∧ v.number = o.current ∧ v.era = o.era)

/-- Versions that stay live, those of deleted ensembles of the same ID among them (R155, R157). -/
def pruneVersions (o : EnsObj) : EnsObj :=
  { o with versions := o.versions.filter (fun v => o.isCurrent v || decide (v.batches ≠ 0)) }

/-- The live versions of the ensemble that the ID names now (R155). -/
def EnsObj.live (o : EnsObj) : List EnsVersion := (pruneVersions o).versions.filter (fun v => v.era = o.era)

/-- An ensemble with the deletions of its ID before it, as one number: 4,096 × deletions + ID (R157). -/
def ensKey (ens era : Nat) : Nat := 4096 * era + ens

/-- The ensemble of a batch, with the deletions before it. -/
def Batch.ensKey (b : Batch) : Nat := Machine.ensKey b.layout.ensemble.toNat b.era

/-- A batch starts, or ends, under a version of an ensemble. -/
def modVersion (key : Nat) (n : U32) (f : Nat → Nat) (d : Dev) : Dev :=
  let is (v : EnsVersion) : Bool := decide (v.number = n ∧ v.era = key / 4096)
  modEns (key % 4096) (fun o => pruneVersions { o with versions := updateFirst is (fun v => { v with batches := f v.batches }) o.versions }) d

/-- A group from whose places the batches of a SCORE are taken away. -/
def ScoreGroup.without (q : Nat) (i : U32) (s : ScoreGroup) : ScoreGroup :=
  let keep (b : Option Batch) : Option Batch := b.filter (fun b => !b.forCmd q i)
  let act := keep s.active
  { s with active := if act.isSome then act else keep s.next, next := if act.isSome then keep s.next else none,
           finishing := keep s.finishing }

/-- Drop the batches of a SCORE that is stopped: they end under their versions. -/
def dropBatches (q : Nat) (i : U32) (d : Dev) : Dev :=
  forEach (fun g d =>
    let s := d.sgroup g
    let gone := ([s.active, s.next, s.finishing].filterMap id).filter (Batch.forCmd q i)
    forEach (fun (b : Batch) d => modVersion b.ensKey b.version (fun n => n - 1) d) gone
      (modSGroup g (ScoreGroup.without q i) d)) (d.scoring.groups.map (·.1)) d

/-- COUNT of a COPY that is stopped: the elements that its last stage has moved (R314). -/
def countStopped (q : Nat) (c : Cmd) (d : Dev) : Dev :=
  match c.work with
  | .copy slots => modCmd q c.index (fun x => { x with count := (d.slotRun (slots.getLastD 0)).elements.setWidth 32 }) d
  | _ => d

/-- The gathers of a command that are held at their engines are discarded (R228). -/
def dropGathers (q : Nat) (i : U32) (d : Dev) : Dev :=
  let drop (t : Table) : Table := { t with gathers := t.gathers.filter (fun g => decide (g.owner ≠ some (q, i))) }
  { d with embed := { d.embed with tables := mapKeep Table.reset drop d.embed.tables } }

/-- Stop a running command and complete it with a status, INCOMPLETE set. A command past its commit point is not
stopped (R346); a KILL that reaches a dense update takes effect when the update does (R255). A preempted one completes when
the batch leaves its cores (R345). -/
def stopCmd (code : Byte) (detail : Nat) (q : Nat) (i : U32) (d : Dev) : Dev :=
  match d.cmd q i with
  | none => d
  | some c =>
    if c.completed then d
    else if c.committed then
      (if code = 0x10 then modJob q i (fun j => { j with killed := true }) d else d)
    else match d.job q i with
      | some j =>
        if j.preempted ∧ code = 0x10 then modJob q i (fun j => { j with killed := true, saved := [] }) d
        else finishWith q i code detail
          (addNote q i 4 (dropBatches q i (forEach killSlot (d.slotsOf q i) (dropGathers q i d))))
      | none => finishWith q i code detail
          (addNote q i 4 (dropBatches q i (forEach killSlot (d.slotsOf q i) (countStopped q c
          { dropRetry c (dropGathers q i d) with fe := { d.fe with pollList := d.fe.pollList.filter (fun x => x ≠ q) } }))))

/-- DISABLE (R341): the queue stops starting commands. -/
def disableQueue (q : Nat) (d : Dev) : Dev :=
  let st := (d.queue q).state
  if st = .unused ∨ st = .stopped ∨ st = .draining then d
  else settle q (modQueue q (fun u => { u with enabled := false, state := .draining }) d)

/-- KILL (R341): as DISABLE, and the running commands stop, oldest first. -/
def killQueue (q : Nat) (d : Dev) : Dev :=
  let st := (d.queue q).state
  if st = .unused ∨ st = .stopped then d
  else
    let d := modQueue q (fun u => { u with enabled := false, state := .draining }) d
    settle q (forEach (fun i d => stopCmd 0x10 0 q i d) ((d.live q).map (·.index)) d)

/-! ## Starting (R311, R312, R314) -/

/-- The fabric time of the doorbell that covered the entries up to an index (R314). -/
def coverTime (r : QueueRun) (started : U32) (n : Nat) : U64 :=
  match r.doorbells.find? (fun b => decide (n ≤ (b.1 - started).toNat ∧ (b.1 - started).toNat ≤ 65536)) with
  | some b => b.2
  | none => r.doorbells.getLastD (0, 0) |>.2

/-- Doorbells that still cover unstarted entries. -/
def keepDoorbells (l : List (U32 × U64)) (started : U32) : List (U32 × U64) :=
  l.filter (fun b => decide ((b.1 - started).toNat ≠ 0 ∧ (b.1 - started).toNat ≤ 65536))

/-- The command made of the head's bytes. -/
def newCmd (d : Dev) (q : Nat) (bytes : List Byte) (n : Nat) : Cmd :=
  let u := d.queue q
  { index := u.started, entries := n, bytes := bytes, tDoorbell := coverTime (d.qrun q) u.started n,
    tStart := d.time.ft, flags := 0, raised := [], notes := 0, version := 0, poisonIn := 0, poisonOut := 0, count := 0,
    progress := 0, lastProgress := d.time.ft, excluded := 0, work := .plain, facts := [], preemptions := 0,
    replays := 0, committed := false, completed := false }

/-- Start the head: it joins the running commands, STARTED advances, and the journal takes its entries (R370). -/
def startHead (q : Nat) (bytes : List Byte) (n : Nat) (d : Dev) : Dev :=
  let c := newCmd d q bytes n
  let st := c.index + BitVec.ofNat 32 n
  let d := modQueue q (fun u => { u with started := st }) d
  let d := modRun q (fun r => { r with
      running := r.running ++ [c], need := 0,
      doorbells := keepDoorbells r.doorbells st,
      fetched := r.fetched.filter (fun e => !decide ((st - BitVec.ofNat 32 e.1).toNat ≤ n ∧ st ≠ BitVec.ofNat 32 e.1)) }) d
  let d := guarded ([3, 4, 5].contains (byteAt bytes 0).toNat) (journalPoint q c.index false 0) d
  journalAdd 0x02 q c.index 0 (crc32c bytes) bytes d

/-- Header faults (R317): reserved CFLAGS, RT outside a SCORE on a queue with RT_ALLOWED, DEADLINE without RT; and an
opcode that a queue bound to a task does not take (R333). The offset of the first faulty field. -/
def headerFault (u : Queue) (b : List Byte) : Option Nat :=
  let op := (byteAt b 0).toNat
  let cf := (byteAt b 1).toNat
  if u.persistent && [2, 3, 4, 5].contains op then some 0
  else if 4 ≤ cf then some 1
  else if bitOf cf 1 && !(decide (op = 2) && u.rtAllowed) then some 1
  else if !bitOf cf 1 && decide (field b 4 4 ≠ 0) then some 4
  else none

/-- Complete at once, as commands of one entry, heads that are not waited on (R312), at most n of them. -/
def badHeads (q : Nat) : Nat → Dev → Dev
  | 0, d => d
  | n + 1, d =>
    match d.head q with
    | none => d
    | some (b, _, _) =>
      match badFirst b with
      | none => d
      | some det =>
        if d.mayStart q b then
          let i := (d.queue q).started
          badHeads q n (badCommand q i det (startHead q b 1 d))
        else d

/-- Whether the report of a GROW entry has no place: REPORT_ADDR is misaligned or outside device memory (R181). -/
def reportBad (b : List Byte) : Bool := decide (field b 0x18 8 % 64 ≠ 0) || !inSoft (field b 0x18 8) 64

/-- A head that is refused before its kind acts: a GROW writes its report of SESSION and OP (R204), and the command completes with
0x22. -/
def refuseHead (q : Nat) (c : Cmd) (detail : Nat) (d : Dev) : Dev :=
  badCommand q c.index detail (if (byteAt c.bytes 0).toNat = 3 ∧ reportBad c.bytes = false then bareReport c d else d)

/-- Start the head of a queue when it is a command of this kind and may start, and give it to its meaning. A poisoned
entry, a header fault or an unagreed feature completes it with 0x22 (R317, R485; log entry 11). -/
def startKind (q : Nat) (kind : List Byte → Bool) (feature : Nat) (f : Cmd → Dev → Dev) (d : Dev) : Dev :=
  match d.head q with
  | none => d
  | some (b, n, pois) =>
    if badFirst b = none ∧ kind b = true ∧ d.mayStart q b then
      let c := newCmd d q b n
      let i := c.index
      let d := startHead q b n d
      let d :=
        if pois ≠ 0 then
          refuseHead q c 0xFFFFFFFF (modCmd q i (fun c => { c with poisonIn := BitVec.ofNat 32 pois }) d)
        else if !d.agreed feature then refuseHead q c 0 d
        else match headerFault (d.queue q) b with
          | some det => refuseHead q c det d
          | none => f c d
      lookAhead q (badHeads q 16 d)
    else d

/-- A command's kind by its opcode. -/
def isOpcode (n : Nat) (b : List Byte) : Bool := decide ((byteAt b 0).toNat = n)

/-- The first nonzero reserved byte among ranges (offset, length), as its range's offset (R4). -/
def reservedFault (b : List Byte) : List (Nat × Nat) → Option Nat
  | [] => none
  | (o, n) :: rs => if zeroAt b o n then reservedFault b rs else some o

end Sys2Proof.Machine
end

