-- ==== Sys2Proof/Machine/FabricOps.lean ====
section
/-! DEFINITION. Fabric operations that other units share: routes, links, sending flits, group trees and flit payloads (R410 to R428). -/

namespace Sys2Proof.Machine
open Sys2Proof

/-! ## Coordinates and routes (R411, R423, R425) -/

/-- Coordinate of a module ID in dimension 0 X, 1 Y or 2 Z. -/
def coordOf (id dim : Nat) : Nat := if dim = 0 then id % 16 else if dim = 1 then id / 16 % 16 else id / 256

/-- Module ID of coordinates. -/
def moduleAt (x y z : Nat) : Nat := x + 16 * y + 256 * z

/-- Size of a dimension. -/
def FabricCfg.size (c : FabricCfg) (dim : Nat) : Nat := if dim = 0 then c.sizeX else if dim = 1 then c.sizeY else c.sizeZ

/-- Whether a dimension wraps. -/
def FabricCfg.wraps (c : FabricCfg) (dim : Nat) : Bool := bitOf c.wrap.toNat dim

/-- Whether a module ID is in the configured fabric. -/
def FabricCfg.holds (c : FabricCfg) (id : Nat) : Bool :=
  decide (coordOf id 0 < c.sizeX ∧ coordOf id 1 < c.sizeY ∧ coordOf id 2 < c.sizeZ)

/-- The segments of a ring that are dead: segment k joins coordinate k to k + 1 (R425). -/
def FabricCfg.deadSegments (c : FabricCfg) (dim : Nat) : List Nat :=
  (c.breaks.filter (fun b => decide (b.1 = dim))).map
    (fun b => if b.2.2 then b.2.1 else (b.2.1 + c.size dim - 1) % c.size dim)

/-- Whether going + from s by n steps crosses a dead segment. -/
def crossesPlus (size s n : Nat) (dead : List Nat) : Bool := (List.range n).any (fun k => dead.contains ((s + k) % size))

/-- The direction from coordinate s to t ≠ s in a dimension, + as true (R423, R425); line: the dimension is routed as
a line. None when dead segments shut both ways. -/
def directionOf (c : FabricCfg) (dim : Nat) (line : Bool) (s t : Nat) : Option Bool :=
  let n := c.size dim
  let dead := c.deadSegments dim
  let d := (t + n - s) % n
  let plusOk := !crossesPlus n s d dead
  let minusOk := !crossesPlus n t (n - d) dead
  if c.wraps dim && !line then
    let want := decide (d ≤ n - d)
    if want then (if plusOk then some true else if minusOk then some false else none)
    else (if minusOk then some false else if plusOk then some true else none)
  else if s < t then (if plusOk then some true else none)
  else (if minusOk then some false else none)

/-- The next hop from one module to another: dimension and direction (R423). lines: the dimensions routed as lines. -/
def nextHop (c : FabricCfg) (lines : List Nat) (own dest : Nat) : Option (Nat × Bool) :=
  match [0, 1, 2].find? (fun dim => coordOf own dim ≠ coordOf dest dim) with
  | none => none
  | some dim => (directionOf c dim (lines.contains dim) (coordOf own dim) (coordOf dest dim)).map (fun p => (dim, p))

/-- The module one hop away. -/
def neighbour (c : FabricCfg) (own : Nat) (dim : Nat) (plus : Bool) : Nat :=
  let n := c.size dim
  let v := if plus then (coordOf own dim + 1) % n else (coordOf own dim + n - 1) % n
  moduleAt (if dim = 0 then v else coordOf own 0) (if dim = 1 then v else coordOf own 1)
    (if dim = 2 then v else coordOf own 2)

/-- Whether a hop passes between coordinates n − 1 and 0 (R423). -/
def passesEnd (c : FabricCfg) (own dim : Nat) (plus : Bool) : Bool :=
  if plus then decide (coordOf own dim = c.size dim - 1) else decide (coordOf own dim = 0)

/-- Face of a dimension and direction: X−, X+, Y−, Y+, Z−, Z+ (R410). -/
def faceOf (dim : Nat) (plus : Bool) : Nat := 2 * dim + b2n plus

/-- Whether this module can reach another (R425). -/
def Dev.reachable (d : Dev) (id : Nat) : Bool :=
  d.fabric.cfg.holds id && !d.fabric.cfg.unreachable.contains id

/-! ## Links (R420 to R424, R436) -/

/-- State code of R414. -/
def LState.code : LState → Nat
  | .disabled => 0 | .detect => 1 | .equalise => 2 | .laneMap => 3 | .lock => 4 | .identify => 5 | .active => 6
  | .retrain => 7 | .failed => 8 | .ethernet => 9

/-- The link status register (R436). -/
def LinkReg.status (r : LinkReg) : Nat :=
  r.state.code + 2 ^ 4 * r.lanes + 2 ^ 7 * b2n r.reversed + 2 ^ 8 * r.polarity.toNat + 2 ^ 12 * r.dropped.toNat +
    2 ^ 16 * b2n r.miswire + 2 ^ 24 * r.peerId.toNat + 2 ^ 38 * r.peerFace.toNat + 2 ^ 41 * r.peerLink.toNat

/-- A link event: its detail is the link status register (R439). -/
def linkEvent (code n : Nat) (d : Dev) : Dev := raiseEvent code (0x6900 + n) (leBytes 8 (d.link n).reg.status) d

/-- The live links of a face, in increasing number (R424); one that retrains stays live until it is lost (R422). -/
def Dev.liveLinks (d : Dev) (face : Nat) : List Nat := (rangeFrom (8 * face) 8).filter (fun n => (d.link n).run.live)

/-- The ACTIVE links of a face, live or joining. -/
def Dev.activeLinks (d : Dev) (face : Nat) : List Nat :=
  (rangeFrom (8 * face) 8).filter (fun n => decide ((d.link n).reg.state = .active))

/-- Flits of TYPE 0x9 to 0xD overtake others and may use a link that joins (R420, R424). -/
def flitUrgent (f : Flit) : Bool := decide (9 ≤ f.type.toNat ∧ f.type.toNat ≤ 0xD)

/-- Virtual channel of a flit (R420). -/
def flitVc (f : Flit) : Nat := 2 * b2n f.cls + b2n f.dateline

/-- Put a flit on a link with its SEQ; it is kept until acknowledged (R421). -/
def putFlit (n : Nat) (f : Flit) (d : Dev) : Dev :=
  let f := { f with seq := (d.link n).run.txSeq }
  let d := modLink n (fun l => { l with run := { l.run with
      txSeq := l.run.txSeq + 1, unacked := l.run.unacked ++ [f],
      credits := l.run.credits.set (flitVc f) (l.run.credits.getD (flitVc f) 0 - 1) } }) d
  bump (cLink n 0) 1 { d with out := { d.out with flits := d.out.flits ++ [(n, f)] } }

/-- Whether a link can take a flit now: it is ACTIVE, with a credit of its virtual channel and a place among the kept
flits. -/
def Dev.canSend (d : Dev) (n : Nat) (f : Flit) : Bool :=
  decide ((d.link n).reg.state = .active ∧ 0 < (d.link n).run.credits.getD (flitVc f) 0 ∧ (d.link n).run.unacked.length < 512)

/-- A flit that waits at an output: urgent ones ahead of the others (R420). -/
def waitFlit (n : Nat) (f : Flit) (d : Dev) : Dev :=
  bump (cLink n 7) 1 (modLink n (fun l => { l with run := { l.run with
      waiting := if flitUrgent f then l.run.waiting.filter flitUrgent ++ [f] ++ l.run.waiting.filter (fun x => !(flitUrgent x))
                 else l.run.waiting ++ [f] } }) d)

/-- Send a flit on a link, or let it wait for a credit. -/
def enqueueFlit (n : Nat) (f : Flit) (d : Dev) : Dev := if d.canSend n f then putFlit n f d else waitFlit n f d

/-- Send what waits at a link while credits last (fuel: the flits waiting). -/
def drainLink (n : Nat) : Nat → Dev → Dev
  | 0, d => d
  | k + 1, d =>
    match (d.link n).run.waiting.find? (fun f => d.canSend n f) with
    | none => d
    | some f =>
      let d := modLink n (fun l => { l with run := { l.run with waiting := l.run.waiting.erase f } }) d
      drainLink n k (putFlit n f d)

/-- Route a flit onward from this module: dimension order, link choice, DATELINE (R423, R424). from: the dimension it
arrived in, or none at its origin. An unreachable destination drops it (R425). -/
def routeFlit (cameIn : Option Nat) (f : Flit) (d : Dev) : Dev :=
  let c := d.fabric.cfg
  let own := c.moduleId.toNat
  match if d.reachable f.dest.toNat then nextHop c [] own f.dest.toNat else none with
  | none => bump (cOwl 6) 1 d
  | some (dim, plus) =>
    let face := faceOf dim plus
    let links := if flitUrgent f ∧ (d.liveLinks face).isEmpty = true then d.activeLinks face else d.liveLinks face
    if links.isEmpty then bump (cOwl 6) 1 d
    else
      let n := links.getD ((f.flowKey.toNat + f.origin.toNat + f.dest.toNat) % links.length) 0
      let keep := f.dateline && decide (cameIn = some dim)
      enqueueFlit n { f with dateline := keep || passesEnd c own dim plus } d

/-- A flit of this module: its stamp and origin (R418). -/
def makeFlit (d : Dev) (dest type : Nat) (cls : Bool) (poison target : Nat) (payload : List Byte) (key : Nat) : Flit :=
  { stamp := d.time.ft.setWidth 32, dest := BitVec.ofNat 14 dest, type := BitVec.ofNat 4 type, seq := 0,
    dateline := false, cls := cls, poison := BitVec.ofNat 15 poison, len := BitVec.ofNat 8 payload.length,
    target := BitVec.ofNat 41 target, payload := payload, origin := d.fabric.cfg.moduleId,
    flowKey := BitVec.ofNat 32 key, fec := 0 }

/-- Send a flit from this module. -/
def sendFlit (dest type : Nat) (cls : Bool) (poison target : Nat) (payload : List Byte) (key : Nat) (d : Dev) : Dev :=
  routeFlit none (makeFlit d dest type cls poison target payload key) d

/-! ## Payloads (R419; their byte places are a choice of the model, log entry 13) -/

/-- STREAM_OPEN: sending global stream, generation, transfer number, byte count. -/
def openPayload (sender gen transfer bytes : Nat) : List Byte := pack [(4, sender), (2, gen), (4, transfer), (4, bytes)] []

/-- TARGET of STREAM_DATA and STREAM_OPEN: local stream, low 12 bits of the generation, offset in units of 16 bytes. -/
def streamTarget (stream gen offset16 : Nat) : Nat := stream % 2 ^ 14 + 2 ^ 14 * (gen % 2 ^ 12) + 2 ^ 26 * offset16

/-- FABRIC_READ: requester, local stream, generation and block requests (address, length, half offset). -/
def readPayload (requester stream gen : Nat) (blocks : List (Nat × Nat × Nat)) : List Byte :=
  pack [(2, requester), (2, stream), (2, gen), (2, blocks.length)] [] ++
    (blocks.map (fun b => leBytes 8 b.1 ++ leBytes 4 b.2.1 ++ leBytes 4 b.2.2)).flatten

/-- BARRIER: group, kind (0 ARRIVE, 1 RELEASE), SEQ. -/
def barrierPayload (group kind seq : Nat) : List Byte := pack [(4, group), (1, kind), (8, seq)] []

/-! ## Groups (R427) -/

/-- The members of a box by increasing module ID. -/
def Box.members (b : Box) : List Nat :=
  ((rangeFrom b.loZ (b.hiZ + 1 - b.loZ)).map (fun z =>
    ((rangeFrom b.loY (b.hiY + 1 - b.loY)).map (fun y =>
      (rangeFrom b.loX (b.hiX + 1 - b.loX)).map (fun x => moduleAt x y z))).flatten)).flatten

/-- The dimensions that a box does not span in full, which are routed as lines. -/
def Box.lines (b : Box) (c : FabricCfg) : List Nat :=
  [0, 1, 2].filter (fun dim =>
    let (lo, hi) := if dim = 0 then (b.loX, b.hiX) else if dim = 1 then (b.loY, b.hiY) else (b.loZ, b.hiZ)
    !decide (lo = 0 ∧ hi + 1 = c.size dim))

/-- The parent of a member: the next hop on its route to the root, rank 0; none at the root. -/
def Box.parent (b : Box) (c : FabricCfg) (id : Nat) : Option Nat :=
  match nextHop c (b.lines c) id (moduleAt b.loX b.loY b.loZ) with
  | none => none
  | some (dim, plus) => some (neighbour c id dim plus)

/-- The children of a member. -/
def Box.children (b : Box) (c : FabricCfg) (id : Nat) : List Nat :=
  b.members.filter (fun m => decide (b.parent c m = some id))

end Sys2Proof.Machine
end

