-- ==== Sys2Proof/Machine/Collect.lean ====
section
/-! DEFINITION. Group barriers and collectives (R330, R427 to R431). -/

namespace Sys2Proof.Machine
open Sys2Proof

/-! ## Membership (R427) -/

/-- The box of a collective group that holds this module. -/
def Dev.memberBox (d : Dev) (g : Nat) : Option Box :=
  (d.group g).box.filter (fun b => b.members.contains d.fabric.cfg.moduleId.toNat)

/-- This module's parent in a group's tree; none at the root. -/
def Dev.groupParent (d : Dev) (b : Box) : Option Nat := b.parent d.fabric.cfg d.fabric.cfg.moduleId.toNat

/-- This module's children in a group's tree. -/
def Dev.groupChildren (d : Dev) (b : Box) : List Nat := b.children d.fabric.cfg d.fabric.cfg.moduleId.toNat

/-! ## Barriers (R428) -/

/-- Send a BARRIER flit: kind 0 ARRIVE, 1 RELEASE. -/
def sendBarrier (g kind : Nat) (seq : U64) (m : Nat) (d : Dev) : Dev :=
  sendFlit m 9 true 0 0 (barrierPayload g kind seq.toNat) g d

/-- Change a group's barrier. -/
def modBarrier (g : Nat) (f : GroupBarrier → GroupBarrier) (d : Dev) : Dev :=
  modGroup g (fun x => { x with barrier := f x.barrier }) d

/-- Whether barrier SEQ of a group has been released here. -/
def Dev.released (d : Dev) (g : Nat) (seq : U64) : Bool := (d.group g).barrier.begun && decide (seq.toNat < (d.group g).barrier.seq.toNat)

/-- The BARRIER commands that wait for SEQ of a group complete (R330). -/
def completeBarriers (g : Nat) (seq : U64) (d : Dev) : Dev :=
  forEach (fun q d => forEach (fun (c : Cmd) d =>
      if c.work = .barrier g seq then finishCmd q c.index d else d) (d.live q) d)
    (d.fe.queues.map (·.1)) d

/-- RELEASE of the current SEQ at this member: it goes down the tree, the counts move on and what waited completes. -/
def releaseBarrier (g : Nat) (b : Box) (d : Dev) : Dev :=
  let seq := (d.group g).barrier.seq
  let d := forEach (sendBarrier g 1 seq) (d.groupChildren b) d
  let d := modBarrier g (fun x =>
    { begun := true, seq := x.seq + 1, now := x.next, next := [], ownNow := x.ownNext, ownNext := false, sentUp := false }) d
  completeBarriers g seq d

/-- With its own arrival and those of all its children a member sends ARRIVE to its parent, and the root releases
(fuel: SEQ and SEQ + 1). -/
def advanceBarrier (g : Nat) : Nat → Dev → Dev
  | 0, d => d
  | n + 1, d =>
    match d.memberBox g with
    | none => d
    | some b =>
      let x := (d.group g).barrier
      if x.ownNow ∧ (d.groupChildren b).all (fun m => x.now.contains m) = true then
        match d.groupParent b with
        | none => advanceBarrier g n (releaseBarrier g b d)
        | some p =>
          if x.sentUp then d
          else sendBarrier g 0 x.seq p (modBarrier g (fun x => { x with sentUp := true }) d)
      else d

/-- Whether a group has this module as its only member (R427). -/
def Dev.groupAlone (d : Dev) (g : Nat) : Bool :=
  match d.memberBox g with
  | none => false
  | some b => decide (b.members.length = 1)

/-- The first arrival of a group, and any later SEQ of a group of one member, whose barriers complete on its own arrival
(R427), set the current SEQ (log entry 16). -/
def beginSeq (g : Nat) (seq : U64) (d : Dev) : Dev :=
  let x := (d.group g).barrier
  if x.begun = false ∨ (d.groupAlone g = true ∧ x.seq.toNat < seq.toNat) then
    modBarrier g (fun x => { x with begun := true, seq := seq }) d
  else d

/-- This member's own arrival for SEQ (R428). -/
def ownArrival (g : Nat) (seq : U64) (d : Dev) : Dev :=
  let d := beginSeq g seq d
  let x := (d.group g).barrier
  if seq = x.seq then advanceBarrier g 2 (modBarrier g (fun x => { x with ownNow := true }) d)
  else if seq = x.seq + 1 then modBarrier g (fun x => { x with ownNext := true }) d
  else d

/-- The first SEQ for which this member has not arrived. -/
def Dev.freeSeq (d : Dev) (g : Nat) : U64 :=
  let x := (d.group g).barrier
  if x.ownNow then x.seq + 1 else x.seq

/-- A child's ARRIVE (R428): older ignored, later than SEQ + 1 counted in BAD_FLIT. One that comes twice counts once
(R422). -/
def childArrives (n g child : Nat) (seq : U64) (d : Dev) : Dev :=
  let d := beginSeq g seq d
  let x := (d.group g).barrier
  if seq = x.seq then
    advanceBarrier g 2 (modBarrier g (fun x => { x with now := if x.now.contains child then x.now else x.now ++ [child] }) d)
  else if seq = x.seq + 1 then
    modBarrier g (fun x => { x with next := if x.next.contains child then x.next else x.next ++ [child] }) d
  else if seq.toNat < x.seq.toNat then d
  else bump (cLink n 8) 1 d

/-- RELEASE from the parent (R428). -/
def parentReleases (n g : Nat) (seq : U64) (d : Dev) : Dev :=
  let x := (d.group g).barrier
  if seq = x.seq then
    match d.memberBox g with
    | none => bump (cLink n 8) 1 d
    | some b => advanceBarrier g 2 (releaseBarrier g b d)
  else if seq.toNat < x.seq.toNat then d
  else bump (cLink n 8) 1 d

/-- Faults of a BARRIER of FABRIC scope (R330). -/
def fabricBarrierFault (d : Dev) (b : List Byte) : Option Nat :=
  if field b 0x11 3 ≠ 0 then some 0x11
  else if !d.agreed 16 then some 0x10
  else if 4095 ≤ field b 0x14 4 ∨ (d.memberBox (field b 0x14 4)).isNone = true then some 0x14
  else reservedFault b [(0x20, 32)]

/-- BARRIER of FABRIC scope (R330): it arrives for SEQ and completes when SEQ is released. -/
def barrierFabricCmd (q : Nat) (c : Cmd) (d : Dev) : Dev :=
  match fabricBarrierFault d c.bytes with
  | some o => badCommand q c.index o d
  | none =>
    let g := field c.bytes 0x14 4
    let seq := BitVec.ofNat 64 (field c.bytes 0x18 8)
    if d.released g seq then finishCmd q c.index d
    else ownArrival g seq (modCmd q c.index (fun c => { c with work := .barrier g seq }) d)

/-- The BARRIERs of a queue that wait for their SEQ to come into the two that a member counts. -/
def lateBarriers (q : Nat) (d : Dev) : Dev :=
  forEach (fun (c : Cmd) d => match c.work with
    | .barrier g seq => ownArrival g seq d
    | _ => d) (d.live q) d

/-- BARRIER with SCOPE FABRIC. -/
def execBarrierFabric (q : QueueId) (s : State) : Host.Outcome State Fault Refusal :=
  lift (fun d => startKind q.toNat (fun b => isOpcode 8 b && decide (field b 0x10 1 = 1)) 0 (barrierFabricCmd q.toNat)
    (lateBarriers q.toNat d)) s

/-! ## Collectives (R429, R430) -/

/-- A collective descriptor's fields. -/
structure CollDesc where
  group    : Nat
  op       : Nat
  width    : Nat
  base     : Int
  elements : Nat
  values   : Nat
  tags     : Nat
  seq      : U64
  root     : Nat
deriving DecidableEq, Repr

/-- Read a collective descriptor (R429). -/
def parseColl (b : List Byte) : CollDesc :=
  { group := field b 0 4, op := field b 4 1, width := field b 5 1, base := toSigned 16 (field b 6 2),
    elements := field b 8 8, values := field b 0x10 8, tags := field b 0x18 8, seq := BitVec.ofNat 64 (field b 0x20 8),
    root := field b 0x28 2 }

/-- Bytes of an element of the value plane. -/
def CollDesc.size (x : CollDesc) : Nat := if x.width = 2 then 1 else if x.width = 1 then 16 else 8

/-- CRC-32C over the fields from 0x00 to 0x29 (R429). -/
def collCrc (b : List Byte) : U32 := crc32c (b.take 0x2A)

/-- Whether a descriptor is faulty at this module (R429): b holds its 64 bytes. -/
def collFault (d : Dev) (b : List Byte) : Bool :=
  let x := parseColl b
  let box := d.memberBox x.group
  decide (4095 ≤ x.group ∨ 4 ≤ x.op ∨ 3 ≤ x.width ∨ (x.width = 2 ∧ x.op < 2) ∨ (x.width = 2 ∧ x.base ≠ 0)) || box.isNone ||
    (decide (x.width = 1) && !d.agreed 2) || decide (x.elements = 0 ∨ 2 ^ 32 < x.elements ∨ x.values % 256 ≠ 0) ||
    (if x.width = 2 then decide (x.tags ≠ 0) else decide (x.tags % 256 ≠ 0) || !inSoft x.tags x.elements) ||
    !inSoft x.values (x.elements * x.size) || decide (x.seq ≠ (d.group x.group).seq + 1) ||
    (match box with
      | some bx => if x.op = 3 then decide (bx.members.length ≤ x.root) else decide (x.root ≠ 0)
      | none => true) || !zeroAt b 0x2A 22 || !d.agreed 16

/-- Element i of the planes in memory, with its poison mark. -/
def readPlane (x : CollDesc) (i : Nat) (d : Dev) : Xs × Bool :=
  let n := x.size
  let raw := leNat (d.bytesAt (x.values + n * i) n)
  let pv := decide (0 < d.poisonedIn (x.values + n * i) n)
  if x.width = 2 then ({ reg := BitVec.ofNat 128 raw, tag := 0 }, pv)
  else
    ({ reg := xsReg (decide (x.width = 1)) (toSigned (8 * n) raw), tag := look 0 d.mem.cells (x.tags + i) },
      pv || look false d.mem.poison ((x.tags + i) / 64))

/-- Write element i of the planes. -/
def writePlane (x : CollDesc) (i : Nat) (v : Xs) (p : Bool) (d : Dev) : Dev :=
  let n := x.size
  let d := memWrite 4 (x.values + n * i) (leBytes n v.reg.toNat) p d
  if x.width = 2 then d else memWrite 4 (x.tags + i) [v.tag] p d

/-- Elements of a line, which is 128 bytes of the value plane (a choice of the model, log entry 13). -/
def CollDesc.perLine (x : CollDesc) : Nat := 128 / x.size
/-- Lines of the planes. -/
def CollDesc.lines (x : CollDesc) : Nat := ceilDiv x.elements x.perLine

/-- Elements ⌊rE / M⌋ to ⌊(r + 1)E / M⌋ − 1 of rank r (R430): the first and how many. -/
def shareOf (e m r : Nat) : Nat × Nat := (r * e / m, (r + 1) * e / m - r * e / m)

/-- First element and count that the member of rank r contributes. -/
def CollDesc.sends (x : CollDesc) (m r : Nat) : Nat × Nat :=
  if x.op = 2 then shareOf x.elements m r
  else if x.op = 3 then (if r = x.root then (0, x.elements) else (0, 0))
  else (0, x.elements)

/-- First element and count that the member of rank r is left with. -/
def CollDesc.keeps (x : CollDesc) (m r : Nat) : Nat × Nat := if x.op = 1 then shareOf x.elements m r else (0, x.elements)

/-- Elements of a line that lie in one of some ranges. -/
def CollDesc.inLine (x : CollDesc) (rs : List (Nat × Nat)) (l : Nat) : List Nat :=
  (rangeFrom (l * x.perLine) x.perLine).filter (fun i => rs.any (fun r => decide (r.1 ≤ i ∧ i < r.1 + r.2)))

/-- Lines that hold some ranges of elements. -/
def CollDesc.linesOf (x : CollDesc) (rs : List (Nat × Nat)) : List Nat :=
  ((rs.map (fun r => if r.2 = 0 then [] else
    rangeFrom (r.1 / x.perLine) ((r.1 + r.2 - 1) / x.perLine + 1 - r.1 / x.perLine))).flatten).eraseDups

/-- Bytes of elements in a COLLECTIVE flit: values, then tags. -/
def planeBytes (x : CollDesc) (es : List (Xs × Bool)) : List Byte :=
  (es.map (fun e => leBytes x.size e.1.reg.toNat)).flatten ++ (if x.width = 2 then [] else es.map (fun e => e.1.tag))

/-- The elements that a COLLECTIVE flit's bytes carry, each with the poison of its value's bytes. -/
def planeElems (x : CollDesc) (n poison : Nat) (b : List Byte) : List (Xs × Bool) :=
  (List.range n).map (fun i =>
    (if x.width = 2 then { reg := BitVec.ofNat 128 (field b i 1), tag := 0 }
      else { reg := xsReg (decide (x.width = 1)) (toSigned (8 * x.size) (field b (x.size * i) x.size)),
             tag := byteAt b (n * x.size + i) },
     bitOf poison (x.size * i / 16)))

/-! ## Rings (R431; the steps of a ring and the trailer of a flit: log entry 58) -/

/-- Lowest coordinate of a box in a dimension. -/
def Box.lo (b : Box) (dim : Nat) : Nat := if dim = 0 then b.loX else if dim = 1 then b.loY else b.loZ
/-- Members of a box along a dimension. -/
def Box.span (b : Box) (dim : Nat) : Nat := (if dim = 0 then b.hiX else if dim = 1 then b.hiY else b.hiZ) + 1 - b.lo dim

/-- The phases of a collective: whether one gathers, and its dimension (R431). A phase of size 1 costs nothing. -/
def CollDesc.phases (x : CollDesc) (b : Box) : List (Bool × Nat) :=
  let dims := [0, 1, 2].filter (fun k => 1 < b.span k)
  let scatter := dims.map (fun k => (false, k))
  let gather := dims.reverse.map (fun k => (true, k))
  if x.op = 0 then scatter ++ gather else if x.op = 1 then scatter else if x.op = 2 then gather else []

/-- The member of a box at ring position j of a dimension through another member. -/
def Box.ringMember (b : Box) (own dim j : Nat) : Nat :=
  let at_ (k : Nat) : Nat := if k = dim then b.lo dim + j else coordOf own k
  moduleAt (at_ 0) (at_ 1) (at_ 2)

/-- Part j of a phase: the shares of the members that agree with this one in the dimensions before, and lie at ring position j. -/
def CollDesc.part (x : CollDesc) (b : Box) (own dim j : Nat) : List (Nat × Nat) :=
  let ms := b.members
  ((ms.zip (List.range ms.length)).filter (fun m =>
    (List.range dim).all (fun k => decide (coordOf m.1 k = coordOf own k)) && decide (coordOf m.1 dim = b.lo dim + j))).map
      (fun m => shareOf x.elements ms.length m.2)

/-- What a member does in one step: whom it hears and sends to, which elements go and come, and whether they are copied. -/
structure RingStep where
  pred   : Nat
  succs  : List Nat
  goes   : List (Nat × Nat)
  comes  : List (Nat × Nat)
  copies : Bool
  /-- Steps of the phase. -/
  steps  : Nat
deriving DecidableEq, Repr

/-- The step that a collective is in; none once it has ended. A BROADCAST has one, from ROOT to every other member. -/
def CollDesc.ringStep (x : CollDesc) (b : Box) (own : Nat) (c : Collective) : Option RingStep :=
  let root := b.members.getD x.root 0
  if x.op = 3 then
    if c.phase ≠ 0 ∨ b.members.length = 1 then none
    else if own = root then
      some { pred := own, succs := b.members.filter (fun m => m ≠ own), goes := [(0, x.elements)], comes := [], copies := true, steps := 1 }
    else some { pred := root, succs := [], goes := [], comes := [(0, x.elements)], copies := true, steps := 1 }
  else match (x.phases b)[c.phase]? with
    | none => none
    | some (gather, dim) =>
      let n := b.span dim
      let p := coordOf own dim - b.lo dim
      let lag := c.step + b2n (!gather)
      some { pred := b.ringMember own dim ((p + n - 1) % n), succs := [b.ringMember own dim ((p + 1) % n)],
             goes := x.part b own dim ((p + n - lag) % n), comes := x.part b own dim ((p + n + n - 1 - lag) % n),
             copies := gather, steps := n - 1 }

/-- The trailer of a COLLECTIVE flit: the descriptor's CRC, the low bits of SEQ, the phase, the step and a kind (bit 0: the CRC
is there; bit 1: the collective stops; bit 2: a part of a GROW exchange). -/
def collTrailer (crc : U32) (seq : U64) (phase step kind : Nat) : List Byte :=
  leBytes 4 crc.toNat ++ leBytes 2 seq.toNat ++ leBytes 1 phase ++ leBytes 1 step ++ leBytes 1 kind

/-- Byte o of a flit's trailer and n − 1 after it. -/
def trailField (f : Flit) (o n : Nat) : Nat := field (f.payload.drop (f.payload.length - 9)) o n

/-- Send one line of the current step to a member; the first flit to each carries the CRC (R429). -/
def sendLine (x : CollDesc) (c : Collective) (s : RingStep) (first : Bool) (m l : Nat) (d : Dev) : Dev :=
  let es := (x.inLine s.goes l).map (fun i => (look Xs.zero c.values i, look false c.poison i))
  let marks := (es.map (fun e => List.replicate x.size ((0 : Byte), e.2))).flatten
  sendFlit m 8 false (poisonMask 15 marks) (x.group + 2 ^ 12 * l)
    (planeBytes x es ++ collTrailer (if first then c.crc else 0) x.seq c.phase c.step (b2n first)) x.group d

/-- Send what goes in the current step. -/
def sendStep (x : CollDesc) (s : RingStep) (d : Dev) : Dev :=
  match (d.group x.group).running with
  | none => d
  | some c =>
    let ls := x.linesOf s.goes
    let d := forEach (fun m d => forEach (fun l d => sendLine x c s (!c.told.contains m && decide (some l = ls.head?)) m l d) ls d) s.succs d
    let told := if ls.isEmpty then c.told else c.told ++ s.succs.filter (fun m => !c.told.contains m)
    modGroup x.group (fun u => { u with running := u.running.map (fun k => { k with told := told }) }) d

/-- Add an element to what a collective holds (R430): a sum, or a copy. -/
def gatherElem (x : CollDesc) (copies : Bool) (i : Nat) (v : Xs × Bool) (c : Collective) : Collective :=
  { c with
    values := upd Xs.zero c.values i (fun o => if copies then v.1 else xsAdd (decide (x.width = 1)) o v.1),
    poison := upd false c.poison i (fun o => if copies then v.2 else o || v.2) }

/-- Add a row of elements. -/
def gatherElems (x : CollDesc) (copies : Bool) : List (Nat × Xs × Bool) → Collective → Collective
  | [], c => c
  | (i, v) :: es, c => gatherElems x copies es (gatherElem x copies i v c)

/-- Take a flit's line into a collective. -/
def takeLine (x : CollDesc) (s : RingStep) (f : Flit) (c : Collective) : Collective :=
  let l := f.target.toNat / 2 ^ 12
  let is_ := x.inLine s.comes l
  let es := is_.zip (planeElems x is_.length f.poison.toNat f.payload)
  { gatherElems x s.copies es c with lines := c.lines ++ [l], inbox := c.inbox.erase f }

/-- Whether a flit belongs to the step that a collective is in. -/
def Collective.takes (c : Collective) (s : RingStep) (f : Flit) : Bool :=
  decide (f.origin.toNat = s.pred ∧ trailField f 6 1 = c.phase ∧ trailField f 7 1 = c.step)

/-- Whether every line of the current step has come. -/
def Collective.stepDone (c : Collective) (x : CollDesc) (s : RingStep) : Bool := (x.linesOf s.comes).all c.lines.contains

/-- The next step, or the next phase. -/
def Collective.next (c : Collective) (s : RingStep) : Collective :=
  if c.step + 1 < s.steps then { c with step := c.step + 1, lines := [] } else { c with phase := c.phase + 1, step := 0, lines := [] }

/-- A collective that has ended leaves its result in the planes (R430). -/
def settleCollective (g : Nat) (c : Collective) (b : Box) (d : Dev) : Dev :=
  let x := parseColl c.descriptor
  let rank := b.members.findIdx (fun y => y = d.fabric.cfg.moduleId.toNat)
  let keep := if x.op = 3 ∧ rank = x.root then (0, 0) else x.keeps b.members.length rank
  let d := forEach (fun i d => writePlane x i (look Xs.zero c.values i) (look false c.poison i) d) (rangeFrom keep.1 keep.2) d
  let d := modGroup g (fun u => { u with running := none }) d
  match c.owner with
  | some (q, i) => progress q i d
  | none => d

/-- Run a group's collective as far as the lines that have come allow (fuel: flits and steps). -/
def runCollective (g : Nat) : Nat → Dev → Dev
  | 0, d => d
  | n + 1, d =>
    match (d.group g).running, d.memberBox g with
    | some c, some b =>
      let x := parseColl c.descriptor
      let set (c : Collective) (d : Dev) : Dev := modGroup g (fun u => { u with running := some c }) d
      if c.failed then d
      else match x.ringStep b d.fabric.cfg.moduleId.toNat c with
        | none => settleCollective g c b d
        | some s => match c.inbox.find? (c.takes s) with
          | some f => runCollective g n (set (takeLine x s f c) d)
          | none =>
            if c.stepDone x s then
              let c := c.next s
              let d := set c d
              let d := match x.ringStep b d.fabric.cfg.moduleId.toNat c with
                | some s => sendStep x s d
                | none => d
              runCollective g n d
            else d
    | _, _ => d

/-- Enough fuel for a collective: its waiting flits, and the steps of six phases of at most 40 members. -/
def Collective.fuel (c : Collective) : Nat := c.inbox.length + 242

/-- A mismatch stops the collective on every member, and the command that started it completes with 0x22 (R429). tell: this
member found it, and tells the others. -/
def failCollective (g : Nat) (tell : Bool) (d : Dev) : Dev :=
  match (d.group g).running with
  | none => d
  | some c =>
    if c.failed then d
    else
      let x := parseColl c.descriptor
      let others := (((d.memberBox g).map Box.members).getD []).filter (fun m => m ≠ d.fabric.cfg.moduleId.toNat)
      let d := modGroup g (fun u => { u with running := some { c with failed := true } }) d
      let d := if tell then forEach (fun m d => sendFlit m 8 false 0 g (collTrailer 0 x.seq 0 0 2) g d) others d else d
      match c.owner with
      | some (q, i) => stopCmd 0x22 0xFFFFFFFF q i d
      | none => d

/-- A COLLECTIVE flit: of the running collective, or kept for the next one. What a GROW exchange sends comes to it as its
operands (log entry 110). -/
def collectiveFlit (f : Flit) (d : Dev) : Dev :=
  let g := bits f.target.toNat 11 0
  let kind := trailField f 8 1
  if bitOf kind 2 then d
  else match (d.group g).running with
    | some c =>
      if trailField f 4 2 ≠ (parseColl c.descriptor).seq.toNat % 65536 then modGroup g (fun u => { u with early := u.early ++ [f] }) d
      else if bitOf kind 1 then failCollective g false d
      else if bitOf kind 0 && decide (trailField f 0 4 ≠ c.crc.toNat) then failCollective g true d
      else
        let c := { c with inbox := c.inbox ++ [f] }
        runCollective g c.fuel (modGroup g (fun u => { u with running := some c }) d)
    | none => modGroup g (fun u => { u with early := u.early ++ [f] }) d

/-- Start a collective: this member's contribution counts, its first step is sent, and what came early is taken. -/
def startCollective (b : List Byte) (owner : Option (Nat × U32)) (d : Dev) : Dev :=
  let x := parseColl b
  match d.memberBox x.group with
  | none => d
  | some bx =>
    let own := d.fabric.cfg.moduleId.toNat
    let r := x.sends bx.members.length (bx.members.findIdx (fun y => y = own))
    let c := gatherElems x true ((rangeFrom r.1 r.2).map (fun i => (i, readPlane x i d)))
      { descriptor := b, crc := collCrc b, owner := owner, values := [], poison := [], phase := 0, step := 0, lines := [], inbox := [],
        told := [], failed := false }
    let (mine, later) := (d.group x.group).early.partition (fun f => trailField f 4 2 = x.seq.toNat % 65536)
    let d := modGroup x.group (fun u => { u with seq := x.seq, running := some c, early := later }) d
    let d := match x.ringStep bx own c with
      | some s => sendStep x s d
      | none => d
    runCollective x.group c.fuel (forEach collectiveFlit mine d)

end Sys2Proof.Machine
end

