-- ==== Sys2Proof/Machine/Badger.lean ====
section
/-! DEFINITION. Badger engines: keys, rows, requests, staging, the undo log and heat (R207 to R223, R232, R550). -/

namespace Sys2Proof.Machine
open Sys2Proof

/-! ## Row slots (R205, R207, R208, R212) -/

/-- XS staging. -/
def TableDesc.xs (x : TableDesc) : Bool := decide (x.stage ≠ 0)
/-- XS128 staging. -/
def TableDesc.wide (x : TableDesc) : Bool := decide (x.stage = 2)
/-- Window base of XS staging (R205). -/
def TableDesc.base (x : TableDesc) : Int :=
  if x.stageBase = 0x8000 then (if x.wide then -80 else -40) else x.stageBase.toInt
/-- Payload format. -/
def TableDesc.payload (x : TableDesc) : Fmt := if x.fmt = 1 then .lf16 else .lf8p
/-- LF32 state words E of a row (R207). -/
def TableDesc.words (x : TableDesc) : Nat :=
  match x.opt.toNat with
  | 2 => x.width.toNat
  | 3 => 1
  | 4 => x.width.toNat
  | _ => 0
/-- Bytes of a payload. -/
def TableDesc.payBytes (x : TableDesc) : Nat := x.payload.size * x.width.toNat
/-- Slot size (R207). -/
def TableDesc.slot (x : TableDesc) : Nat := alignUp (16 + x.payBytes + 4 * x.words) 64
/-- Slots in a page (R207). -/
def TableDesc.rpp (x : TableDesc) : Nat := 4096 / x.slot
/-- STATE_DESC that a descriptor implies (R208). -/
def TableDesc.stateDesc (x : TableDesc) : Nat := x.opt.toNat + 16 * x.words + 2 ^ 16 * x.fmt.toNat
/-- Staging rounding (R205). -/
def TableDesc.stageRnd (x : TableDesc) : Rnd := if bits x.rounding.toNat 3 2 = 0 then .nearestEven else .towardZero
/-- Payload rounding. -/
def TableDesc.payRnd (x : TableDesc) : Rnd := (Rnd.ofCode (bits x.rounding.toNat 1 0)).getD .nearestEven

/-- The members of a table's group by rank; this module alone for a local table. -/
def Dev.ranks (d : Dev) (x : TableDesc) : List Nat :=
  match (d.group x.collective.toNat).box with
  | some b => if x.shard = 0 then [d.fabric.cfg.moduleId.toNat] else b.members
  | none => [d.fabric.cfg.moduleId.toNat]

/-- This module's rank. -/
def Dev.rankOf (d : Dev) (l : List Nat) : Nat := l.findIdx (fun m => m = d.fabric.cfg.moduleId.toNat)

/-- Rows that this module holds (R211). -/
def Dev.localRows (d : Dev) (x : TableDesc) : Nat :=
  if x.shard = 1 then
    let l := d.ranks x
    (x.rows.toNat + l.length - 1 - d.rankOf l) / l.length
  else x.rows.toNat

/-- Home channel of local page q of table t (R212). -/
def homeChannel (t q : Nat) : Nat := (q + 37 * t) % 256

/-- The page that holds local row r of a table. -/
def Dev.pageOf (d : Dev) (t : Nat) (x : TableDesc) (r : Nat) : Option Page := look none (d.table t).pages (r / x.rpp)

/-- Device address of local row r. -/
def Dev.rowAddr (d : Dev) (t : Nat) (x : TableDesc) (r : Nat) : Nat :=
  match d.pageOf t x r with
  | some p => frameAddr p.channel.toNat p.frame.toNat (r % x.rpp * x.slot)
  | none => 0

/-- Channel that serves local row r. -/
def Dev.rowChannel (d : Dev) (t : Nat) (x : TableDesc) (r : Nat) : Nat :=
  match d.pageOf t x r with
  | some p => p.channel.toNat
  | none => homeChannel t (r / x.rpp)

/-! ## Directories, staging areas and undo logs in memory (R212, R218, R222; the order in which they lie: log entry 53) -/

/-- Local pages of a table. -/
def Dev.localPages (d : Dev) (x : TableDesc) : Nat := ceilDiv (d.localRows x) x.rpp

/-- Pages of n that have channel k as their home. -/
def homePages (t n k : Nat) : Nat := let q0 := (k + 256 * 256 - 37 * t) % 256; if n ≤ q0 then 0 else (n - q0 - 1) / 256 + 1

/-- Bytes of a staged element (R218). -/
def TableDesc.elemBytes (x : TableDesc) : Nat := if x.wide then 16 else if x.xs then 8 else 4
/-- Bytes of a staging slot (R218). -/
def TableDesc.slotBytes (x : TableDesc) : Nat := 64 + x.elemBytes * x.width.toNat
/-- Frames of the directory of channel k for n pages. -/
def dirFrames (t n k : Nat) : Nat := ceilDiv (8 * homePages t n k) 4096
/-- Frames of a channel's staging area. -/
def TableDesc.stageFrames (x : TableDesc) : Nat := if x.opt = 0 then 0 else ceilDiv (x.slots.toNat * x.slotBytes) 4096
/-- Frames of a channel's undo log. -/
def TableDesc.undoFrames (x : TableDesc) : Nat := if x.opt = 0 then 0 else ceilDiv x.undoBytes.toNat 4096
/-- Frames of channel k that a table of n local pages takes beside its pages. -/
def areaFrames (t : Nat) (x : TableDesc) (n k : Nat) : Nat := dirFrames t n k + x.stageFrames + x.undoFrames

/-- Frame i of runs of frames. -/
def runFrame : List (Nat × Nat) → Nat → Option Nat
  | [], _ => none
  | r :: rs, i => if i < r.2 then some (r.1 + i) else runFrame rs (i - r.2)

/-- Device address of byte o of a table's area in channel k; none where the area has no such frame. -/
def Dev.areaAddr (d : Dev) (t k o : Nat) : Option Nat :=
  (runFrame (look [] (d.table t).areas k) (o / 4096)).map (fun f => frameAddr k f (o % 4096))

/-- Offset of a channel's staging slot in its area. -/
def Dev.slotAt (d : Dev) (t : Nat) (x : TableDesc) (k slot : Nat) : Nat :=
  4096 * dirFrames t (d.localPages x) k + slot * x.slotBytes

/-- Bytes cut at the ends of frames, each part with its offset (fuel: the bytes). -/
def areaParts : Nat → Nat → List Byte → List (Nat × List Byte)
  | 0, _, _ => []
  | n + 1, o, b => if b.isEmpty then [] else let m := 4096 - o % 4096; (o, b.take m) :: areaParts n (o + m) (b.drop m)

/-- Store bytes in a channel's area of a table; keep: granules that are poisoned stay so. -/
def storeArea (keep : Bool) (t k o : Nat) (bytes : List Byte) (d : Dev) : Dev :=
  forEach (fun (p : Nat × List Byte) d => match d.areaAddr t k p.1 with
    | none => d
    | some a => memLand 1 a (p.2.zip ((rangeFrom a p.2.length).map (fun y => keep && look false d.mem.poison (y / 64)))) d)
    (areaParts bytes.length o bytes) d

/-- Poisoned granules among n bytes of a channel's area. -/
def Dev.areaPoison (d : Dev) (t k o n : Nat) : Bool :=
  (areaParts n o (zeros n)).any (fun p => match d.areaAddr t k p.1 with
    | none => false
    | some a => decide (0 < d.poisonedIn a p.2.length))

/-- The directory entry of a page (R212). -/
def Page.entry (g : Page) (home : Nat) : Nat :=
  g.channel.toNat + 2 ^ 8 * g.frame.toNat + 2 ^ 28 * b2n g.pinned + 2 ^ 29 * b2n (decide (g.channel.toNat ≠ home))

/-- Change the directory entry of local page q of table t, in its home channel's memory too (R212). -/
def setPage (t q : Nat) (g : Page) (d : Dev) : Dev :=
  let home := homeChannel t q
  storeArea true t home (8 * (q / 256)) (leBytes 8 (g.entry home)) (modTable t (fun u => { u with pages := put none u.pages q (some g) }) d)

/-- The bytes of a staging slot (R218). -/
def Staged.bytes (x : TableDesc) (s : Staged) : List Byte :=
  leBytes 8 (s.row + 1) ++ leBytes 4 s.step.toNat ++ [s.tag] ++ zeros 51 ++
    (s.values.map (fun v => leBytes x.elemBytes v.toNat)).flatten

/-- Change the staging of a table: in each channel's memory, slots that are left read ROW 0, and what is new or has changed is
written; a first touch writes the whole slot, a change keeps the poison of its granules (R218, R219). -/
def setStaging (t : Nat) (x : TableDesc) (f : List Staged → List Staged) (d : Dev) : Dev :=
  let old := (d.table t).staging
  let new := f old
  let left := old.filter (fun s => !new.any (fun y => decide (y.row = s.row)))
  let d := modTable t (fun u => { u with staging := new }) d
  let d := forEach (fun (s : Staged) d => storeArea true t s.channel (d.slotAt t x s.channel s.slot) (zeros 8) d) left d
  forEach (fun (s : Staged) d =>
    storeArea (old.any (fun y => decide (y.row = s.row))) t s.channel (d.slotAt t x s.channel s.slot) (s.bytes x) d)
    (new.filter (fun s => !old.contains s)) d

/-- Bytes of a scatter in the undo log. -/
def Undo.size (e : Undo) : Nat := e.request.length

/-- Write the undo log of channel k from its entries, each as it arrived (R222). -/
def writeUndo (t : Nat) (x : TableDesc) (k : Nat) (d : Dev) : Dev :=
  let o := 4096 * (dirFrames t (d.localPages x) k + x.stageFrames)
  storeArea true t k o ((((d.table t).undo.filter (fun e => e.channel = k)).map (·.request)).flatten) d

/-! ## Keys (R210, R211) -/

/-- The hash of R210. -/
def hashKey (key : BitVec 64) : BitVec 64 :=
  let z := (key ^^^ (key >>> 30)) * 0xBF58476D1CE4E5B9
  let z := (z ^^^ (z >>> 27)) * 0x94D049BB133111EB
  z ^^^ (z >>> 31)

/-- The global row of a key, none out of range (R210). -/
def TableDesc.rowOf (x : TableDesc) (key : Nat) : Option Nat :=
  let r : Option Nat :=
    match x.keyMode.toNat with
    | 0 => some key
    | 1 =>
      let tree := bits key 35 16
      let ord := key % 2 ^ 16
      if bits key 39 36 ≠ 0 ∨ tree < x.treeBase.toNat ∨ 2 ^ x.leafBits.toNat ≤ ord then none
      else some ((tree - x.treeBase.toNat) * 2 ^ x.leafBits.toNat + ord)
    | _ => some ((hashKey (BitVec.ofNat 64 key)).toNat % x.rows.toNat)
  r.filter (fun n => decide (n < x.rows.toNat))

/-- Owner module and local row of a global row (R211). -/
def Dev.ownerRow (d : Dev) (x : TableDesc) (r : Nat) : Nat × Nat :=
  if x.shard = 1 then
    let l := d.ranks x
    (l.getD (r % l.length) 0, r / l.length)
  else (d.fabric.cfg.moduleId.toNat, r)

/-- Global row of a local row of this module. -/
def Dev.globalRow (d : Dev) (x : TableDesc) (r : Nat) : Nat :=
  if x.shard = 1 then let l := d.ranks x; r * l.length + d.rankOf l else r

/-! ## Heat (R232) -/

/-- Entries of a heat list with the lowest count. -/
def coldest (l : List (Nat × Nat × Nat)) : List (Nat × Nat × Nat) :=
  let m := (l.map (·.2.2)).foldl min ((l.map (·.2.2)).headD 0)
  l.filter (fun e => e.2.2 = m)

/-- A request served by engine k at page q of table t (R232): the step's count, ACCESSES and the list of 256 pages. Among
entries of the lowest count none is named as the one replaced. -/
def serveCount (k t q : Nat) (d : Dev) : Dev :=
  let d := bump (cBadger k 0) 1 d
  let d := modEngine k (fun e => { e with accesses := e.accesses + 1 }) d
  let h := (d.engine k).heat
  if h.any (fun e => decide (e.1 = t ∧ e.2.1 = q)) then
    modEngine k (fun e => { e with
      heat := updateFirst (fun x => decide (x.1 = t ∧ x.2.1 = q)) (fun x => (x.1, x.2.1, x.2.2 + 1)) e.heat }) d
  else if h.length < 256 then modEngine k (fun e => { e with heat := e.heat ++ [(t, q, 1)] }) d
  else
    let (c, d) := pickOne (coldest h) d
    match c with
    | none => d
    | some c => modEngine k (fun e => { e with heat := e.heat.erase c ++ [(t, q, c.2.2 + 1)] }) d

/-! ## Delivery of gathered rows (R215, R419) -/

/-- The command of a request's stream, as other modules know it: 2^18 × (module + 1) + queue and the low 18 bits of the index; an
index of 2^20 stands for a stream of no command (log entry 111). -/
def Dev.askerOf (d : Dev) (owner : Option (Nat × U32)) : Nat × U32 :=
  let m := 2 ^ 18 * (d.fabric.cfg.moduleId.toNat + 1)
  match owner with
  | none => (m, 2 ^ 20)
  | some (q, i) => if q < 2 ^ 18 then (m + q, BitVec.ofNat 32 (i.toNat % 2 ^ 18)) else (q, i)

/-- The asker at the end of each GATHER_DATA payload: module, queue and index (log entry 111). -/
def askerBytes (k : Nat × U32) : List Byte := leBytes 2 (k.1 / 2 ^ 18 - 1) ++ leBytes 3 (k.1 % 2 ^ 18) ++ leBytes 3 k.2.toNat

/-- The asker that eight bytes name. -/
def askerIn (b : List Byte) : Nat × U32 := (2 ^ 18 * (field b 0 2 + 1) + field b 2 3, BitVec.ofNat 32 (field b 5 3))

/-- Rows in parts of 224 bytes, each with its offset (fuel: the bytes). -/
def rowParts : Nat → Nat → List (Byte × Bool) → List (Nat × List (Byte × Bool))
  | 0, _, _ => []
  | n + 1, o, data => if data.isEmpty then [] else (o, data.take 224) :: rowParts n (o + 224) (data.drop 224)

/-- Write a row's bytes at DEST: to a core of this module, or in GATHER_DATA flits to another, each of which says in its TARGET
[37:31] how many 16 bytes of the row are left with its own (log entry 111). -/
def deliverRow (t dest : Nat) (owner : Option (Nat × U32)) (data : List (Byte × Bool)) (d : Dev) : Dev :=
  let core := bits dest 30 20
  let a := dest % 2 ^ 20
  let m := bits dest 45 32
  if m = d.fabric.cfg.moduleId.toNat then
    match d.placeOf core with
    | some p => modCore p (fun c => c.land a data) d
    | none => d
  else
    let k := d.askerOf owner
    forEach (fun (x : Nat × List (Byte × Bool)) d =>
      sendFlit m 7 true (poisonMask 15 x.2) (a + x.1 + 2 ^ 20 * core + 2 ^ 31 * ((data.length - x.1) / 16))
        (x.2.map (·.1) ++ askerBytes k) t d) (rowParts data.length 0 data) d

/-- Bytes that a gather returns. -/
def gatherBytes (x : TableDesc) (header : Bool) : Nat := x.payBytes + if header then 16 else 0

/-- Bytes move at channel k for a Badger request: BYTES, and the granule accesses that carry them (R217, R393, R409). -/
def moveBytes (k n : Nat) (d : Dev) : Dev := bump (cChan k 6) (n / 64) (bump (cBadger k 3) n d)

/-- Serve a GATHER of local row r at its engine (R215, R217). -/
def serveGather (t : Nat) (x : TableDesc) (r : Nat) (header : Bool) (dest : Nat)
    (owner : Option (Nat × U32)) (d : Dev) : Dev :=
  let k := d.rowChannel t x r
  let home := homeChannel t (r / x.rpp)
  let a := d.rowAddr t x r + if header then 0 else 16
  let n := gatherBytes x header
  let data := d.marked a n
  let d := serveCount k t (r / x.rpp) d
  let d := moveBytes k (64 + 64 * (granulesOf a n).length) (bump (cBadger k 1) 1 d)
  let d := if home = k then d else moveBytes home 64 d
  deliverRow t dest owner data (countPoisonReads a n d)

/-! ## Staging (R218 to R222) -/

/-- The staging slot of a row, if it has one. -/
def Table.staged (u : Table) (r : Nat) : Option Staged := u.staging.find? (fun s => s.row = r)

/-- Slots of a channel in use. -/
def Table.inUse (u : Table) (k : Nat) : List Nat := (u.staging.filter (fun s => s.channel = k)).map (·.slot)

/-- The first free slot from r mod D upward, and how many were probed before it (fuel: D). -/
def probeFree (used : List Nat) (dSlots : Nat) : Nat → Nat → Nat → Nat × Nat
  | 0, s, n => (s, n)
  | k + 1, s, n => if used.contains s then probeFree used dSlots k ((s + 1) % dSlots) (n + 1) else (s, n)

/-- Slots probed to find the slot of a row that has one. -/
def probesTo (x : TableDesc) (r slot : Nat) : Nat := (slot + x.slots.toNat - r % x.slots.toNat) % x.slots.toNat + 1

/-- Join of the tags of addends in order (R44). -/
def joinTags (t : Byte) (xs : List Xs) : Byte := xs.foldl (fun t x => tagJoin t x.tag) t

/-- Add values into a staging slot (R220, R221); RANGE is recorded with the slot. -/
def stageAdd (x : TableDesc) (vals : List Nat) (s : Staged) : Staged :=
  if x.xs then
    let adds := vals.map (fun v => xsAddend x.wide x.base x.stageRnd 0 .lf32 (readFloat .lf32 v))
    { s with
      values := List.zipWith (fun o a => (xsAdd x.wide { reg := o, tag := 0 } { reg := a.1.reg, tag := 0 }).reg) s.values adds,
      tag := joinTags s.tag (adds.map (·.1)),
      range := s.range || adds.any (fun a => bitOf a.2.toNat 3) }
  else
    { s with values := List.zipWith (fun o v =>
        BitVec.ofNat 128 (addElem .lf32 x.stageRnd 0 0xFFFF o.toNat v).bits) s.values vals }

/-- Subtract logged values from a staging slot (R222): exact under XS, an LF32 subtraction otherwise. -/
def stageSub (x : TableDesc) (vals : List Nat) (s : Staged) : Staged :=
  if x.xs then
    let adds := vals.map (fun v => (xsAddend x.wide x.base x.stageRnd 0 .lf32 (readFloat .lf32 v)).1)
    { s with values := List.zipWith (fun o (a : Xs) =>
        xsReg x.wide (toSigned (xsWidth x.wide) o.toNat - toSigned (xsWidth x.wide) a.reg.toNat)) s.values adds }
  else
    { s with values := List.zipWith (fun o v =>
        BitVec.ofNat 128 (subElem .lf32 x.stageRnd 0 0xFFFF o.toNat v).bits) s.values vals }

/-- Bytes of the undo log of a channel in use. -/
def Table.undoUsed (u : Table) (k : Nat) : Nat := ((u.undo.filter (fun e => e.channel = k)).map (·.size)).sum

/-- The job of a scatter that is logged: the stream's command, of this module or of another. -/
def loggedJob (owner : Option (Nat × U32)) : Option (Nat × U32) := owner.filter (fun k => decide (k.1 < 2 ^ 18 ∨ k.2 ≠ 2 ^ 20))

/-- A job joins a list of jobs. -/
def joinJob (j : Nat × U32) (l : List (Nat × U32)) : List (Nat × U32) := if l.contains j then l else l ++ [j]

/-- Log a scatter for its job (R222), and whether it found the log full: it is then added but not logged. -/
def logScatter (t : Nat) (x : TableDesc) (k r : Nat) (vals : List Nat) (request : List Byte) (first : Bool)
    (owner : Option (Nat × U32)) (d : Dev) : Bool × Dev :=
  match loggedJob owner with
  | none => (false, d)
  | some j =>
    let d := modTable t (fun u => { u with jobs := joinJob j u.jobs }) d
    if (d.table t).undoUsed k + request.length ≤ x.undoBytes.toNat then
      (false, writeUndo t x k (modTable t (fun u => { u with undo := u.undo ++ [{
        channel := k, row := r, values := vals.map (BitVec.ofNat 32), first := first, job := j, request := request }] }) d))
    else (true, bump (cBadger k 8) 1 (modTable t (fun u => { u with unlogged := joinJob j u.unlogged }) d))

/-- A staging slot with a zero value plane (R219). -/
def freshStaged (x : TableDesc) (k slot r : Nat) (step : U32) : Staged :=
  { channel := k, slot := slot, row := r, step := step, tag := 0, values := List.replicate x.width.toNat 0, range := false }

/-- Put a scatter into its row's slot and count it (R217, R219); whether it was not logged. -/
def addScatter (t : Nat) (x : TableDesc) (r probes : Nat) (vals : List Nat) (request : List Byte) (first : Bool)
    (owner : Option (Nat × U32)) (d : Dev) : Bool × Dev :=
  let k := d.rowChannel t x r
  let d := setStaging t x (updateFirst (fun s => s.row = r) (stageAdd x vals)) d
  let d := serveCount k t (r / x.rpp) d
  let d := moveBytes k (64 + 64 * probes + 2 * x.elemBytes * x.width.toNat + if first then 64 else 0) (bump (cBadger k 2) 1 d)
  logScatter t x k r vals request first owner d

/-- Send a note to another module in a BADGER flit: kind 1 answers a request, 2 says that a job's scatters are settled, 3 that they
are undone (log entry 111). TARGET names the job of kind 1 at its end, that of 2 and 3 at its origin. -/
def sendNote (m kind status t : Nat) (scatter : Bool) (j : Nat × U32) (d : Dev) : Dev :=
  sendFlit m 6 false 0 (2 * (j.1 % 2 ^ 18) + 2 ^ 19 * (j.2.toNat % 2 ^ 18) + 2 ^ 37 * kind + 2 ^ 39 * b2n (decide (j.2 ≠ 2 ^ 20)))
    (leBytes 1 status ++ leBytes 2 t ++ leBytes 1 (b2n scatter)) t d

/-- What became of a request for the command of its stream (R216, R222, R550): status 0 served, 1 stray or faulty, 2 added but not
logged. A command of another module is told. -/
def replyTo (owner : Option (Nat × U32)) (t : Nat) (scatter : Bool) (status : Nat) (d : Dev) : Dev :=
  match owner with
  | none => d
  | some (q, i) =>
    if q < 2 ^ 18 then (if status = 1 then addFact q i 0x22 0xFFFFFFFF d else d)
    else if scatter = true ∨ status = 1 then sendNote (q / 2 ^ 18 - 1) 1 status t scatter (q, i) d
    else d

/-- Serve a SCATTER_ADD at the engine of its row (R216, R219): values are LF32 bits. What became of it is as `replyTo` has it. -/
def serveScatter (t : Nat) (x : TableDesc) (r : Nat) (step : U32) (vals : List Nat) (request : List Byte)
    (owner : Option (Nat × U32)) (d : Dev) : Nat × Dev :=
  let u := d.table t
  let k := d.rowChannel t x r
  let openHere := match u.step with
    | some s => decide (s.setWidth 32 = step)
    | none => false
  if x.opt = 0 ∨ openHere = false then (1, bump (cBadger k 6) 1 d)
  else match u.staged r with
    | some s =>
      let (lost, d) := addScatter t x r (probesTo x r s.slot) vals request false owner d
      (2 * b2n lost, d)
    | none =>
      let used := u.inUse k
      if 7 * x.slots.toNat < 8 * (used.length + 1) then
        (0, bump (cBadger k 7) 1 (modTable t (fun u => { u with incomplete := true }) d))
      else
        let (slot, n) := probeFree used x.slots.toNat x.slots.toNat (r % x.slots.toNat) 1
        let d := setStaging t x (· ++ [freshStaged x k slot r step]) d
        let (lost, d) := addScatter t x r n vals request true owner d
        (2 * b2n lost, d)

/-! ## Requests (R213, R214, R550) -/

/-- Gradient values of a request as LF32 bits: LF16 ones converted exactly. -/
def gradValues (lf16 : Bool) : Nat → List Byte → List Nat
  | 0, _ => []
  | n + 1, bs =>
    (if lf16 then (convElem .lf16 .lf32 false false .nearestEven 0 (field bs 0 2)).bits else field bs 0 4) ::
      gradValues lf16 n (bs.drop (if lf16 then 2 else 4))

/-- Bytes of the element that a request starts (R213): framed by the W of the named table. -/
def requestBytes (d : Dev) (b : List Byte) : Nat :=
  if field b 0 1 = 2 then
    match (d.table (field b 2 2)).desc with
    | some x => 32 + x.width.toNat * (if bitOf (field b 1 1) 1 then 2 else 4)
    | none => 32
  else 32

/-- Whether a GATHER's DEST is faulty at this module (R550). -/
def badDest (d : Dev) (n dest : Nat) : Bool :=
  let m := bits dest 45 32
  if m ≠ d.fabric.cfg.moduleId.toNat then !d.fabric.cfg.holds m
  else (d.placeOf (bits dest 30 20)).isNone || decide (2 ^ 20 < dest % 2 ^ 20 + n)

/-- Whether a request is faulty (R550): b holds its bytes, as many as the stream brings. -/
def badRequest (d : Dev) (b : List Byte) : Bool :=
  let op := field b 0 1
  let dest := field b 0x10 8
  if b.length < 32 ∨ (op ≠ 1 ∧ op ≠ 2) ∨ 4 ≤ field b 1 1 ∨ 2 ^ 40 ≤ field b 8 8 ∨ field b 0x18 8 ≠ 0 then true
  else match if 1024 ≤ field b 2 2 then none else (d.table (field b 2 2)).desc with
    | none => true
    | some x =>
      if op = 1 then
        decide (field b 4 4 ≠ 0) || bitOf dest 31 || decide (2 ^ 46 ≤ dest) ||
          badDest d (gatherBytes x (bitOf (field b 1 1) 0)) dest
      else decide (dest ≠ 0) || decide (b.length < requestBytes d b)

/-- Serve a request whose row this module holds; a GATHER of rows in application is held (R226, R228). -/
def serveRequest (b : List Byte) (x : TableDesc) (r : Nat) (owner : Option (Nat × U32)) (d : Dev) : Dev :=
  let t := field b 2 2
  if field b 0 1 = 1 then
    if (d.table t).applying then
      modTable t (fun u => { u with gathers := u.gathers ++ [{ request := b, owner := owner }] }) d
    else serveGather t x r (bitOf (field b 1 1) 0) (field b 0x10 8) owner d
  else
    let (status, d) := serveScatter t x r (BitVec.ofNat 32 (field b 4 4))
      (gradValues (bitOf (field b 1 1) 1) x.width.toNat (b.drop 32)) b owner d
    replyTo owner t true status d

/-- Send a request on to the owner module in BADGER flits (R214, R419); its TARGET names the stream's command. A scatter is
outstanding until it is answered. -/
def forwardRequest (m t : Nat) (b : List Byte) (owner : Option (Nat × U32)) (d : Dev) : Dev :=
  let k := d.askerOf owner
  let target := 2 * (k.1 % 2 ^ 18) + 2 ^ 19 * (k.2.toNat % 2 ^ 18) + 2 ^ 39 * b2n owner.isSome
  let d := forEach (fun (p : Nat × List (Byte × Bool)) d =>
    sendFlit m 6 false 0 (target + b2n (decide (p.1 + 240 < b.length))) (p.2.map (·.1)) t d)
    (payloads b.length 0 (b.map (fun x => (x, false)))) d
  if field b 0 1 = 1 then d
  else modTable t (fun u => { u with
    sent := u.sent + 1,
    jobs := match owner with
      | some j => joinJob j u.jobs
      | none => u.jobs,
    away := match owner with
      | some (q, i) => let e := (BitVec.ofNat 14 m, q, i); if u.away.contains e then u.away else u.away ++ [e]
      | none => u.away }) d

/-- A request judged by the memory side that receives it, mapped to its row and sent to its owner (R214, R550). -/
def badgerRequest (side : Nat) (b : List Byte) (owner : Option (Nat × U32)) (d : Dev) : Dev :=
  if badRequest d b then bump (cSide side 5) 1 (replyTo owner (field b 2 2) false 1 d)
  else
    let t := field b 2 2
    match (d.table t).desc with
    | none => d
    | some x =>
      match x.rowOf (field b 8 5) with
      | none =>
        let d := bump (cBadger (homeChannel t 0) 5) 1 d
        if field b 0 1 = 1 then
          deliverRow t (field b 0x10 8) owner
            (List.replicate (gatherBytes x (bitOf (field b 1 1) 0)) ((0 : Byte), false)) d
        else d
      | some r =>
        let (m, l) := d.ownerRow x r
        if m = d.fabric.cfg.moduleId.toNat then serveRequest b x l owner d else forwardRequest m t b owner d

/-! ## Undo (R222) -/

/-- A job's logged scatters of a table are settled. -/
def settleJob (t : Nat) (job : Nat × U32) (d : Dev) : Dev :=
  match (d.table t).desc with
  | none => d
  | some x =>
    let ks := (((d.table t).undo.filter (fun e => e.job = job)).map (·.channel)).eraseDups
    let d := modTable t (fun u => { u with
      undo := u.undo.filter (fun e => e.job ≠ job), unlogged := u.unlogged.filter (fun j => j ≠ job) }) d
    forEach (fun k d => writeUndo t x k d) ks d

/-- The modules that a job's scatters of a table went to are told what becomes of them. -/
def tellAway (kind t : Nat) (job : Nat × U32) (d : Dev) : Dev :=
  let ms := ((d.table t).away.filter (fun e => e.2 = job)).map (·.1.toNat)
  forEach (fun m d => sendNote m kind 0 t true job d) ms
    (modTable t (fun u => { u with away := u.away.filter (fun e => e.2 ≠ job) }) d)

/-- At an all-core barrier of a job its logged scatters are settled, at other modules too. -/
def undoClear (job : Nat × U32) (d : Dev) : Dev :=
  forEach (fun t d => tellAway 2 t job (settleJob t job d)) (d.embed.tables.map (·.1)) d

/-- The staging of a table without a job's logged scatters: they are subtracted, newest first, and the slots that its segment first
touched are freed. -/
def undoStaging (job : Nat × U32) (x : TableDesc) (log : List Undo) (l : List Staged) : List Staged :=
  let mine := (log.filter (fun e => e.job = job)).reverse
  let st := mine.foldl (fun st e => updateFirst (fun s => s.row = e.row) (stageSub x (e.values.map (·.toNat))) st) l
  let gone := (mine.filter (·.first)).map (·.row)
  st.filter (fun s => !gone.contains s.row)

/-- Undo a job's logged scatters of a table. -/
def undoTable (t : Nat) (job : Nat × U32) (d : Dev) : Dev :=
  match (d.table t).desc with
  | none => d
  | some x => settleJob t job (setStaging t x (undoStaging job x (d.table t).undo) d)

/-- Close the step of a table, whose staging is free. -/
def closeStep (u : Table) : Table :=
  { u with staging := [], undo := [], unlogged := [], jobs := [], step := none, incomplete := false, applying := false }

/-- Free the staging of a table and close its step, as under ABANDON (R227). -/
def abandonStep (t : Nat) (d : Dev) : Dev :=
  let d := match (d.table t).desc with
    | none => d
    | some x => setStaging t x (fun _ => []) d
  modTable t closeStep d

/-- Serve the gathers held at a table's engines (R226 step 6). -/
def serveHeld (t : Nat) (d : Dev) : Dev :=
  let held := (d.table t).gathers
  let d := modTable t (fun u => { u with gathers := [] }) d
  forEach (fun (g : HeldGather) d => match (d.table t).desc with
    | none => d
    | some x => match x.rowOf (field g.request 8 5) with
      | none => d
      | some r => serveRequest g.request x (d.ownerRow x r).2 g.owner d) held d

/-- Running EMB_STEPs of a step that name a table. -/
def Dev.stepCmds (d : Dev) (t : Nat) (step : U64) : List (Nat × U32) :=
  ((d.fe.queues.map (·.1)).map (fun q => ((d.live q).filter (fun c => decide (byteAt c.bytes 0 = 4 ∧ field c.bytes 0x10 8 = step.toNat) &&
    (List.range (field c.bytes 0x20 2)).any (fun n => decide (leNat (d.bytesAt (field c.bytes 0x18 8 + 16 * n) 2) = t)))).map
      (fun c => (q, c.index)))).flatten

/-- A segment with an unlogged scatter is rolled back: the step cannot be replayed for the table. Every command of the step
completes with 0x10, at other modules too, and the open step is abandoned (R222). -/
def loseStep (t : Nat) (d : Dev) : Dev :=
  let u := d.table t
  let cmds := match u.step with
    | some s => d.stepCmds t s
    | none => []
  let d := serveHeld t (abandonStep t d)
  forEach (fun (k : Nat × U32) d =>
    if k.1 < 2 ^ 18 then stopCmd 0x10 0 k.1 k.2 d else sendNote (k.1 / 2 ^ 18 - 1) 1 3 t false k d) (u.jobs ++ cmds).eraseDups d

/-! ## The engine's commands -/

/-- The memory side that stands for a slot's Badger stream: that of its core's row, rows 0 to 14 being north (R14). -/
def sideOfSlot (s : Nat) : Nat := if s / 8 / 42 < 15 then 0 else 1

/-- GATHER (R213, R215): a request that the slot's stream carried, other requests being left as they are. -/
def execGather (request : List Byte) (slot : SlotId) (s : State) : Host.Outcome State Fault Refusal :=
  lift (fun d => badgerRequest (sideOfSlot slot.val) (0x01 :: request.drop 1) (d.slotRun slot.val).owner d) s

/-- SCATTER_ADD (R213, R216): a request with its values that the slot's stream carried. -/
def execScatterAdd (request : List Byte) (slot : SlotId) (s : State) : Host.Outcome State Fault Refusal :=
  lift (fun d => badgerRequest (sideOfSlot slot.val) (0x02 :: request.drop 1) (d.slotRun slot.val).owner d) s

end Sys2Proof.Machine
end

