-- ==== Sys2Proof/Machine/Memory.lean ====
section
/-! DEFINITION. The memory stacks: the outer code, reads with damaged symbols, scrubbing, refresh and the BAR4 window (R386 to R409, R530 to R532). -/

namespace Sys2Proof.Machine
open Sys2Proof

/-! ## GF(2⁸) and RS(72,64) (R396) -/

/-- A product in GF(2⁸) modulo x⁸ + x⁴ + x³ + x² + 1, by n shift steps. -/
def gfMulStep : Nat → Nat → Nat → Nat → Nat
  | 0, _, _, acc => acc
  | n + 1, x, y, acc =>
    let acc := if y % 2 = 1 then acc ^^^ x else acc
    let x2 := 2 * x
    gfMulStep n (if 256 ≤ x2 then x2 ^^^ 0x11D else x2) (y / 2) acc

/-- A product in GF(2⁸). -/
def gfMul (x y : Nat) : Nat := gfMulStep 8 x y 0

/-- A power in GF(2⁸). -/
def gfPow (x : Nat) : Nat → Nat
  | 0 => 1
  | n + 1 => gfMul x (gfPow x n)

/-- An inverse in GF(2⁸): x^254. -/
def gfInv (x : Nat) : Nat :=
  let x2 := gfMul x x
  let x4 := gfMul x2 x2
  let x8 := gfMul x4 x4
  let x16 := gfMul x8 x8
  let x32 := gfMul x16 x16
  let x64 := gfMul x32 x32
  let x128 := gfMul x64 x64
  gfMul x128 (gfMul x64 (gfMul x32 (gfMul x16 (gfMul x8 (gfMul x4 x2)))))

/-- The locator α^(71 − position) of a symbol position (R396). -/
def locator (pos : Nat) : Nat := gfPow 2 (71 - pos)

/-- Syndrome j of a pattern of symbol errors: position and difference (R396). -/
def syndromeAt (j : Nat) : List (Nat × Nat) → Nat
  | [] => 0
  | (p, v) :: es => gfMul v (gfPow (locator p) j) ^^^ syndromeAt j es

/-- The eight syndromes of a pattern of symbol errors. -/
def syndrome (es : List (Nat × Nat)) : List Nat := (List.range 8).map (fun j => syndromeAt j es)

/-- The poison syndrome of R397: every check byte inverted. -/
def poisonSyndrome : List Nat := syndrome ((rangeFrom 64 8).map (fun p => (p, 0xFF)))

/-- Difference of two syndromes. -/
def synXor (a b : List Nat) : List Nat := List.zipWith (· ^^^ ·) a b

/-- Scale a row. -/
def gfScale (c : Nat) (r : List Nat) : List Nat := r.map (gfMul c)

/-- Solve a square linear system over GF(2⁸), each row its coefficients and right side, by elimination on the first
column (fuel: the unknowns). None when it is singular. -/
def gfSolve : Nat → List (List Nat) → Option (List Nat)
  | 0, _ => some []
  | n + 1, rows =>
    match rows.find? (fun r => r.headD 0 ≠ 0) with
    | none => none
    | some piv =>
      let piv := gfScale (gfInv (piv.headD 0)) piv
      let rest := (rows.erase ((rows.find? (fun r => r.headD 0 ≠ 0)).getD [])).map
        (fun r => (synXor r (gfScale (r.headD 0) piv)).drop 1)
      match gfSolve n rest with
      | none => none
      | some xs =>
        let tail := (piv.drop 1)
        let rhs := tail.getLastD 0
        some ((List.zipWith gfMul tail xs).foldl (· ^^^ ·) rhs :: xs)

/-- Try v symbol errors against a syndrome: the error locator polynomial of the v × v system, its roots among the 72
positions, the values, and the check of all eight syndromes. -/
def decodeWith (v : Nat) (s : List Nat) : Option (List (Nat × Nat)) :=
  let rows := (List.range v).map (fun i => (List.range v).map (fun j => s.getD (i + j) 0) ++ [s.getD (i + v) 0])
  match gfSolve v rows with
  | none => none
  | some sigma =>
    let poly (x : Nat) : Nat :=
      (List.zipWith (fun c j => gfMul c (gfPow x j)) (sigma ++ [1]) (List.range (v + 1))).foldl (· ^^^ ·) 0
    let ps := (List.range 72).filter (fun p => poly (locator p) = 0)
    if ps.length ≠ v then none
    else
      let eqs := (List.range v).map (fun j => ps.map (fun p => gfPow (locator p) j) ++ [s.getD j 0])
      match gfSolve v eqs with
      | none => none
      | some vals =>
        let es := ps.zip vals
        if syndrome es = s ∧ es.all (fun e => e.2 ≠ 0) then some es else none

/-- Decode a syndrome as c or fewer symbol errors (R398), trying fewer first. -/
def decodeUpTo (c : Nat) (s : List Nat) : Option (List (Nat × Nat)) :=
  if s = List.replicate 8 0 then some []
  else ((List.range c).map (· + 1)).findSome? (fun v => decodeWith v s)

/-- What a read of a granule finds (R398). -/
inductive ReadOutcome where
  | good
  | poisoned (fixed : List (Nat × Nat))
  | corrected (fixed : List (Nat × Nat))
  | uncorrectable
deriving DecidableEq, Repr

/-- Decide a granule read: c of R398, whether it is stored poisoned, and the symbols that are damaged as read. -/
def judgeGranule (c : Nat) (stored : Bool) (errors : List (Nat × Nat)) : ReadOutcome :=
  let e := syndrome errors
  let s := if stored then synXor e poisonSyndrome else e
  if s = List.replicate 8 0 then .good
  else match decodeUpTo c (synXor s poisonSyndrome) with
    | some fixed => .poisoned fixed
    | none =>
      match decodeUpTo c s with
      | some fixed => .corrected fixed
      | none => .uncorrectable

/-- The symbol errors of an operand as position and difference. -/
def errPairs (es : List SymbolError) : List (Nat × Nat) := es.map (fun e => (e.position.val, e.flips.toNat))

/-- Apply symbol differences to the 64 data bytes of a granule. -/
def flipBytes (bytes : List Byte) (es : List (Nat × Nat)) : List Byte :=
  es.foldl (fun bs e => if e.1 < 64 then bs.set e.1 (bs.getD e.1 0 ^^^ BitVec.ofNat 8 e.2) else bs) bytes

/-- POSITIONS of R404: up to four corrected positions in increasing order, 0xFF beyond them. -/
def positionsWord (ps : List Nat) : U32 :=
  let ps := (List.range 72).filter (fun p => ps.contains p)
  BitVec.ofNat 32 (leNat ((ps.take 4).map (BitVec.ofNat 8) ++ List.replicate (4 - (ps.take 4).length) 0xFF))

/-- A memory record of this instant for granule g. -/
def recordFor (d : Dev) (g : Nat) (kind src symbols flags : Byte) (positions : U32) : MemRecord :=
  { stamp := d.time.ft, address := BitVec.ofNat 40 (64 * g), kind := kind, source := src, symbols := symbols,
    channel := BitVec.ofNat 8 (channelOf (64 * g)), flags := flags, positions := positions, inner := 0 }

/-- A read of granule g by a source with damaged symbols (R398 to R401): its 64 bytes, whether they are poisoned, and
what the read leaves. b: MEM_CTRL. -/
def readGranule (b : Bounds) (src : Byte) (g : Nat) (errors : List (Nat × Nat)) (d : Dev) : List Byte × Bool × Dev :=
  let k := channelOf (64 * g)
  let raw := flipBytes (d.bytesAt (64 * g) 64) errors
  match judgeGranule b.correctLimit.toNat (look false d.mem.poison g) errors with
  | .good => (raw, false, d)
  | .poisoned fixed =>
    let d := bump (cChan k 3) 1 d
    (flipBytes raw fixed, true, if fixed.isEmpty then d else bump (cChan k 1) 1 d)
  | .corrected fixed =>
    let data := flipBytes raw fixed
    let d := bump (cChan k 1) 1 d
    let d := if b.writeback then bump (cChan k (accessCounter src)) 1 (setPoison g false (setCells (64 * g) data d)) else d
    if (d.chan k).ceLogged then (data, false, d)
    else
      let r := recordFor d g 1 src (BitVec.ofNat 8 fixed.length) (if b.writeback then 3 else 1)
        (positionsWord (fixed.map (·.1)))
      let d := logRecord r (modChan k (fun c => { c with ceLogged := true }) d)
      (data, false, raiseEvent 0x4002 (0x6800 + k) ((memRecordBytes r).drop 8) d)
  | .uncorrectable =>
    let d := setPoison g true (setCells (64 * g) raw d)
    let d := bump (cChan k 2) 1 d
    let r := recordFor d g 2 src 0xFF 3 0xFFFFFFFF
    let d := logRecord r d
    (raw, true, raiseEvent 0x4003 (0x6800 + k) ((memRecordBytes r).drop 8) d)

/-- A read of the four granules of a 256-byte block: its bytes with each granule's mark. -/
def readBlock (b : Bounds) (src : Byte) (g : Nat) (errors : List (List SymbolError)) :
    Nat → Dev → List (List Byte × Bool) × Dev
  | 0, d => ([], d)
  | n + 1, d =>
    let (bytes, p, d) := readGranule b src g (errPairs (errors.headD [])) d
    let (rest, d) := readBlock b src (g + 1) (errors.drop 1) n d
    ((bytes, p) :: rest, d)

/-! ## Patrol scrub and refresh -/

/-- Blocks of a channel (R402). -/
def blocksPerChannel : Nat := 2 ^ 24

/-- The first granule of block n of channel k in increasing frame and block order (R389, R402). -/
def scrubGranule (k n : Nat) : Nat := frameAddr k (n / 16) (256 * (n % 16)) / 64

/-- A pass of channel k ends: SCRUB_PASSES counts one when every channel has completed as many (R402, R409). -/
def scrubPassEnd (k : Nat) (d : Dev) : Dev :=
  let m := (d.chan k).passes + 1
  let d := modChan k (fun c => { c with passes := m }) d
  if (List.range 256).all (fun j => decide (m ≤ (d.chan j).passes)) then bump (cOwl 7) 1 d else d

/-- One turn of channel k's patrol scrub (R402). A pass wraps at the last block. -/
def scrubTurn (b : Bounds) (k : Nat) (errors : List (List SymbolError)) (d : Dev) : Dev :=
  let n := (d.chan k).scrubAt.toNat
  let (_, d) := readBlock b 2 (scrubGranule k n) errors 4 d
  let d := bump (cChan k 5) 1 (bump (cChan k 8) 1 d)
  let d := modChan k (fun c => { c with scrubAt := c.scrubAt + 1 }) d
  let d := if n + 1 = blocksPerChannel then scrubPassEnd k d else d
  { d with mem := { d.mem with scrubActive := true,
                               scrubFrame := if k = 0 then BitVec.ofNat 20 (n / 16) else d.mem.scrubFrame } }

/-- PATROL_SCRUB (R402): nothing while SCRUB_HOURS is 0 or the stacks are in self-refresh. -/
def execPatrolScrub (k : ChanId) (errors : List (List SymbolError)) (s : State) : Host.Outcome State Fault Refusal :=
  lift (guarded (s.bounds.scrubHours ≠ 0 && !s.dev.mem.selfRefresh) (scrubTurn s.bounds k.toNat errors)) s

/-- BANK_REFRESH (R394): the next bank in order is refreshed; nothing in self-refresh. No data change. -/
def execBankRefresh (k : ChanId) (s : State) : Host.Outcome State Fault Refusal :=
  lift (guarded (!s.dev.mem.selfRefresh) (modChan k.toNat (fun c => { c with refreshBank := c.refreshBank + 1 }))) s

/-- Re-arm a channel's capture (R406): a capture of the same Den cycle stands (R473). -/
def rearmChannel (k : Nat) (d : Dev) : Dev :=
  if bitOf (d.clears (0x50010 + 32 * k) (2 ^ 32)) 32 then modChan k (fun c => { c with capture := none }) d else d

/-- CHANNEL_CAPTURE_REARM (R406): writing 1 to VALID returns the capture to zero and re-arms it. -/
def execChannelCaptureRearm (k : ChanId) (s : State) : Host.Outcome State Fault Refusal :=
  lift (rearmChannel k.toNat) s

/-! ## BAR4 (R530 to R532) -/

/-- Device address that BAR4 offset 0 reaches (R531). -/
def Dev.bar4Addr (d : Dev) : Nat := d.mode.bar4Base.toNat * 2 ^ 28

/-- A write of BASE (R531): kept only as a multiple of the BAR4 size with no byte at or above 0xFF_0000_0000. -/
def setBar4Base (v : Nat) (d : Dev) : Dev :=
  let a := bits v 39 28 * 2 ^ 28
  let size := 2 ^ d.mode.bar4Log2
  if a % size = 0 ∧ a + size ≤ softEnd then { d with mode := { d.mode with bar4Base := BitVec.ofNat 12 (bits v 39 28) } }
  else d

/-- BAR4_BASE_WRITE (R531). -/
def execBar4BaseWrite (value : U64) (s : State) : Host.Outcome State Fault Refusal := lift (setBar4Base value.toNat) s

/-- The granules of a read by BAR4, with errors of each as it is read (R398): the bytes of the read, and whether one is poisoned. -/
def bar4Granules (b : Bounds) (a n : Nat) (errors : List (List SymbolError)) (d : Dev) : List Byte × Bool × Dev :=
  let gs := granulesOf a n
  let (read, d) := readBlock b 5 (gs.headD 0) errors gs.length d
  (((read.map (·.1)).flatten.drop (a % 64)).take n, read.any (·.2), d)

/-- A BAR4 read (R399, R532): the bytes, or all ones with the poisoned-TLP bit when it covers a poisoned granule. -/
def bar4ReadDev (b : Bounds) (a n : Nat) (errors : List (List SymbolError)) (d : Dev) : Dev :=
  let (bytes, poisoned, d) := bar4Granules b a n errors (countAccess 5 false a n d)
  { d with out := { d.out with completions := d.out.completions ++ [(if poisoned then List.replicate n 0xFF else bytes, poisoned)] } }

/-- BAR4_READ (R532). Beyond the window there is no such address. -/
def execBar4Read (offset : BitVec 40) (length : Bar4Span) (s : State) : Host.Outcome State Fault Refusal :=
  if offset.toNat + length.bytes ≤ 2 ^ s.dev.mode.bar4Log2 then
    lift (bar4ReadDev s.bounds (s.dev.bar4Addr + offset.toNat) length.bytes length.errors) s
  else .fault .beyondBar4

/-- Granule g after a write of n bytes at a (R400): one that the write covers in part is read first, with what that read finds,
and stays poisoned when it finds it so. -/
def mergeGranule (b : Bounds) (a n : Nat) (errors : List SymbolError) (g : Nat) (d : Dev) : Dev :=
  if a ≤ 64 * g ∧ 64 * g + 64 ≤ a + n then setPoison g false d
  else
    let (data, bad, d) := readGranule b 3 g (errPairs errors) d
    setPoison g bad (setCells (64 * g) data d)

/-- A write by BAR4: errors, of each granule that it touches, as the reads of partial writes find them (R399, R400). -/
def bar4WriteDev (b : Bounds) (a : Nat) (bytes : List Byte) (marked : Bool) (errors : List (List SymbolError)) (d : Dev) : Dev :=
  let gs := granulesOf a bytes.length
  let d := forEach (fun (g : Nat × Nat) d => mergeGranule b a bytes.length (errors.getD g.2 []) g.1 d) (gs.zip (List.range gs.length)) d
  countAccess 5 true a bytes.length (guarded marked (forEach (poisonGranule 5) gs) (setCells a bytes d))

/-- BAR4_WRITE (R532): stored under R400, as a marked write when the poisoned-TLP bit is set, which AER reports. -/
def execBar4Write (offset : BitVec 40) (bytes : List Byte) (poisoned : Bar4Marks) (s : State) :
    Host.Outcome State Fault Refusal :=
  if offset.toNat + bytes.length ≤ 2 ^ s.dev.mode.bar4Log2 then
    lift (fun d => guarded poisoned.poisoned (aerReport 1)
      (bar4WriteDev s.bounds (s.dev.bar4Addr + offset.toNat) bytes poisoned.poisoned poisoned.errors d)) s
  else .fault .beyondBar4

end Sys2Proof.Machine
end

