-- ==== Sys2Proof/Machine/Operands.lean ====
section
/-! DEFINITION. Faults of stream descriptors (R265, R266, R269). -/

namespace Sys2Proof.Machine
open Sys2Proof

/-- First fault among (offset, holds) pairs in the order of their offsets. -/
def firstFault : List (Nat × Bool) → Option Nat
  | [] => none
  | (o, p) :: l => if p then some o else firstFault l

/-- Whether FAR_KIND and DIR appear together in R266. -/
def kindDirOk (kind : Nat) (out : Bool) : Bool := if kind = 3 then !out else if kind = 4 then out else decide (kind ≤ 5)

/-- Whether every element of a pattern lies where a test of its address and size says. -/
def Desc.allElems (x : Desc) (ok : Nat → Nat → Bool) : Bool :=
  (List.range x.elements).all (fun e => decide (0 ≤ x.elemAddr e) && ok (x.elemAddr e).toNat x.farSize)

/-- Whether n bytes at a fabric address lie in the device memory of one module that the route table holds (R392). -/
def Dev.inFabric (d : Dev) (a n : Nat) : Bool := d.reachable (a / 2 ^ 40) && decide (a < 2 ^ 54) && inSoft (a % 2 ^ 40) n

/-- Whether the far side of a descriptor lies where R266 and R269 let it lie. The lowest and the highest byte of a pattern are
bytes of its elements, so a range that holds both holds every element. -/
def farOk (d : Dev) (x : Desc) : Bool :=
  let (lo, hi) := x.span
  match x.farKind.toNat with
  | 0 => decide (0 ≤ lo ∧ hi < (softEnd : Int))
  | 1 => decide (0 ≤ lo) && (d.inFabric lo.toNat (hi - lo + 1).toNat || x.allElems d.inFabric)
  | 2 => decide (0 ≤ lo) && (d.inWindow lo.toNat (hi - lo + 1).toNat || x.allElems d.inWindows)
  | 3 => decide (0 ≤ lo ∧ hi < 2 ^ 20)
  | 4 => decide (x.farAddr = 0)
  | _ => decide (x.farAddr.toNat < 2 ^ 28) && d.reachable (bits x.farAddr.toNat 27 14)

/-- Whether a LOCAL pattern stays outside both halves (R266, R269). -/
def localOutside (x : Desc) : Bool :=
  (List.range x.elements).all (fun e =>
    let a := x.elemAddr e
    [x.nearA.toNat, x.nearB.toNat].all (fun (h : Nat) =>
      decide (a + x.farSize ≤ (h : Int) ∨ (h : Int) + x.halfBytes.toNat ≤ a)))

/-- Faults of a descriptor that its own fields and the device decide (R4, R269): the offset of the first. banksOk judges
the halves' banks. -/
def descFault (d : Dev) (b : List Byte) (banksOk : Desc → Bool) : Option Nat :=
  let x := parseDesc b
  let sf := field b 0xA 1
  let df := field b 0xB 1
  let raw := decide (sf = 0xF ∧ df = 0xF)
  let convOk := match fmtOfCode sf, fmtOfCode df with
    | some s, some t => convOffered s t
    | none, none => true
    | _, _ => false
  let lf8 (c : Nat) : Bool := decide (c = 2 ∨ c = 3)
  let pre := firstFault
    [(8, decide (6 ≤ field b 8 1) || !kindDirOk (field b 8 1) x.out || (decide (field b 8 1 = 4) && !d.agreed 5)), (9, decide (4 ≤ field b 9 1)),
     (0xA, decide (9 ≤ sf ∧ sf ≠ 0xF) || (lf8 sf && !d.agreed 20)),
     (0xB, decide (9 ≤ df ∧ df ≠ 0xF) || !convOk || (lf8 df && !d.agreed 20)),
     (0xC, decide (16 ≤ field b 0xC 1 ∨ field b 0xC 1 % 4 = 3)), (0xD, decide (16 ≤ field b 0xD 1)),
     (0x10, decide (field b 0x10 4 = 0)), (0x14, decide (field b 0x14 4 = 0)), (0x18, decide (field b 0x18 4 = 0)),
     (0x1C, decide (field b 0x1C 4 = 0)), (0x20, decide (field b 0x20 4 = 0)), (0x24, decide (field b 0x24 4 ≠ 0)),
     (0x28, decide (2 ^ 47 ≤ (strideAt b 0).natAbs)), (0x30, decide (2 ^ 47 ≤ (strideAt b 1).natAbs)),
     (0x38, decide (2 ^ 47 ≤ (strideAt b 2).natAbs)), (0x40, decide (2 ^ 47 ≤ (strideAt b 3).natAbs)),
     (0x48, decide (2 ^ 47 ≤ (strideAt b 4).natAbs)),
     (0x50, decide (2 ^ 20 ≤ field b 0x50 4)), (0x54, decide (2 ^ 20 ≤ field b 0x54 4)),
     (0x58, decide (field b 0x58 4 < 256 ∨ 524288 < field b 0x58 4 ∨ field b 0x58 4 % 256 ≠ 0)),
     (0x64, if raw then decide (field b 0x64 2 = 0 ∨ 4096 < field b 0x64 2) else decide (field b 0x64 2 ≠ 0)),
     (0x66, decide (2 ^ 14 ≤ field b 0x66 2)), (0x68, decide (2 ^ 48 ≤ field b 0x68 8)),
     (0x70, let a := field b 0x70 8; decide (a ≠ 0 ∧ (a % 32 ≠ 0 ∨ softEnd < a + 32))),
     (0x78, decide (field b 0x78 8 ≠ 0))]
  match pre with
  | some o => some o
  | none => firstFault
      [(0, (decide (x.farKind.toNat = 5) && !d.agreed 16) || !farOk d x ||
           (decide (x.farKind.toNat = 3) && !localOutside x)),
       (0x50, decide (2 ^ 20 < x.nearA.toNat + x.halfBytes.toNat) || !banksOk x),
       (0x54, decide (2 ^ 20 < x.nearB.toNat + x.halfBytes.toNat)), (0x58, decide (x.perHalf = 0))]

end Sys2Proof.Machine
end

