-- ==== Sys2Proof/Machine/Streams.lean ====
section
/-! DEFINITION. Stream engines: arming, swaps, block accesses, transfers, chains, spills and COPY (R265 to R299, R323). -/

namespace Sys2Proof.Machine
open Sys2Proof

/-! ## Jobs and images of cores -/

/-- The image that a running command's job runs. -/
def Dev.cmdImage (d : Dev) (q : Nat) (i : U32) : Option LoadImage :=
  match d.cmd q i with
  | none => none
  | some c => match c.work with
    | .launch im v _ _ => (d.imageVersion im v).map (·.image)
    | .taskLaunch t => (d.imageVersion (d.task t).image (d.task t).version).map (·.image)
    | _ => none

/-- The image loaded on a logical core: that of the job that runs there, or of the task that holds it (R332). -/
def Dev.coreImage (d : Dev) (core : Nat) : Option LoadImage :=
  match d.mesh.jobs.find? (fun j => j.cores.contains core) with
  | some j => d.cmdImage j.queue j.index
  | none =>
    (d.fe.tasks.filterMap (fun t =>
      if t.2.present then (d.imageVersion t.2.image t.2.version).map (·.image) else none)).find?
      (fun im => im.cores.contains (BitVec.ofNat 11 core))

/-- Whether a core issues nothing: it waits at a barrier, or its job is held or preempted (R74, R75, R124). -/
def Dev.stopped (d : Dev) (p : Nat) : Bool :=
  !(d.core p).waiting.isEmpty ||
    d.mesh.jobs.any (fun j => j.cores.contains (d.logicalOf p) && (j.held || j.preempted))

/-! ## The transfer in hand -/

/-- Whether a slot is ready: a released transfer with blocks not yet requested, which its side issues. -/
def Dev.readyAccess (d : Dev) (s : Nat) : Option (List Piece) :=
  let x := d.slot s
  match if x.state = .active ∧ x.released ≠ 0 then x.desc else none with
  | none => none
  | some desc =>
    if d.overLinks desc ∨ desc.farKind = 3 then none else (x.accesses desc)[x.issued]?

/-- The side that issues an access of a slot: its channel's, 2 for the host, its core's for a Badger stream. -/
def Dev.sideOf (d : Dev) (s : Nat) (a : List Piece) : Nat :=
  match (d.slot s).desc with
  | none => 0
  | some desc =>
    if desc.farKind = 2 then 2
    else if desc.farKind = 4 then sideOfSlot s
    else if channelOf ((a.headD { addr := 0, len := 0, elem := 0, at_ := 0 }).addr % 2 ^ 40) < 128 then 0 else 1

/-- The slots ready on a side (R284, READY of R287). -/
def Dev.ready (d : Dev) (side : Nat) : List Nat :=
  (d.streams.slots.map (·.1)).filter (fun s => match d.readyAccess s with
    | some a => decide (d.sideOf s a = side)
    | none => false)

/-! ## Draining (R268, R291, R292) -/

/-- The far-side bytes of element e of an OUT transfer, and what its conversion raises. -/
def drainElem (s : Nat) (desc : Desc) (e : Nat) (d : Dev) : List (Byte × Bool) × BitVec 6 × Nat :=
  let x := d.slot s
  let c := d.core (s / 8)
  let (e0, _) := desc.transfer x.current
  let data := c.marked (desc.half x.half + (e - e0) * desc.nearSize) desc.nearSize
  let poisoned := data.any (·.2)
  let (bytes, flags, origin) := desc.convert (d.slotStep s) (d.nanCore (s / 8)) e (data.map (·.1)) poisoned
  (bytes.map (fun b => (b, poisoned)), flags, origin)

/-- The marked bytes of one part of an element, and the element's flags recorded at its first part. -/
def drainPiece (s : Nat) (desc : Desc) (pc : Piece) (d : Dev) : List (Byte × Bool) × Dev :=
  let (data, flags, origin) := drainElem s desc pc.elem d
  let d := if pc.at_ = 0 then
      recordStreamFlags (d.slotRun s).owner s flags origin (desc.indexBase.toNat + pc.elem) d
    else d
  let d := if pc.at_ + pc.len = desc.farSize then modSlotRun s (fun r => { r with elements := r.elements + 1 }) d else d
  ((data.drop pc.at_).take pc.len, d)

/-- The parts of an access joined where one follows another at the far side. -/
def joinRuns : List (Nat × List (Byte × Bool)) → List (Nat × List (Byte × Bool))
  | [] => []
  | (a, b) :: rs =>
    match joinRuns rs with
    | [] => [(a, b)]
    | (a', b') :: rs' => if a + b.length = a' then (a, b ++ b') :: rs' else (a, b) :: (a', b') :: rs'

/-- Collect the parts of an access. -/
def drainPieces (s : Nat) (desc : Desc) : List Piece → Dev → List (Nat × List (Byte × Bool)) × Dev
  | [], d => ([], d)
  | pc :: ps, d =>
    let (b, d) := drainPiece s desc pc d
    let (rest, d) := drainPieces s desc ps d
    ((pc.addr, b) :: rest, d)

/-- Write an access of an OUT stream at the far side. -/
def writeRuns (s : Nat) (host : Bool) (runs : List (Nat × List (Byte × Bool))) (d : Dev) : Dev :=
  forEach (fun (r : Nat × List (Byte × Bool)) d =>
    let d := poisonOut s (markedGranules r.1 r.2) d
    if host then hostWrite r.1 (r.2.map (·.1)) (r.2.any (·.2)) d else memLand 0 (r.1 % 2 ^ 40) r.2 d) runs d

/-! ## Badger streams (R213, R292, R550) -/

/-- Serve the requests that lie whole in a stream's bytes; what is left waits for the next transfer, and at the last one
is judged as it stands (fuel: the bytes). -/
def requestLoop (s : Nat) (last : Bool) : Nat → List (Byte × Bool) → Dev → Dev
  | 0, data, d => modSlotRun s (fun r => { r with tail := data }) d
  | n + 1, data, d =>
    let k := max 32 (requestBytes d (data.map (·.1)))
    if data.isEmpty ∨ ((data.length < 32 ∨ data.length < k) ∧ last = false) then
      modSlotRun s (fun r => { r with tail := data }) d
    else
      let b := data.take k
      let d := if b.any (·.2) then poisonIn s 1 0 d
               else badgerRequest (sideOfSlot s) (b.map (·.1)) (d.slotRun s).owner d
      requestLoop s last n (data.drop k) d

/-- A transfer of a Badger stream is handed to the engines. -/
def drainBadger (s : Nat) (desc : Desc) (d : Dev) : Dev :=
  let x := d.slot s
  let (_, k) := desc.transfer x.current
  let data := (d.core (s / 8)).marked (desc.half x.half) (k * desc.nearSize)
  let all := (d.slotRun s).tail ++ data
  let d := modSlotRun s (fun r => { r with elements := r.elements + BitVec.ofNat 64 k }) d
  requestLoop s (decide (x.released = desc.transfers)) all.length all d

/-! ## Releasing a transfer: what goes over the links at once (R419) -/

/-- Far-side bytes of an OUT transfer in element order. -/
def drainAll (s : Nat) (desc : Desc) : List Nat → Dev → List (Byte × Bool) × Dev
  | [], d => ([], d)
  | e :: es, d =>
    let (b, flags, origin) := drainElem s desc e d
    let d := recordStreamFlags (d.slotRun s).owner s flags origin (desc.indexBase.toNat + e) d
    let d := modSlotRun s (fun r => { r with elements := r.elements + 1 }) d
    let (rest, d) := drainAll s desc es d
    (b ++ rest, d)

/-- A LINK OUT transfer: STREAM_OPEN and its STREAM_DATA flits. -/
def sendLinkHalf (s : Nat) (desc : Desc) (d : Dev) : Dev :=
  let x := d.slot s
  let (e0, k) := desc.transfer x.current
  let m := bits desc.farAddr.toNat 27 14
  let target := desc.farAddr.toNat % 2 ^ 14
  let (data, d) := drainAll s desc (rangeFrom e0 k) d
  let key := d.streamNo s
  let d := poisonOut s (markedGranules 0 data) d
  let d := sendFlit m 2 false 0 (streamTarget target x.gen.toNat 0)
    (openPayload (d.globalStream s) x.gen.toNat x.current data.length) key d
  forEach (fun (p : Nat × List (Byte × Bool)) d =>
    sendFlit m 1 false (poisonMask 15 p.2) (streamTarget target x.gen.toNat (p.1 / 16)) (p.2.map (·.1)) key d)
    (payloads data.length 0 data) d

/-- The FABRIC_READ flits of a transfer to a module: up to 14 block requests each (fuel: the parts). -/
def sendReads (s m : Nat) : Nat → List (Nat × Nat × Nat) → Dev → Dev
  | 0, _, d => d
  | n + 1, blocks, d =>
    if blocks.isEmpty then d
    else
      let own := d.fabric.cfg.moduleId.toNat
      let d := sendFlit m 4 false 0 0 (readPayload own (d.streamNo s) (d.slot s).gen.toNat (blocks.take 14)) (d.streamNo s) d
      sendReads s m n (blocks.drop 14) d

/-- The block requests of accesses: each part's fabric address, its length and its offset in the half's far form. -/
def blockRequests : Nat → List Piece → List (Nat × Nat × Nat)
  | _, [] => []
  | o, p :: ps => (p.addr, p.len, o) :: blockRequests (o + p.len) ps

/-- Where the next byte of a FABRIC read belongs: the module that sends it, and how many bytes it still sends in one piece. -/
def nextPart (pos : Nat) : List (Nat × Nat × Nat) → Option (Nat × Nat)
  | [] => none
  | (a, n, o) :: bs => if o ≤ pos ∧ pos < o + n then some (a / 2 ^ 40, o + n - pos) else nextPart pos bs

/-- Bytes that have come from the modules of a FABRIC read land in the order of its elements (fuel: the blocks). -/
def landParts (s : Nat) (x : Desc) (blocks : List (Nat × Nat × Nat)) : Nat → Dev → Dev
  | 0, d => d
  | n + 1, d =>
    let r := d.slotRun s
    match nextPart (r.landed + r.tail.length) blocks with
    | none => d
    | some (m, k) =>
      let have_ := ((r.parts.find? (fun p => p.1 = m)).map (·.2)).getD []
      if have_.isEmpty then d
      else
        let d := modSlotRun s (fun r => { r with parts := updateFirst (fun p => p.1 = m) (fun p => (p.1, p.2.drop k)) r.parts }) d
        landParts s x blocks n (landBytes s x (have_.take k) d)

/-- Bytes of a FABRIC read come from a module. -/
def partArrives (s m : Nat) (x : Desc) (data : List (Byte × Bool)) (d : Dev) : Dev :=
  let d := modSlotRun s (fun r => { r with
    parts := if r.parts.any (fun p => p.1 = m) then updateFirst (fun p => p.1 = m) (fun p => (p.1, p.2 ++ data)) r.parts
             else r.parts ++ [(m, data)] }) d
  let blocks := blockRequests 0 ((d.slot s).accesses x).flatten
  landParts s x blocks (2 * blocks.length) d

/-- A FABRIC OUT transfer that reaches other modules: FABRIC_WRITE flits, each to be acknowledged; what lies in this module
is written at once. -/
def sendWrites (s : Nat) (runs : List (Nat × List (Byte × Bool))) (d : Dev) : Dev :=
  forEach (fun (r : Nat × List (Byte × Bool)) d =>
    let m := r.1 / 2 ^ 40
    if m = d.fabric.cfg.moduleId.toNat then memLand 0 (r.1 % 2 ^ 40) r.2 d
    else
      forEach (fun (p : Nat × List (Byte × Bool)) d =>
        let d := sendFlit m 5 false (poisonMask 15 p.2) (r.1 % 2 ^ 40 + p.1) (p.2.map (·.1)) (d.streamNo s) d
        modSlot s (fun x => { x with issued := x.issued + 1 }) d) (payloads r.2.length 0 r.2) d) runs d

/-- A FABRIC IN transfer that reaches other modules: a request to each, and what lies in this module is read at once. -/
def requestReads (s : Nat) (x : Desc) (blocks : List (Nat × Nat × Nat)) (d : Dev) : Dev :=
  let own := d.fabric.cfg.moduleId.toNat
  let mods := (blocks.map (fun b => b.1 / 2 ^ 40)).eraseDups
  let d := forEach (fun m d =>
    let mine := (blocks.filter (fun b => b.1 / 2 ^ 40 = m)).map (fun b => (b.1 % 2 ^ 40, b.2))
    sendReads s m mine.length mine d) (mods.filter (· ≠ own)) d
  if mods.contains own then
    let data := ((blocks.filter (fun b => b.1 / 2 ^ 40 = own)).map (fun b => d.marked (b.1 % 2 ^ 40) b.2.1)).flatten
    partArrives s own x data (poisonIn s (markedGranules 0 data) x.farAddr.toNat d)
  else d

/-- Whether an access writes part of a granule, its joined parts seen as runs (R283). -/
def partialGranule (runs : List (Nat × Nat)) : Bool :=
  runs.any (fun r => decide (r.1 % 64 ≠ 0 ∨ (r.1 + r.2) % 64 ≠ 0))

/-- Joined address runs of an access. -/
def accessRuns : List Piece → List (Nat × Nat)
  | [] => []
  | p :: ps => match accessRuns ps with
    | [] => [(p.addr, p.len)]
    | (a, n) :: rs => if p.addr + p.len = a then (p.addr, p.len + n) :: rs else (p.addr, p.len) :: (a, n) :: rs

/-- What a block access costs (R283): an OUT access that writes part of a granule of the stacks reads and writes. -/
def accessCost (x : Desc) (a : List Piece) : Nat :=
  if x.out ∧ (x.farKind = 0 ∨ x.farKind = 1) ∧ partialGranule (accessRuns a) = true then 2 else 1

/-- A transfer is released to the engine: what needs the links goes out at once; an OUT half's poisoned granules count as
read. -/
def startTransfer (s : Nat) (d : Dev) : Dev :=
  let d := modSlot s (fun x => { x with issued := 0, returned := 0, releasedAt := d.time.ft }) d
  let d := modSlotRun s (fun r => { r with
    landed := 0, opened := false, parts := [],
    tail := match (d.slot s).desc with
      | some x => if x.farKind = 4 then r.tail else []
      | none => [] }) d
  match (d.slot s).desc with
  | none => d
  | some x =>
    if !d.overLinks x then d
    else if x.farKind = 5 then (if x.out then sendLinkHalf s x d else d)
    else
      let acc := (d.slot s).accesses x
      let d := bump (cSlot s 0) (acc.map (accessCost x)).sum d
      if x.out then
        let (runs, d) := drainPieces s x acc.flatten d
        sendWrites s (joinRuns runs) (poisonOut s ((joinRuns runs).map (fun r => markedGranules r.1 r.2)).sum d)
      else requestReads s x (blockRequests 0 acc.flatten) d

/-! ## Arming (R265, R269, R275 to R277, R281, R282) -/

/-- The slot of the same core whose stream names this one in NEXT (R281). -/
def Dev.feeder (d : Dev) (s : Nat) : Option Nat :=
  (rangeFrom (s / 8 * 8) 8).find? (fun t => decide (t ≠ s) && (match (d.slot t).desc with
    | some x => decide (x.next.toNat = d.streamNo s) && !x.out
    | none => false))

/-- The slot of the same core that a descriptor names in NEXT. -/
def Dev.nextSlot (d : Dev) (s : Nat) (x : Desc) : Option Nat :=
  if x.chained then (rangeFrom (s / 8 * 8) 8).find? (fun t => d.streamNo t = x.next.toNat) else none

/-- Who arms a descriptor: its command, whether the program does it, whether a chain feeds it, and the half that takes
transfer 0. -/
structure ArmBy where
  owner   : Option (Nat × U32)
  program : Bool
  fed     : Bool
  half    : Bool

/-- A descriptor becomes active in a slot (R270): the engine takes half A, or at a swap the half that the swap releases
(R275), and transfer 0 is released at once; the OUT stage that a chain feeds waits for its first half. -/
def activate (s : Nat) (x : Desc) (by_ : ArmBy) (d : Dev) : Dev :=
  let d := modSlot s (fun o =>
    { o with
      state := if by_.fed then .wait else .active, desc := some x, shadow := none, half := by_.half, gen := x.armGen,
      released := if by_.fed then 0 else 1, issued := 0, returned := 0, lateCount := 0, poisonIn := 0, poisonOut := 0 }) d
  let d := modSlotRun s (fun r =>
    { SlotRun.reset with owner := by_.owner, byProgram := by_.program, poisonSeen := r.poisonSeen && decide (r.owner = by_.owner) }) d
  if by_.fed then d else startTransfer s d

/-- The latest generation of a slot (R276). -/
def Slot.latestGen (x : Slot) : U16 := match x.shadow with
  | some y => y.armGen
  | none => x.gen

/-- A slot that an engine works. -/
def Slot.working (x : Slot) : Bool := decide (x.state = .active ∨ x.state = .wait ∨ x.state = .blocked)

/-- The block sets bit b of a slot's register, LATE or REFUSED (R274, R473); two slots share a 64-bit word. -/
def setSlotBit (s b : Nat) (d : Dev) : Dev := hwSet (0x20000 + 8 * (s / 2)) (b + 32 * (s % 2)) d

/-- A refused arm (R277). -/
def refuseArm (s : Nat) (gen : U16) (d : Dev) : Dev :=
  let x := d.slot s
  let d := setSlotBit s 7 (modSlot s (fun x => { x with refused := true }) (bump (cSlot s 2) 1 d))
  raiseEvent 0x2002 (0x4000 + s) (pack [(2, gen.toNat), (2, x.gen.toNat), (1, b2n x.shadow.isSome)] []) d

/-- An arm that passes R269: active, or to the shadow (R275, R276). One that comes in the Den cycle of a KILL is refused, for
the KILL comes first (R278). -/
def armChecked (s : Nat) (x : Desc) (by_ : ArmBy) (d : Dev) : Dev :=
  let o := d.slot s
  if (o.working = true ∧ o.shadow.isSome = true) ∨ x.armGen ≠ o.latestGen + 1 ∨ (d.slotRun s).killedAt = some d.time.edges then
    refuseArm s x.armGen d
  else if o.working then modSlot s (fun o => { o with shadow := some x }) d
  else activate s x by_ d

/-- Whether an image gives all banks of a half to a half of a slot (R62). -/
def givesBanks (im : LoadImage) (core slot : Nat) (half : Bool) (a n : Nat) : Bool :=
  (banksOf a n).all (fun b => im.banks.any (fun k =>
    decide (k.core.toNat = core ∧ k.bank.toNat = b) && (match k.owner with
      | .streamHalf s h => decide (s.val = slot ∧ h = half)
      | _ => false)))

/-- Banks of a program's descriptor (R62, R269): those of its slot, or of the stage that feeds it. -/
def Dev.programBanks (d : Dev) (s : Nat) (x : Desc) : Bool :=
  match d.coreImage (d.logicalOf (s / 8)) with
  | none => true
  | some im =>
    let owner := match d.feeder s with
      | some t => t % 8
      | none => s % 8
    givesBanks im (d.logicalOf (s / 8)) owner false x.nearA.toNat x.halfBytes.toNat &&
      givesBanks im (d.logicalOf (s / 8)) owner true x.nearB.toNat x.halfBytes.toNat

/-- Whether two descriptors form a link of a chain (R281, R282). -/
def chainLink (a b : Desc) : Bool :=
  if a.out then !b.out && decide (b.farKind = 1 ∨ b.farKind = 5) && decide (a.farKind = 1 ∨ a.farKind = 5) &&
    decide (a.elements = b.elements ∧ a.halfBytes = b.halfBytes ∧ b.srcFmt = b.dstFmt)
  else b.out && decide (b.nearA = a.nearA ∧ b.nearB = a.nearB ∧ a.elements = b.elements ∧ a.halfBytes = b.halfBytes ∧
    b.srcFmt = b.dstFmt ∧ a.nearSize = b.nearSize)

/-- The slots of the stages after a slot, by NEXT, as far as they are armed (fuel: one more than a chain may have). -/
def Dev.stagesAfter (d : Dev) : Nat → Nat → Desc → List Nat
  | 0, _, _ => []
  | n + 1, s, x => match d.nextSlot s x with
    | none => []
    | some t => t :: (match if (d.slot t).working then (d.slot t).desc else none with
      | some y => d.stagesAfter n t y
      | none => [])

/-- The stages before a slot (fuel: one more than a chain may have). -/
def Dev.stagesBefore (d : Dev) : Nat → Nat → List Nat
  | 0, _ => []
  | n + 1, s => match d.feeder s with
    | none => []
    | some t => t :: d.stagesBefore n t

/-- A program's descriptor whose NEXT R282 does not allow: on another core, a loop, stages that differ, a second conversion, or
more than four stages. -/
def Dev.badNext (d : Dev) (s : Nat) (x : Desc) : Bool :=
  let after := d.stagesAfter 5 s x
  let before := d.stagesBefore 5 s
  decide (4 < before.length + 1 + after.length) || after.contains s ||
    (x.chained && (match d.nextSlot s x with
      | none => true
      | some t => match (d.slot t).desc with
        | some y => (d.slot t).working && !chainLink x y
        | none => false)) ||
    (match before.head? with
      | some t => match (d.slot t).desc with
        | some y => (d.slot t).working && !chainLink y x
        | none => false
      | none => false)

/-- Arm a descriptor line of a program (R265, R269, R277): a faulty one puts the slot in FAULT, and the job's command
completes with 0x22. -/
def armProgram (s : Nat) (b : List Byte) (d : Dev) : Dev :=
  let x := parseDesc b
  let owner := d.ownerOf (s / 8)
  if (descFault d b (d.programBanks s)).isSome ∨ d.badNext s x = true then
    let d := modSlot s (fun o => { o with state := .fault }) (freeFrames s d)
    let d := modSlotRun s (fun r => { r with owner := if r.owner.isSome then r.owner else owner }) d
    match owner with
    | none => d
    | some (q, i) => stopCmd 0x22 0xFFFFFFFF q i d
  else armChecked s x { owner := owner, program := true, fed := (d.feeder s).isSome, half := false } d

/-- ARM (R265): the line pair at a 128-byte aligned local address. A core that issues nothing arms nothing. -/
def execArm (slot : SlotId) (addr : BitVec 20) (s : State) : Host.Outcome State Fault Refusal :=
  lift (fun d =>
    if d.stopped (slot.val / 8) then d
    else armProgram slot.val ((d.core (slot.val / 8)).bytesAt (addr.toNat / 128 * 128) 128) (coreProgress (slot.val / 8) d)) s

/-! ## Swaps and holds (R74, R271, R275, R288, R290) -/

/-- Whether the engine's half is complete, so that a swap may take it. -/
def Slot.swappable (x : Slot) : Bool := decide (x.state = .wait ∨ x.state = .done)

/-- Release the next transfer of a slot, if it has one. -/
def releaseNext (s : Nat) (x : Desc) (d : Dev) : Dev :=
  let o := d.slot s
  if o.released < x.transfers then
    startTransfer s (modSlot s (fun o => { o with released := o.released + 1, state := .active }) d)
  else d

/-- All block accesses of an OUT half under its descriptor at once: the last drain of an abandoned descriptor. -/
def drainNow (s : Nat) (x : Desc) (d : Dev) : Dev :=
  if d.overLinks x then d
  else if x.farKind = 4 then drainBadger s x d
  else
    let (runs, d) := drainPieces s x ((d.slot s).accesses x).flatten d
    bump (cSlot s 0) (((d.slot s).accesses x).map (accessCost x)).sum (writeRuns s (decide (x.farKind = 2)) (joinRuns runs) d)

/-- The shadow becomes active at a swap (R275): the half of an OUT stream is drained under the old descriptor, whose
unreleased transfers are abandoned. A slot whose command that drain has ended takes no descriptor. -/
def promote (s : Nat) (old new : Desc) (d : Dev) : Dev :=
  let owner := (d.slotRun s).owner
  let d := if old.out ∧ (d.slot s).released < old.transfers then drainNow s old (releaseNext s old d) else d
  let o := d.slot s
  if (d.slotRun s).owner ≠ owner then d
  else
    let d := if o.state ≠ .done ∧ (o.released < old.transfers ∨ old.out = true) then
        writeStreamRecord s false (decide (o.released < old.transfers)) d
      else d
    activate s new { owner := owner, program := true, fed := false, half := o.half } d

/-- The exchange of a swap (R271): halves exchange, the next transfer is released, a waiting shadow is promoted. -/
def exchange (s : Nat) (d : Dev) : Dev :=
  let o := d.slot s
  let d := modSlot s (fun o => { o with half := !o.half }) d
  match o.desc, o.shadow with
  | some x, some y => promote s x y d
  | some x, none => releaseNext s x d
  | none, _ => d

/-- A late swap holds the group (R74, R288, R290). -/
def lateSwap (s q : Nat) (i : U32) (d : Dev) : Dev :=
  let d := setSlotBit s 5 (modSlot s (fun o => { o with late := true, lateCount := stick32 o.lateCount 1 }) (bump (cSlot s 1) 1 d))
  modJob q i (fun j =>
    { j with
      held := true, heldSince := if j.held then j.heldSince else d.time.ft,
      lateSlots := if j.lateSlots.contains s then j.lateSlots else j.lateSlots ++ [s] }) d

/-- A swap that falls on the cycle at which the hold line has stopped the group takes place when the group resumes (R74). -/
def joinSwap (s q : Nat) (i : U32) (d : Dev) : Dev :=
  modJob q i (fun j => { j with lateSlots := if j.lateSlots.contains s then j.lateSlots else j.lateSlots ++ [s] }) d

/-- A program's SWAP. In thread mode, or outside a job, it only waits (R297). A held core swaps nothing before its group
resumes. -/
def swapSlot (s : Nat) (d : Dev) : Dev :=
  let o := d.slot s
  if o.swappable then
    match d.mesh.jobs.find? (fun j => j.held && j.cores.contains (d.logicalOf (s / 8))) with
    | some j => joinSwap s j.queue j.index d
    | none => exchange s (coreProgress (s / 8) d)
  else if !o.working then d
  else match d.ownerOf (s / 8) with
    | none => d
    | some (q, i) => lateSwap s q i (coreProgress (s / 8) d)

/-- Cycles at the nominal clock of fabric-time units. -/
def unitCycles (u : Nat) : Nat := u * 17 / 320

/-- A held group resumes (R74): the late swaps take place, and each core counts the cycles held. -/
def resumeGroup (q : Nat) (i : U32) (d : Dev) : Dev :=
  match d.job q i with
  | none => d
  | some j =>
    if j.held = true ∧ j.lateSlots.all (fun s => (d.slot s).swappable) = true then
      let n := unitCycles (d.time.ft - j.heldSince).toNat
      let d := forEach (fun c d => match d.placeOf c with
        | some p => bump (cCore p 7) n d
        | none => d) j.cores d
      let d := modJob q i (fun j => { j with held := false, lateSlots := [] }) d
      forEach exchange j.lateSlots d
    else d

/-! ## Arbitration and block accesses (R283 to R287) -/

/-- Effective priority of a slot (R284, R304). -/
def Dev.effPriority (d : Dev) (s : Nat) : Nat :=
  match (d.slot s).desc with
  | none => 0
  | some x =>
    if x.priority ≠ 0 then x.priority.toNat
    else match (d.slotRun s).owner with
      | some (q, _) => 2 * (d.queue q).priority.toNat + 1
      | none => 1

/-- Due time of a slot's transfer in fabric-time units, none for DEADLINE 0 (R285) and in thread mode (R297). -/
def Dev.dueTime (d : Dev) (s : Nat) : Option Nat :=
  match (d.slot s).desc with
  | none => none
  | some x => if x.deadline = 0 ∨ (d.core (s / 8)).entry.thread = true then none else some ((d.slot s).releasedAt.toNat + x.deadline.toNat * 320 / 17)

/-- The slots of a list with the least of a measure. -/
def leastBy (f : Nat → Nat) (l : List Nat) : List Nat :=
  let m := (l.map f).foldl min ((l.map f).headD 0)
  l.filter (fun s => f s = m)

/-- The slot that issues next on a side (R284, R285). -/
def Dev.chosen (d : Dev) (side : Nat) : Option Nat :=
  let l := d.ready side
  if (d.side side).mode then
    let due := l.filter (fun s => (d.dueTime s).isSome)
    let pool := if due.isEmpty then l else leastBy (fun s => (d.dueTime s).getD 0) due
    (leastBy d.streamNo pool).head?
  else
    let top := leastBy (fun s => 16 - d.effPriority s) l
    let last := (d.side side).lastServed
    (leastBy (fun s => (d.streamNo s + 2 ^ 14 - (last + 1)) % 2 ^ 14) top).head?

/-- Where an access starts and the bytes it spans. -/
def accessSpan (a : List Piece) : Nat × Nat :=
  let lo := (a.map (·.addr)).foldl min ((a.map (·.addr)).headD 0)
  let hi := (a.map (fun p => p.addr + p.len)).foldl max 0
  (lo, hi - lo)

/-- Issue a slot's next access on a side: count it, send a host read, or write an OUT access. -/
def issueBlock (side s : Nat) (x : Desc) (a : List Piece) (d : Dev) : Dev :=
  let d := modSide side (fun v => { v with lastServed := d.streamNo s }) d
  let d := modSlot s (fun o => { o with issued := o.issued + 1 }) d
  if x.farKind = 4 then modSlot s (fun o => { o with returned := o.returned + 1 }) (drainBadger s x d)
  else
    let cost := accessCost x a
    let d := bump (cSlot s 0) cost (bump (cSide side 0) cost (bump (cSide side 1) ((a.map (·.len)).sum) d))
    let d := if x.farKind = 2 then d else bump (cChan (channelOf ((accessSpan a).1 % 2 ^ 40)) 5) cost d
    if x.out then
      let (runs, d) := drainPieces s x a d
      let d := writeRuns s (decide (x.farKind = 2)) (joinRuns runs) d
      slotProgress s (modSlot s (fun o => { o with returned := o.returned + 1 }) d)
    else if x.farKind = 2 then hostRead (s + 2 ^ 22 * (d.slot s).gen.toNat) (accessSpan a).1 (accessSpan a).2 d
    else d

/-- The bytes of an access's parts, taken from the bytes it spans. -/
def takeParts (lo : Nat) (data : List (Byte × Bool)) : List Piece → List (Byte × Bool)
  | [] => []
  | p :: ps => (data.drop (p.addr - lo)).take p.len ++ takeParts lo data ps

/-- Poisoned granules among the parts of an access. -/
def partGranules (lo : Nat) (data : List (Byte × Bool)) (a : List Piece) : List Nat :=
  ((a.map (fun p => (granulesOf p.addr p.len).filter (fun g =>
    ((data.drop (max (64 * g) p.addr - lo)).take (min (64 * g + 64) (p.addr + p.len) - max (64 * g) p.addr)).any (·.2)))).flatten).eraseDups

/-- An access's bytes arrive from address lo onward. -/
def accessArrives (s : Nat) (x : Desc) (lo : Nat) (data : List (Byte × Bool)) (a : List Piece) (d : Dev) : Dev :=
  let bad := partGranules lo data a
  let d := poisonIn s bad.length (64 * bad.headD 0) d
  let d := landBytes s x (takeParts lo data a) d
  slotProgress s (modSlot s (fun o => { o with returned := o.returned + 1 }) d)

/-- The access of a slot that has been issued and has not returned; what a KILL found issued still completes (R296). -/
def Dev.outstanding (d : Dev) (s : Nat) : Option (Desc × List Piece) :=
  let o := d.slot s
  match if (o.state = .active ∨ o.state = .killed) ∧ o.returned < o.issued then o.desc else none with
  | none => none
  | some x => if x.out then none else ((o.accesses x)[o.returned]?).map (fun a => (x, a))

/-- BLOCK_RETURN (R388, R398): the oldest issued stack access of a slot returns its aligned block. errors: the damaged
symbols of its four granules. -/
def execBlockReturn (slot : SlotId) (errors : List (List SymbolError)) (s : State) : Host.Outcome State Fault Refusal :=
  lift (fun d =>
    match d.outstanding slot.val with
    | none => d
    | some (x, a) =>
      if d.nearStacks x = false ∨ (d.slot slot.val).state = .killed then d
      else
        let lo := (accessSpan a).1 % 2 ^ 40 / 256 * 256
        let (granules, d) := readBlock s.bounds 0 (lo / 64) errors 4 d
        let data := (granules.map (fun g => g.1.map (fun b => (b, g.2)))).flatten
        accessArrives slot.val x ((accessSpan a).1 / 256 * 256) data a d) s

/-- A host read's data reach a slot (R291, R381). Data of a generation that the slot no longer fills are discarded (R276). -/
def hostDataArrives (s : Nat) (gen : U16) (bytes : List Byte) (poisoned : Bool) (d : Dev) : Dev :=
  match if gen = (d.slot s).gen then d.outstanding s else none with
  | none => if gen = (d.slot s).gen then aerReport 2 d else d
  | some (x, a) =>
    let (lo, n) := accessSpan a
    if x.farKind ≠ 2 ∨ bytes.length ≠ n then aerReport 2 d
    else
      let d := traceAdd 6 0x15 (match (d.slotRun s).owner with
        | some (q, _) => q
        | none => 0) (match (d.slotRun s).owner with
        | some (_, i) => i
        | none => 0) (d.globalStream s) bytes d
      accessArrives s x lo (bytes.map (fun b => (b, poisoned))) a (guarded poisoned (aerReport 1) d)

/-- PCIE_COMPLETION: data of a host read, or an unexpected completion, which is discarded and reported (R535). -/
def execPcieCompletion (slot : SlotTag) (bytes : List Byte) (poisoned : Bool) (s : State) : Host.Outcome State Fault Refusal :=
  lift (fun d => guarded (!d.fromTrace 4) (hostDataArrives slot.slot.val slot.gen bytes poisoned) d) s

/-! ## Completion of transfers (R270, R281, R298) -/

/-- Whether the transfer in hand is complete. -/
def Dev.transferDone (d : Dev) (s : Nat) (x : Desc) : Bool :=
  let o := d.slot s
  if x.farKind = 3 then true
  else if x.out then
    if d.overLinks x then decide (o.issued ≤ o.returned) && (decide (x.farKind ≠ 5) || decide (0 < o.returned))
    else decide ((o.accesses x).length ≤ o.returned)
  else d.landedAll s x

/-- A LOCAL stream's transfer: its elements read from local memory and landed; its far side too is moved in blocks, which
the slot counts (R266, R283, R291, R299). -/
def localTransfer (s : Nat) (x : Desc) (d : Dev) : Dev :=
  let o := d.slot s
  let (e0, k) := x.transfer o.current
  forEach (fun e d =>
    let data := (d.core (s / 8)).marked (x.elemAddr e).toNat x.farSize
    landElem s x e data d) (rangeFrom e0 k)
    (let c := d.core (s / 8)
     let gs := (((rangeFrom e0 k).map (fun e => granulesOf (x.elemAddr e).toNat x.farSize)).flatten).eraseDups
     let bad := gs.filter (fun g => look false c.lmPoison g)
     poisonIn s bad.length (64 * bad.headD 0) (bump (cSlot s 0) (o.accesses x).length d))

/-- Whether a LINK half's sender lies outside the job that receives it (R370, R382). -/
def Dev.outsideJob (d : Dev) (s : Nat) (x : Desc) : Bool :=
  match (d.slotRun s).owner with
  | none => false
  | some (q, i) =>
    let members := match d.cmdImage q i with
      | some im => match im.group with
        | some g => ((d.group g.toNat).box.map Box.members).getD []
        | none => []
      | none => []
    decide (x.farKind = 5) && !members.contains (bits x.farAddr.toNat 27 14)

/-- In a replay, a half from a sender outside the job comes from its journal record (R367, R374 step 6). -/
def replayHalf (s : Nat) (x : Desc) (d : Dev) : Dev :=
  match (d.slotRun s).owner with
  | none => d
  | some (q, i) =>
    match if x.farKind = 5 ∧ x.out = false ∧ (d.slot s).state = .active ∧ (d.slotRun s).landed = 0
        then d.replayRecord 0x04 q i (d.globalStream s) else none with
    | some r => landBytes s x (r.payload.map (fun b => (b, false))) d
    | none => d

/-- Journal and trace records of a half that has landed (R368, R370, R381). A replayed transfer is checked against its record:
one that differs fails the replay (R368, R376). -/
def journalHalf (s : Nat) (x : Desc) (d : Dev) : Dev :=
  let o := d.slot s
  let n := (x.transfer o.current).2 * x.nearSize
  let bytes := (d.core (s / 8)).bytesAt (x.half o.half) n
  match (d.slotRun s).owner with
  | none => d
  | some (q, i) =>
    let src := d.globalStream s
    match d.replayRecord 0x03 q i src with
    | some r =>
      if r.check = crc32c bytes then notePassed q i src d
      else stopCmd 0x10 0 q i (bump (cOwl 1) 1 (bump (cOwl 2) 1 d))
    | none =>
      let d := notePassed q i src (journalAdd 0x03 q i src (crc32c bytes) [] d)
      if d.outsideJob s x then
        traceAdd 5 0x14 q i src bytes (journalAdd 0x04 q i src (crc32c bytes) bytes d)
      else d

/-- Complete a COPY whose last stage is DONE (R323): COUNT is the elements of that stage. -/
def copyDone (s : Nat) (x : Desc) (d : Dev) : Dev :=
  match (d.slotRun s).owner with
  | none => d
  | some (q, i) => match d.cmd q i with
    | none => d
    | some c => match c.work with
      | .copy _ =>
        if x.chained then d
        else finishCmd q i (modCmd q i (fun c => { c with count := (d.slotRun s).elements.setWidth 32 }) d)
      | _ => d

/-- A slot becomes DONE (R272, R298). -/
def slotDone (s : Nat) (x : Desc) (d : Dev) : Dev :=
  copyDone s x (writeStreamRecord s false false (modSlot s (fun o => { o with state := .done }) d))

/-- Whether the stage that takes a chained half has finished its previous one. -/
def Dev.nextFree (d : Dev) (s : Nat) (x : Desc) : Bool :=
  match d.nextSlot s x with
  | none => true
  | some t => decide ((d.slot t).state = .wait ∧ (d.slot t).released + 1 = (d.slot s).released)

/-- The state of a slot whose transfer is complete (R272). -/
def afterTransfer (s : Nat) (x : Desc) (d : Dev) : Dev :=
  let o := d.slot s
  if x.chained = true ∧ x.out = false ∧ (d.nextFree s x = false ∨ o.spilled = true) then modSlot s (fun o => { o with state := .blocked }) d
  else if o.released < x.transfers then modSlot s (fun o => { o with state := .wait }) d
  else slotDone s x d

/-- A thread that waits in SWAP for a slot's half goes on when it is complete, and the halves exchange (R297). -/
def wakeSwap (s : Nat) (d : Dev) : Dev :=
  let waits (t : Thread) : Bool := decide (t.swap = some s)
  if (d.slot s).swappable && (d.core (s / 8)).threads.any (fun t => waits t.2) then
    exchange s (modCore (s / 8) (fun c => { c with
      threads := c.threads.map (fun t => if waits t.2 then (t.1, { t.2 with swap := none }) else t) }) d)
  else d

/-- TRANSFER_COMPLETE (R270): the engine's transfer of a slot is complete; an OUT half that the far side of a link has not yet
taken leaves the slot BLOCKED (R272). -/
def completeTransfer (s : Nat) (d : Dev) : Dev :=
  let o := d.slot s
  match if (o.state = .active ∨ (o.state = .blocked ∧ o.spilled = false)) ∧ o.released ≠ 0 then o.desc else none with
  | none => d
  | some x =>
    let d := replayHalf s x d
    if d.transferDone s x = false ∨ (x.out = true ∧ o.spilled = true) then
      (if d.overLinks x = true ∧ x.out = true then modSlot s (fun o => { o with state := .blocked }) d else d)
    else if o.state = .blocked ∧ x.out = false then d
    else
      let d := if x.farKind = 3 then localTransfer s x d else d
      let d := if x.out then d else journalHalf s x d
      if (d.slot s).state = .killed ∨ (d.slot s).state = .idle then d
      else wakeSwap s (afterTransfer s x (slotProgress s d))

/-- TRANSFER_COMPLETE. -/
def execTransferComplete (slot : SlotId) (s : State) : Host.Outcome State Fault Refusal :=
  lift (completeTransfer slot.val) s

/-- The hand-over of a complete half from a chain stage to the next (R281). -/
def handOver (s : Nat) (d : Dev) : Dev :=
  let o := d.slot s
  match if (o.state = .wait ∨ o.state = .done ∨ o.state = .blocked) ∧ o.spilled = false ∧ o.released ≠ 0 then o.desc else none with
  | none => d
  | some x =>
    match d.nextSlot s x with
    | none => d
    | some t =>
      if x.out ∨ d.nextFree s x = false then d
      else
        let d := modSlot t (fun y => { y with released := y.released + 1, state := .active, half := o.half }) d
        let d := startTransfer t d
        let d := modSlot s (fun y => { y with half := !y.half }) d
        if o.released < x.transfers then releaseNext s x d
        else if o.state = .blocked then slotDone s x d
        else d

/-- CHAIN_HANDOVER (R281). -/
def execChainHandover (slot : SlotId) (s : State) : Host.Outcome State Fault Refusal := lift (handOver slot.val) s

/-! ## Spills (R293, R294) -/

/-- Device address of a spill frame (R390). -/
def spillAddr (f : Nat) : Nat := 0xFF10000000 + f * 524288

/-- Free spill frames. -/
def Dev.freeFramesList (d : Dev) : List Nat :=
  (List.range 512).filter (fun f => decide (look none d.streams.spill f = none))

/-- Whether a slot is a member of a wait cycle that has stood 4,096 cycles: BLOCKED, or late in a held group, and its
command without progress that long (R293). -/
def Dev.stuck (d : Dev) (s : Nat) : Bool :=
  let o := d.slot s
  let waits := decide (o.state = .blocked) || d.mesh.jobs.any (fun j => j.held && j.lateSlots.contains s)
  let quiet := match (d.slotRun s).owner with
    | none => true
    | some (q, i) => match d.cmd q i with
      | some c => decide (4096 ≤ unitCycles (d.time.ft - c.lastProgress).toNat)
      | none => true
  waits && quiet

/-- The full half of a slot: a BLOCKED one's that has not been spilled. -/
def Dev.fullHalf (d : Dev) (s : Nat) : Option (Nat × Nat) :=
  let o := d.slot s
  match if o.state = .blocked ∧ (d.slotRun s).owed.any (fun w => w.1 = o.current) = false then o.desc else none with
  | none => none
  | some x => some (x.half o.half, (x.transfer o.current).2 * x.nearSize)

/-- A spilled half is free (R272, R293): a chain stage goes on to its next transfer, or is DONE; an OUT half still waits for
its far side, and its slot waits for a swap while transfers remain. -/
def freeHalf (s : Nat) (x : Desc) (d : Dev) : Dev :=
  let o := d.slot s
  if x.out then
    let d := modSlotRun s (fun r => { r with owed := r.owed ++ [(o.current, o.issued - o.returned)] }) d
    modSlot s (fun o => { o with returned := o.issued, state := if o.released < x.transfers then .wait else .blocked }) d
  else if o.released < x.transfers then releaseNext s x d
  else slotDone s x d

/-- Spill the full half of the lowest-numbered stream of a cycle (R293): a free frame, which one being left open. -/
def spillCycle (cycle : List Nat) (d : Dev) : Dev :=
  let full := cycle.filter (fun s => (d.fullHalf s).isSome)
  match if cycle.all d.stuck then (leastBy d.globalStream full).head? else none with
  | none => d
  | some s => match d.fullHalf s, (d.slot s).desc with
    | some (a, n), some x =>
      let (f, d) := pickOne d.freeFramesList d
      match f with
      | none => d
      | some f =>
        let data := (d.core (s / 8)).marked a n
        let d := memLand 0 (spillAddr f) data d
        let d := { d with streams := { d.streams with spill := put none d.streams.spill f (some s) } }
        let d := modSlot s (fun o => { o with spilled := true }) d
        let d := modSlotRun s (fun r => { r with frames := r.frames ++ [f], everSpilled := true }) (bump (cSlot s 3) 1 d)
        freeHalf s x (raiseEvent 0x2003 (0x4000 + s) (pack [(4, d.globalStream s), (4, f)] []) d)
    | _, _ => d

/-- STREAM_SPILL. A cycle has at least one stream. -/
def execStreamSpill (cycle : List SlotId) (s : State) : Host.Outcome State Fault Refusal :=
  lift (spillCycle (cycle.map (·.val))) s

/-- The oldest frame of a slot is free. -/
def returnFrame (s f : Nat) (d : Dev) : Dev :=
  let d := { d with streams := { d.streams with spill := put none d.streams.spill f none } }
  let d := modSlotRun s (fun r => { r with frames := r.frames.drop 1, owed := r.owed.drop 1 }) d
  modSlot s (fun o => { o with spilled := !(d.slotRun s).frames.isEmpty }) d

/-- SPILL_REFILL (R293): the oldest spilled half is delivered before any later one. A chain's next stage takes it, with its
poison bits, into the half that it has drained; an OUT half is delivered when its far side has taken all of it. -/
def refillSlot (s : Nat) (d : Dev) : Dev :=
  match (d.slot s).desc, (d.slotRun s).frames.head? with
  | some x, some f =>
    if x.out then
      if ((d.slotRun s).owed.head?.map (·.2)) = some 0 then
        let d := returnFrame s f d
        if (d.slot s).state = .blocked ∧ (d.slot s).spilled = false ∧ d.transferDone s x = true then afterTransfer s x d else d
      else d
    else match d.nextSlot s x with
      | none => d
      | some t =>
        if (d.slot t).state ≠ .wait then d
        else
          let y := d.slot t
          let data := d.marked (spillAddr f) ((x.transfer y.released).2 * x.nearSize)
          let d := returnFrame s f (modCore (s / 8) (fun c => c.land (x.half y.half) data) d)
          startTransfer t (modSlot t (fun y => { y with released := y.released + 1, state := .active }) d)
  | _, _ => d

/-- SPILL_REFILL. -/
def execSpillRefill (slot : SlotId) (s : State) : Host.Outcome State Fault Refusal := lift (refillSlot slot.val) s

/-! ## Arbitration control (R286, R287) -/

/-- Put a side's mode in force; a change counts (R286). -/
def setSideMode (n : Nat) (m : Bool) (d : Dev) : Dev :=
  if (d.side n).mode = m then d
  else bump (cSide n 3) 1 (modSide n (fun v => { v with mode := m }) d)

/-- The mode a side follows. -/
def Side.wanted (v : Side) : Bool :=
  match v.force.toNat with
  | 1 => false
  | 2 => true
  | _ => v.owlChoice

/-- At a Den clock edge a side's mode follows FORCE, or the Owl's latest choice (R286, R287). -/
def sideEdge (d : Dev) : Dev := forEach (fun n d => setSideMode n (d.side n).wanted d) [0, 1, 2] d

/-- A write to FORCE (R287). -/
def forceSide (n v : Nat) (d : Dev) : Dev :=
  let f := v % 4
  if f = 3 ∨ (n = 2 ∧ f = 2) then d else modSide n (fun x => { x with force := BitVec.ofNat 2 f }) d

/-- ARBITRATION_FORCE. -/
def execArbitrationForce (side : Fin 3) (value : U64) (s : State) : Host.Outcome State Fault Refusal :=
  lift (forceSide side.val value.toNat) s

/-! ## COPY (R323) -/

/-- The descriptor bytes of stage i of a COPY. -/
def copyStage (b : List Byte) (i : Nat) : List Byte := slice b (64 * (1 + 2 * i)) 128

/-- Banks of a COPY's descriptor (R269): the halves of a pair share no bank. -/
def copyBanks (x : Desc) : Bool :=
  let a := banksOf x.nearA.toNat x.halfBytes.toNat
  let b := banksOf x.nearB.toNat x.halfBytes.toNat
  a.all (fun k => !b.contains k)

/-- First fault of stage i of a COPY, from the first entry (R269, R281, R282, R323): next is stage i + 1. -/
def stageFault (d : Dev) (b : List Byte) (core first n i : Nat) : Option Nat :=
  let base := 64 * (1 + 2 * i)
  let bytes := copyStage b i
  let x := parseDesc bytes
  let y := parseDesc (copyStage b (i + 1))
  let want := if i + 1 = n then 0x3FFF else 8 * core + first + i + 1
  match descFault d bytes copyBanks with
  | some o => some (base + o)
  | none =>
    if x.armGen ≠ 0 then some (base + 0xE)
    else if x.out ≠ decide (i % 2 = 1) then some (base + 9)
    else if x.next.toNat ≠ want then some (base + 0x66)
    else if i + 1 < n ∧ chainLink x y = false then some (base + 128)
    else none

/-- Faults of a COPY; an absent core is named by CORE. -/
def copyFault (d : Dev) (b : List Byte) : Option Nat :=
  let core := field b 0x10 2
  let first := field b 0x12 1
  let n := field b 0x13 1
  if (d.placeOf core).isNone then some 0x10
  else if 8 < first + n then some 0x12
  else match reservedFault b [(0x14, 44)] with
    | some o => some o
    | none => (List.range n).findSome? (stageFault d b core first n)

/-- Banks that a COPY's descriptors name. -/
def copyBankList (b : List Byte) : List Nat :=
  ((List.range (field b 0x13 1)).map (fun i =>
    let x := parseDesc (copyStage b i)
    banksOf x.nearA.toNat x.halfBytes.toNat ++ banksOf x.nearB.toNat x.halfBytes.toNat)).flatten

/-- The slots of a COPY. -/
def copySlots (p : Nat) (b : List Byte) : List Nat := rangeFrom (8 * p + field b 0x12 1) (field b 0x13 1)

/-- Whether the slots and banks of a COPY are busy: in use by a stream, or of a job or task that does not lend them. -/
def copyBusy (d : Dev) (p : Nat) (b : List Byte) : Bool :=
  let slots := copySlots p b
  let inUse := slots.any (fun s => (d.slot s).working || (d.slotRun s).owner.isSome)
  let others := (rangeFrom (8 * p) 8).filter (fun s => !slots.contains s && (d.slot s).working)
  let taken := (others.filterMap (fun s => match (d.slotRun s).owner with
    | some (q, i) => match d.cmd q i with
      | some c => match c.work with
        | .copy _ => (d.slot s).desc
        | _ => none
      | none => none
    | none => none)).map (fun x => banksOf x.nearA.toNat x.halfBytes.toNat ++ banksOf x.nearB.toNat x.halfBytes.toNat)
  let clash := taken.flatten.any (fun k => (copyBankList b).contains k)
  let notLent := match d.coreImage (d.logicalOf p) with
    | some im => !slots.all (fun s => im.lendSlots.any (fun t => t.val = s % 8))
    | none => false
  inUse || clash || notLent

/-- Whether the banks of a COPY on a core that runs a job are lendable banks of that job (R269). -/
def copyLent (d : Dev) (p : Nat) (b : List Byte) : Bool :=
  match d.coreImage (d.logicalOf p) with
  | some im => (copyBankList b).all (fun k => im.lendBanks.any (fun l => l.toNat = k))
  | none => true

/-- Arm the stages of a COPY, the last first, each with its slot's next generation (R323). -/
def armCopy (q : Nat) (c : Cmd) (p : Nat) (d : Dev) : Dev :=
  let b := c.bytes
  let n := field b 0x13 1
  let slots := copySlots p b
  let d := modCmd q c.index (fun c => { c with work := .copy slots }) d
  forEach (fun i d =>
    let s := slots.getD i 0
    let g := (d.slot s).latestGen + 1
    let x := { parseDesc (copyStage b i) with armGen := g }
    activate s x { owner := some (q, c.index), program := false, fed := decide (i % 2 = 1), half := false } d) (List.range n).reverse d

/-- Try a COPY: its faults, its wait while slots and banks are busy, its arming. -/
def tryCopy (q : Nat) (c : Cmd) (d : Dev) : Dev :=
  match copyFault d c.bytes with
  | some o => badCommand q c.index o d
  | none => match d.placeOf (field c.bytes 0x10 2) with
    | none => d
    | some p =>
      if copyBusy d p c.bytes then d
      else if !copyLent d p c.bytes then badCommand q c.index 0x90 d
      else armCopy q c p d

/-- Commands of a queue that have started and still wait for their cores or slots. -/
def Dev.waitingCmds (d : Dev) (q : Nat) (op : Nat) : List Cmd :=
  (d.live q).filter (fun c => isOpcode op c.bytes && decide (c.work = .plain))

/-- COPY: the head starts, and a COPY that waits is tried again. -/
def execCopy (q : QueueId) (s : State) : Host.Outcome State Fault Refusal :=
  lift (fun d =>
    let d := forEach (tryCopy q.toNat) (d.waitingCmds q.toNat 5) d
    startKind q.toNat (isOpcode 5) 0 (tryCopy q.toNat) d) s

end Sys2Proof.Machine
end

