-- ==== Sys2Proof/Machine/Towers.lean ====
section
/-! DEFINITION. Dense groups: shapes, shards and their layouts, owners, and the stash's header (R64, R65, R165, R239 to R241, R249, R254). -/

namespace Sys2Proof.Machine
open Sys2Proof

/-! ## Groups and weight blocks (R64, R65, R165) -/

/-- The logical cores of a group of g cores in ring order (R165); none for a size of no shape. -/
def ringOf (f g : Nat) : List Nat :=
  if g = 1 then [f]
  else if g = 2 then (if f % 40 ≤ 38 then [f, f + 1] else [])
  else if g % 2 = 0 ∧ 4 ≤ g ∧ g ≤ 80 ∧ f % 40 + g / 2 ≤ 40 ∧ f / 40 + 1 < 30 then
    rangeFrom f (g / 2) ++ (rangeFrom (f + 40) (g / 2)).reverse
  else []

/-- The cores of a stage in ring order. -/
def stageRing (s : StageDecl) : List Nat := ringOf s.first.toNat s.size

/-- k_s of a format pair, or none where the pair does not enter the array (R64). -/
def stepShape (l w : Fmt) : Option Nat :=
  match l, w with
  | .lf16, .lf16 => some 32
  | .lf8r, .lf8r | .lf8r, .lf8p | .lf8p, .lf8r | .lf8p, .lf8p => some 64
  | .int8, .int8 => some 64
  | .lf32, .lf32 => some 8
  | _, _ => none

/-- Bytes of a weight block (R64). -/
def blockBytes (w : Fmt) : Nat :=
  match w with
  | .lf16 => 2048
  | .lf8r | .lf8p | .int8 => 4096
  | .lf32 => 1024
  | _ => 0

/-- Byte of weight (k, n) in its block: one row of 32 weights per k, at equal distances (log entry 22). -/
def weightAt (w : Fmt) (ks k n : Nat) : Nat := blockBytes w / ks * k + w.size * n

/-! ## Shards (R239 to R241) -/

/-- k_s of a tensor's blocks. -/
def tensorKs (t : TensorDecl) : Nat := (stepShape t.fmt t.fmt).getD 1
/-- Column tiles of a layout: of W forward, of its transpose backward. -/
def tensorTiles (t : TensorDecl) (back : Bool) : Nat := ceilDiv (if back then t.k else t.n) 32
/-- Weight blocks of a tile. -/
def tensorDepth (t : TensorDecl) (back : Bool) : Nat := ceilDiv (if back then t.n else t.k) (tensorKs t)

/-- Tiles ⌊i × T / G⌋ to ⌊(i + 1) × T / G⌋ − 1 of shard i: the first and how many; a replicated tensor is one shard. -/
def shardOf (t : TensorDecl) (back : Bool) (g i : Nat) : Nat × Nat :=
  let n := tensorTiles t back
  if t.sharded then (i * n / g, (i + 1) * n / g - i * n / g) else (0, n)

/-- Bytes of a shard: whole blocks for a matrix, elements for a vector of columns. -/
def shardBytes (t : TensorDecl) (back : Bool) (g i : Nat) : Nat :=
  let m := (shardOf t back g i).2
  if t.kind.val = 1 then m * tensorDepth t back * blockBytes t.fmt else 32 * m * t.fmt.size

/-- The offset of element (k, n) in shard i of a layout, where the shard holds it: its tiles in order, the blocks of a tile in order
(log entry 116). -/
def shardPlace (t : TensorDecl) (back : Bool) (g i k n : Nat) : Option Nat :=
  let (f, m) := shardOf t back g i
  let (r, c) := if back then (n, k) else (k, n)
  if c / 32 < f ∨ f + m ≤ c / 32 then none
  else if t.kind.val = 1 then
    some (((c / 32 - f) * tensorDepth t back + r / tensorKs t) * blockBytes t.fmt + weightAt t.fmt (tensorKs t) (r % tensorKs t) (c % 32))
  else if back then none else some ((c - 32 * f) * t.fmt.size)

/-- The ring position of the owner of an element of column n (R241). -/
def shardOwner (t : TensorDecl) (g n : Nat) : Nat :=
  if t.sharded then (List.range g).findIdx (fun i => let s := shardOf t false g i; decide (s.1 ≤ n / 32 ∧ n / 32 < s.1 + s.2))
  else n / 32 % g

/-- Local addresses of the stash slots of a layout. -/
def stashSlotsOf (t : TensorDecl) (back : Bool) : List (BitVec 20) := if back then t.bwdSlots else t.fwdSlots
/-- Local addresses of the weight-store halves of a layout. -/
def halfOf (t : TensorDecl) (back b : Bool) : Nat :=
  let h := if back then t.bwdHalves else t.fwdHalves
  (if b then h.2 else h.1).toNat

/-- The tensor of an image, with its tower and stage. -/
def imageTensor (im : LoadImage) (id : U32) : Option (TowerDecl × StageDecl × TensorDecl) :=
  im.towers.findSome? (fun w => w.stages.findSome? (fun s => (s.tensors.find? (fun t => t.id = id)).map (fun t => (w, s, t))))

/-- The tensor that takes a deferred sum of a layer and kind. -/
def sumTensor (im : LoadImage) (layer : Byte) (kind : Nat) : Option (TowerDecl × StageDecl × TensorDecl) :=
  im.towers.findSome? (fun w => w.stages.findSome? (fun s =>
    (s.tensors.find? (fun t => decide (t.layer = layer ∧ t.kind.val = kind))).map (fun t => (w, s, t))))

/-- The logical core that owns the elements of column n of a tensor. -/
def ownerCore (s : StageDecl) (t : TensorDecl) (n : Nat) : Nat := (stageRing s).getD (shardOwner t (stageRing s).length n) 2047

/-- The cores of a tower. -/
def towerCores (w : TowerDecl) : List Nat := ((w.stages.map stageRing).flatten).eraseDups

/-- The key of an owned element: tensor and element index k × N + n. -/
def elemKey (tensor : U32) (e : Nat) : Nat := tensor.toNat * 2 ^ 48 + e

/-! ## The stash (R249, R251) -/

/-- A version is live while it is the newest or some micro-batch's TAG names it; one that is not becomes RETIRED (R251). -/
def Stash.judge (t : Stash) : Stash :=
  { t with slots := t.slots.map (fun x =>
      if x.state = 1 ∧ x.version ≠ t.newest ∧ t.readers x.version = 0 then { x with state := 2 } else x) }

/-- Cycles of the 850 MHz arithmetic clock in a fabric time (R358). -/
def stashCycles (u : Nat) : Nat := u * 17 / 320

/-- A channel-0 barrier of the job frees the slots whose versions are no longer live, and a waiting update takes a freed slot in the
same cycle (R251). -/
def stashBarrier (a : Nat) (d : Dev) : Dev :=
  let t := d.stash a
  let slots := t.slots.map (fun x => if x.state = 2 then { version := 0, state := 0 } else x)
  if t.waiting = 0 ∨ slots.any (fun x => decide (x.state = 0)) = false then setStash a (fun t => { t with slots := slots }) d
  else
    let d := forEach (fun (x : Nat × U64) d => bump (cCore x.1 19) (stashCycles (d.time.ft - x.2).toNat) d) t.stalled d
    setStash a (fun t => { t with
      slots := updateFirst (fun x => decide (x.state = 0)) (fun x => { x with version := t.waiting, state := 3 }) slots,
      waiting := 0, stalled := [] }) d

/-- A stash whose version 0 is the loaded value (R249). -/
def loadedStash (w : TowerDecl) : Stash :=
  { Stash.reset with
    header := w.header, micro := w.micro, lag := if w.micro then w.lag else 0, u := if w.micro then w.u else 0,
    slots := { version := 0, state := 1 } :: List.replicate 3 { version := 0, state := 0 } }

end Sys2Proof.Machine
end

