-- ==== Sys2Proof/Machine/Launch.lean ====
section
/-! DEFINITION. LAUNCH, its completion and persistent tasks: cores in use, loading an image onto cores, jobs (R318, R319, R332, R333, R336). -/

namespace Sys2Proof.Machine
open Sys2Proof

/-! ## Cores in use (R165, R319) -/

/-- The logical cores of a scoring layout in ring order (R165); none for a GROUP of no shape. -/
def Layout.ring (l : Layout) : List Nat := ringOf l.firstCore.toNat l.group.toNat

/-- The cores of a present task. -/
def Dev.taskCores (d : Dev) (t : Task) : List Nat :=
  if t.present then match d.imageVersion t.image t.version with
    | some v => v.image.cores.map (·.toNat)
    | none => []
  else []

/-- Whether a batch is in a scoring group. -/
def ScoreGroup.busy (g : ScoreGroup) : Bool := g.active.isSome || g.next.isSome || g.finishing.isSome

/-- Whether a logical core runs a job: a LAUNCH, a task's image, a batch or a chain of a COPY. -/
def Dev.coreBusy (d : Dev) (core : Nat) : Bool :=
  d.mesh.jobs.any (fun j => j.cores.contains core) ||
    d.fe.tasks.any (fun t => (d.taskCores t.2).contains core) ||
    d.scoring.groups.any (fun g => g.2.busy && (match g.2.layout with
      | some l => l.ring.contains core
      | none => false)) ||
    (match d.placeOf core with
      | some p => (rangeFrom (8 * p) 8).any (fun s => (d.slotRun s).owner.isSome)
      | none => false)

/-! ## Loading (R244, R254, R319) -/

/-- A deferred-work entry of 16 bytes, with the cycle from which it may run (R244, R245). -/
def parseDefer (ready : Nat) (b : List Byte) : DeferItem :=
  { kind := byteAt b 0, layer := byteAt b 1, micro := BitVec.ofNat 16 (field b 2 2), kTile := BitVec.ofNat 16 (field b 4 2),
    nTile := BitVec.ofNat 16 (field b 6 2), owner := BitVec.ofNat 11 (field b 8 2), cycles := BitVec.ofNat 16 (field b 0xA 2),
    chunk := BitVec.ofNat 32 (field b 0xC 4), ready := ready }

/-- The physical index that carries a core, for a core that is present. -/
def onCore (core : Nat) (f : Core → Core) (d : Dev) : Dev := match d.placeOf core with
  | some p => modCore p f d
  | none => d

/-- An owned element as it is loaded: its working value is the one that stash slot 0 holds (R241, R249). -/
def loadOwned (im : LoadImage) (core : Nat) (c : Core) (m : Sparse OwnedElem) (o : U32 × Nat × U32 × U32) : Sparse OwnedElem :=
  match imageTensor im o.1 with
  | none => m
  | some (_, s, t) =>
    let n := o.2.1 % t.n
    if ownerCore s t n ≠ core then m
    else
      let at_ := (shardPlace t false (stageRing s).length (shardOwner t (stageRing s).length n) (o.2.1 / t.n) n).getD 0
      let a := (t.fwdSlots.headD 0).toNat + at_
      put OwnedElem.reset m (elemKey o.1 o.2.1)
        { OwnedElem.reset with master := o.2.2.1, state := o.2.2.2, working := BitVec.ofNat 32 (leNat (c.bytesAt a t.fmt.size)) }

/-- A deferred-work list of a core of an image (R244). -/
def deferList (im : LoadImage) (core : Nat) (array : Bool) : List DeferItem :=
  ((im.deferred.filter (fun l => decide (l.core.toNat = core) && l.array == array)).map
    (fun l => l.entries.map (fun e => parseDefer e.1 e.2))).flatten

/-- The deferred lists that the loader writes on a core, in its local memory too, and its owned elements (R244, R319). -/
def loadLists (im : LoadImage) (core : Nat) (c : Core) : Core :=
  let mine := im.deferred.filter (fun l => l.core.toNat = core)
  let c := mine.foldl (fun c l => c.write l.listAt.toNat (l.entries.map (fun e => slice e.2 0 16)).flatten false) c
  { c with
    dense := { Dense.reset with
      array := deferList im core true, vector := deferList im core false, owned := im.owned.foldl (loadOwned im core c) [] },
    waiting := [], threads := [], entry := { c.entry with thread := false } }

/-- The deferred-work lists of an image are whole again: an iteration of a task runs every item anew (R244, R333). -/
def relist (im : LoadImage) (d : Dev) : Dev :=
  forEach (fun (c : BitVec 11) d => onCore c.toNat (fun x => { x with dense := { x.dense with
    array := deferList im c.toNat true, vector := deferList im c.toNat false, arrayBusy := 0, vectorBusy := 0, rotations := [] } }) d)
    im.cores d

/-- Load an image's banks, lists and stashes onto its cores (R319). -/
def loadOntoCores (im : LoadImage) (d : Dev) : Dev :=
  let d := forEach (fun (x : BitVec 11 × BitVec 20 × List Byte) d =>
    onCore x.1.toNat (fun c => c.write x.2.1.toNat x.2.2 false) d) im.contents d
  let d := forEach (fun (c : BitVec 11) d => onCore c.toNat (loadLists im c.toNat) d) im.cores d
  forEach (fun (w : TowerDecl) d => writeStash w.header.toNat (modStash w.header.toNat (fun _ => loadedStash w) d)) im.towers d

/-- Deliver a constant buffer to every core of an image (R319). -/
def deliverConstants (im : LoadImage) (bytes : List Byte) (d : Dev) : Dev :=
  forEach (fun (c : BitVec 11) d => onCore c.toNat (fun c => c.write im.constAt.toNat bytes false) d) im.cores d

/-- Whether a stage of an image's chains feeds a stream (R281). -/
def fedInImage (im : LoadImage) (stream : Nat) : Bool :=
  im.streams.any (fun y => let x := parseDesc y.2; !x.out && decide (x.next.toNat = stream ∧ y.1 ≠ stream))

/-- Arm an image's streams for a command (R265), a chain's stages together (R281). -/
def armImage (im : LoadImage) (owner : Nat × U32) (d : Dev) : Dev :=
  forEach (fun (x : Nat × List Byte) d =>
    match d.placeOf (x.1 / 8) with
    | none => d
    | some p =>
      armChecked (8 * p + x.1 % 8) (parseDesc x.2)
        { owner := some owner, program := false, fed := fedInImage im x.1, half := false } d) im.streams d

/-- A job of a command on cores (R365): its restart point is its start. -/
def newJob (q : Nat) (i : U32) (cores : List Nat) : Job :=
  { queue := q, index := i, cores := cores, held := false, lateSlots := [], heldSince := 0, arrivals := [],
    preempted := false, saved := [], killed := false, latched := [], groupArr := none, checkpoint0 := [], checkpoint1 := [], slot := false,
    segment := 0, attempts := 0, preemptedAt := 0, restoredAt := 0, cycle := 0, restartCycle := 0,
    route := [], sinks := [], flits := [], lateDense := [], overruns := [], stepClosed := false }

/-! ## Route programs (R72, R73, R83) -/

/-- The port of the next router's that faces a port: 0 north, 1 east, 2 south, 3 west. -/
def facing (port : Nat) : Nat := (port + 2) % 4

/-- The output port at a position toward another: to its column first, then to its row, as the packets of R79 go (for route programs
a DESIGN CHOICE, log entry 103). -/
def portTo (a b : Nat) : Nat :=
  if a % 42 < b % 42 then 1 else if b % 42 < a % 42 then 3 else if b / 42 < a / 42 then 0 else 2

/-- The position beyond a port. -/
def beyond (a port : Nat) : Nat :=
  match port with
  | 0 => a - 42
  | 1 => a + 1
  | 2 => a + 42
  | _ => a - 1

/-- The positions from one to another, both included (fuel: the hops). Those of fenced cores and spares pass flits (R73). -/
def pathTo : Nat → Nat → Nat → List Nat
  | 0, a, _ => [a]
  | n + 1, a, b => if a = b then [a] else a :: pathTo n (beyond a (portTo a b)) b

/-- The positions that a transfer passes, for the positions of the cores that it names. -/
def pathOf : List Nat → List Nat
  | a :: b :: rest => (pathTo 72 a b).dropLast ++ pathOf (b :: rest)
  | l => l

/-- The route entries of the routers that a flit passes, read at the given cycle; src: where the first of them takes it. -/
def stepsFrom (cycle : Nat) (src : PortSrc) : List Nat → List RouteStep
  | a :: b :: rest =>
    let out := portTo a b
    { cycle := cycle, pos := a, out := out, src := src } :: stepsFrom (cycle + 1) (.port (facing out)) (b :: rest)
  | _ => []

/-- A transfer's route entries and its end, for the core map in force: the flit crosses each router in one cycle, and is in
the local memory of a neighbour two cycles after it is read (R72). -/
def routeOf (d : Dev) (r : RouteDecl) : List RouteStep × List RouteSink :=
  let path := pathOf (r.cores.filterMap (fun c => d.placeOf c.toNat))
  let n := path.length
  match path[n - 2]?, path[n - 1]? with
  | some a, some b =>
    if n < 2 then ([], [])
    else
      let tags := match r.xs with
        | none => (0, 0)
        | some (wide, t, _) => (t.toNat, r.bytes.val / (if wide then 16 else 8))
      (stepsFrom r.cycle (.lm r.srcAddr.toNat r.bytes.val tags.1 tags.2) path,
       [{ cycle := r.cycle + (n - 1), pos := b, port := facing (portTo a b), addr := r.dstAddr.toNat,
          xs := r.xs.map (fun x => (x.1, x.2.2.toNat)) }])
  | _, _ => ([], [])

/-- The route programs of an image for the core map in force (R72, R83 step 4). -/
def routesOf (d : Dev) (im : LoadImage) : List RouteStep × List RouteSink :=
  let rs := im.routes.map (routeOf d)
  ((rs.map (·.1)).flatten, (rs.map (·.2)).flatten)

/-- Journal the restart point of a job (R370): checkpoint slot in [0], segment number in [63:1]. -/
def journalSegment (q : Nat) (i : U32) (d : Dev) : Dev :=
  match d.job q i with
  | none => d
  | some j => journalPoint q i j.slot j.segment d

/-- Start a job: routes set, streams armed, job listed, its restart point journalled. -/
def startJob (q : Nat) (i : U32) (im : LoadImage) (d : Dev) : Dev :=
  let cores := im.cores.map (·.toNat)
  let d := forEach (fun c d => onCore c (fun x => { x with issued := 0 }) d) cores d
  let r := routesOf d im
  let d := { d with mesh := { d.mesh with jobs := d.mesh.jobs ++ [{ newJob q i cores with route := r.1, sinks := r.2 }] } }
  journalSegment q i (armImage im (q, i) (wakeCores cores d))

/-! ## LAUNCH (R318, R319) -/

/-- The version a LAUNCH names: VERSION 0 is the newest (R318, R336). -/
def Dev.launchVersion (d : Dev) (b : List Byte) : Option ImageVersion :=
  let o := d.image (field b 0x10 4)
  let v := field b 0x14 2
  let top := (o.versions.map (·.number)).foldl max 0
  o.versions.find? (fun x => x.number = if v = 0 then top else v)

/-- Why a LAUNCH is refused: status and DETAIL (R319, R333, R352). -/
def launchFault (d : Dev) (q : Nat) (b : List Byte) : Option (Byte × Nat) :=
  let im := field b 0x10 4
  let o := d.image im
  let u := d.queue q
  if 1024 ≤ im ∨ o.loaded = false ∨ o.unloading = true then some (0x22, 0x10)
  else match d.launchVersion b with
    | none => some (0x22, 0x14)
    | some v =>
      let other := match u.task with
        | some t => u.persistent && decide ((d.task t.toNat).image ≠ im)
        | none => false
      let otherV := match u.task with
        | some t => u.persistent && decide ((d.task t.toNat).version ≠ v.number)
        | none => false
      if other then some (0x22, 0x10)
      else if otherV then some (0x22, 0x14)
      else if 256 ≤ field b 0x16 2 ∨ !v.image.entries.contains (BitVec.ofNat 8 (field b 0x16 2)) then some (0x22, 0x16)
      else match reservedFault b [(0x20, 32)] with
        | some f => some (0x22, f)
        | none =>
          if d.mode.det && !v.checkedDet then some (0x20, 0xFFFFFFFF)
          else if v.image.cores.any (fun c => (d.placeOf c.toNat).isNone) then some (0x20, 0xFFFFFFFF)
          else none

/-- Start a LAUNCH on its cores: it takes its version, loads and runs. -/
def beginLaunch (q : Nat) (c : Cmd) (v : ImageVersion) (d : Dev) : Dev :=
  let im := v.image
  let n := field c.bytes 0x10 4
  let cores := im.cores.map (·.toNat)
  let d := modCmd q c.index (fun c => { c with
    work := .launch n v.number cores [], version := BitVec.ofNat 32 v.number }) d
  let d := modImage n (fun o => { o with
    versions := updateFirst (fun x => x.number = v.number) (fun x => { x with users := x.users + 1 }) o.versions }) d
  startJob q c.index im (deliverConstants im (slice c.bytes 0x40 256) (loadOntoCores im d))

/-- Give a LAUNCH of a task's queue to the task: its constant buffer goes to a free half (R333). -/
def giveTask (q t : Nat) (c : Cmd) (d : Dev) : Dev :=
  let k := d.task t
  if 2 ≤ k.halves.length then d
  else
    let d := modCmd q c.index (fun c => { c with work := .taskLaunch t, version := BitVec.ofNat 32 k.version }) d
    modTask t (fun k => { k with halves := k.halves ++ [(q, c.index, slice c.bytes 0x40 256)] }) d

/-- Try a LAUNCH: its refusals, its wait while a core runs another job, its start. -/
def tryLaunch (q : Nat) (c : Cmd) (d : Dev) : Dev :=
  match launchFault d q c.bytes with
  | some (st, det) => finishWith q c.index st det d
  | none =>
    let u := d.queue q
    match if u.persistent then u.task else none with
    | some t => giveTask q t.toNat c d
    | none => match d.launchVersion c.bytes with
      | none => d
      | some v => if v.image.cores.any (fun k => d.coreBusy k.toNat) then d else beginLaunch q c v d

/-- LAUNCH: the head starts, and a LAUNCH that waits for its cores is tried again. -/
def execLaunch (q : QueueId) (s : State) : Host.Outcome State Fault Refusal :=
  lift (fun d =>
    let d := forEach (tryLaunch q.toNat) (d.waitingCmds q.toNat 1) d
    startKind q.toNat (isOpcode 1) 0 (tryLaunch q.toNat) d) s

/-- Whether a job's streams are DONE and its deferred lists empty (R319). -/
def Dev.jobDrained (d : Dev) (q : Nat) (i : U32) (j : Job) : Bool :=
  (d.slotsOf q i).all (fun s => decide ((d.slot s).state = .done)) &&
    j.cores.all (fun c => match d.placeOf c with
      | some p => (d.core p).dense.array.isEmpty && (d.core p).dense.vector.isEmpty
      | none => true)

/-- LAUNCH_COMPLETE: every core of a launch has ended its program; with its streams DONE and its lists empty it
completes. A held or preempted group has not ended. A KILL that has waited for an update takes effect (R255). -/
def launchEnds (q : Nat) (i : U32) (d : Dev) : Dev :=
  match d.job q i with
  | none => d
  | some j =>
    if j.held ∨ j.preempted ∨ d.jobDrained q i j = false then d
    else if j.killed then stopCmd 0x10 0 q i (modCmd q i (fun c => { c with committed := false }) d)
    else finishCmd q i d

/-- LAUNCH_COMPLETE. -/
def execLaunchComplete (q : QueueId) (index : U32) (s : State) : Host.Outcome State Fault Refusal :=
  lift (launchEnds q.toNat index) s

/-! ## Task iterations (R333) -/

/-- The filled half to take: highest queue priority, then the next queue after the one last served. -/
def chooseHalf (d : Dev) (k : Task) : Option (Nat × U32 × List Byte) :=
  let top := (k.halves.map (fun h => (d.queue h.1).priority.toNat)).foldl max 0
  let l := k.halves.filter (fun h => (d.queue h.1).priority.toNat = top)
  let dist (q : Nat) : Nat := (q + 2 ^ 18 - (k.lastQueue + 1)) % 2 ^ 18
  let m := (l.map (fun h => dist h.1)).foldl min (2 ^ 18)
  l.find? (fun h => dist h.1 = m)

/-- A task takes a half at its iteration boundary and runs one iteration. -/
def iterateTask (t : Nat) (d : Dev) : Dev :=
  let k := d.task t
  match if k.present = true ∧ k.running = none then chooseHalf d k else none with
  | none => d
  | some (q, i, bytes) => match d.imageVersion k.image k.version with
    | none => d
    | some v =>
      let d := modTask t (fun k => { k with
        halves := k.halves.filter (fun h => !decide (h.1 = q ∧ h.2.1 = i)), running := some (q, i), lastQueue := q }) d
      startJob q i v.image (deliverConstants v.image bytes (relist v.image d))

/-- TASK_ITERATION. -/
def execTaskIteration (t : Byte) (s : State) : Host.Outcome State Fault Refusal := lift (iterateTask t.toNat) s

end Sys2Proof.Machine
end

