-- ==== Sys2Proof/Machine/Abavi.lean ====
section
/-! DEFINITION. The Abavi mailbox: doorbells, service of requests, and the requests on identity, memory, windows, queues, fences and the trace region; the management ports (R474 to R485, R539, R540, R545, R546). -/

namespace Sys2Proof.Machine
open Sys2Proof

/-! ## Mailboxes and doorbells (R476, R477) -/

/-- The mailbox of a path. -/
def Owl.mail (o : Owl) : Path → Mailbox
  | .pcie => o.pcie
  | .smbus => o.smbus.mail
  | .i3c => o.i3c.mail

/-- Change the mailbox of a path. -/
def modMail (p : Path) (f : Mailbox → Mailbox) (d : Dev) : Dev :=
  match p with
  | .pcie => { d with owl := { d.owl with pcie := f d.owl.pcie } }
  | .smbus => { d with owl := { d.owl with smbus := { d.owl.smbus with mail := f d.owl.smbus.mail } } }
  | .i3c => { d with owl := { d.owl with i3c := { d.owl.i3c with mail := f d.owl.i3c.mail } } }

/-- The Owl, when free, takes the request that became PENDING first: it copies it and sets BUSY (R476, R477). -/
def takeRequest (d : Dev) : Dev :=
  match d.owl.current, d.owl.waiting with
  | none, p :: ps =>
    let bytes := lookAll 0 (d.owl.mail p).request 0 4096
    let d := { d with owl := { d.owl with current := some { path := p, bytes := bytes, injected := false }, waiting := ps } }
    let d := modMail p (fun m => { m with state := .busy }) d
    traceAdd 7 0x16 0 0 0 (bytes.take (32 + field bytes 2 2)) d
  | _, _ => d

/-- Whether the boot ROM serves HEALTH_READ on the management ports (R525). -/
def Dev.bootServes (d : Dev) : Bool :=
  !d.ident.owlReady && decide (d.power.state = .denOnly ∨ d.power.state = .failed ∨ d.power.state = .shutdown)

/-- Whether a path is served: by the Owl, or HEALTH_READ on a management port by the boot ROM. -/
def Dev.serves (d : Dev) (p : Path) : Bool :=
  d.ident.owlReady || (d.bootServes && decide (p ≠ .pcie) && decide (field (lookAll 0 (d.owl.mail p).request 0 2) 0 2 = 0x82))

/-- A doorbell of a path with its SEQ (R476). -/
def ringMail (p : Path) (seq : U32) (d : Dev) : Dev :=
  let m := d.owl.mail p
  if d.serves p = true ∧ (m.state = .idle ∨ m.state = .done) ∧ seq = m.lastSeq + 1 then
    let d := wakeModule d
    let d := modMail p (fun m => { m with state := .pending, before := m.state, lastSeq := seq }) d
    takeRequest { d with owl := { d.owl with waiting := d.owl.waiting ++ [p] } }
  else
    let d := if p = .pcie then hwSet 0x208 2 d else d
    bump (cOwl 10) 1 (modMail p (fun m => { m with refused := true }) d)

/-- ABAVI_DOORBELL (R476). -/
def execAbaviDoorbell (seq : U32) (s : State) : Host.Outcome State Fault Refusal := lift (ringMail .pcie seq) s

/-! ## Responses (R475, R482) -/

/-- The header and payload of a response. -/
def responseBytes (d : Dev) (req : List Byte) (error detail : Nat) (payload : List Byte) : List Byte :=
  slice req 0 2 ++ leBytes 2 payload.length ++ slice req 4 4 ++ leBytes 2 error ++ [0, 0] ++ leBytes 4 detail ++
    slice req 0x10 8 ++ leBytes 8 d.time.ft.toNat ++ payload

/-- Raise a management port's alert when its response is DONE (R540). -/
def alertPort (p : Path) (d : Dev) : Dev :=
  match p with
  | .pcie => msixBit 0 d
  | .smbus => { d with owl := { d.owl with smbus := { d.owl.smbus with alert := true, readFrag := 0 } } }
  | .i3c => { d with owl := { d.owl with i3c := { d.owl.i3c with alert := true, readFrag := 0 } } }

/-- Write the response of the request in service, and take the next (R476). A request that comes from the trace has no
mailbox to answer in (R382; log entry 31). -/
def respond (error detail : Nat) (payload : List Byte) (d : Dev) : Dev :=
  match d.owl.current with
  | none => d
  | some r =>
    if r.injected then takeRequest { d with owl := { d.owl with current := none } }
    else
    let bytes := responseBytes d r.bytes error detail payload
    let d := modMail r.path (fun m =>
      { m with response := putAll 0 m.response 0 (slice bytes 0 4096), state := .done,
               doneSeq := BitVec.ofNat 32 (field r.bytes 4 4) }) d
    let d := alertPort r.path (bump (cOwl 9) 1 d)
    takeRequest { d with owl := { d.owl with current := none } }

/-! ## Judging a request (R478, R480, R481, R485, R546) -/

/-- Offsets and sizes of packed fields from an offset on; a field is (size, alignment) (R478). -/
def fieldSpans : List (Nat × Nat) → Nat → List (Nat × Nat)
  | [], _ => []
  | (n, a) :: fs, o => (alignUp o a, n) :: fieldSpans fs (alignUp o a + n)

/-- The end of a payload of fields. -/
def layoutEnd (fs : List (Nat × Nat)) : Nat := ((fieldSpans fs 0x20).getLast?.map (fun x => x.1 + x.2)).getD 0x20

/-- The first nonzero padding byte between fields. -/
def paddingFault (b : List Byte) : Nat → List (Nat × Nat) → Option Nat
  | _, [] => none
  | o, (s, n) :: fs => if !zeroAt b o (s - o) then some o else paddingFault b (s + n) fs

/-- A fault of LENGTH or of reserved bytes (R478), by its offset. -/
def layoutFault (b : List Byte) (fs : List (Nat × Nat)) : Option Nat :=
  if field b 2 2 ≠ layoutEnd fs - 0x20 then some 2
  else if !zeroAt b 8 8 then some 8
  else if !zeroAt b 0x18 8 then some 0x18
  else paddingFault b 0x20 (fieldSpans fs 0x20)

/-- The rules of a request of the catalogue (R480): its opcode and kind, whether management ports carry it, whether it is
served before features are agreed, its feature bit, and whether it is served while REPLAY is set (R382). -/
def preJudge (mgmt early : Bool) (feature : Nat) (inReplay : Bool) (r : OwlRequest) (d : Dev) : Option (Nat × Nat) :=
  let onMgmt := decide (r.path ≠ .pcie)
  if onMgmt && (!mgmt || (!early && !d.agreed 19)) then some (0xE, 0)
  else if !early && (!d.ident.negotiated || !d.agreed feature) then some (3, feature)
  else if d.replaying && !inReplay && !r.injected then some (0x11, 0)
  else none

/-- What a request answers: an error with its DETAIL, or a payload and the device after it. -/
abbrev Answer := Except (Nat × Nat) (List Byte × Dev)

/-- Serve the request in service when it is of this kind: judged, acted on, answered; and whether it was done. A refused
request changes nothing (R482). -/
def serveReq (kind : List Byte → Bool) (mgmt early : Bool) (feature : Nat) (inReplay : Bool)
    (fields : List Byte → List (Nat × Nat)) (f : List Byte → Dev → Answer) (d : Dev) : Dev × Bool :=
  match d.owl.current with
  | none => (d, false)
  | some r =>
    if !kind r.bytes then (d, false)
    else match preJudge mgmt early feature inReplay r d with
      | some (e, x) => (respond e x [] d, false)
      | none => match layoutFault r.bytes (fields r.bytes) with
        | some o => (respond 1 o [] d, false)
        | none => match f r.bytes d with
          | .error (e, x) => (respond e x [] d, false)
          | .ok (p, d') => (respond 0 0 p d', true)

/-- A request of an opcode. -/
def isOp (n : Nat) (b : List Byte) : Bool := decide (field b 0 2 = n)

/-- A plain unsigned field of n bytes. -/
def u (n : Nat) : Nat × Nat := (n, n)
/-- A block of n bytes, aligned to 8. -/
def blk (n : Nat) : Nat × Nat := (n, 8)

/-- Serve a request of the PCIe mailbox alone, by opcode, feature and fields. -/
def servePcie (op feature : Nat) (fields : List (Nat × Nat)) (f : List Byte → Dev → Answer) (d : Dev) : Dev :=
  (serveReq (isOp op) false false feature false (fun _ => fields) f d).1

/-- Every opcode of the catalogue. -/
def opcodes : List Nat :=
  [1, 2, 3, 0x10, 0x11, 0x12, 0x13, 0x14, 0x20, 0x21, 0x22, 0x24, 0x25, 0x30, 0x31, 0x32, 0x33, 0x34, 0x40, 0x41, 0x42,
   0x43, 0x50, 0x51, 0x52, 0x53, 0x54, 0x55, 0x60, 0x61, 0x62, 0x63, 0x64, 0x65, 0x70, 0x71, 0x80, 0x81, 0x82, 0x90]

/-- UNKNOWN_OPCODE (R480). -/
def unknownOp (d : Dev) : Dev :=
  match d.owl.current with
  | none => d
  | some r => if opcodes.contains (field r.bytes 0 2) then d else respond 2 0 [] d

/-- UNKNOWN_OPCODE. -/
def execUnknownOpcode (s : State) : Host.Outcome State Fault Refusal := lift unknownOp s

/-- ABAVI_NO_PROGRESS (R479): the request in service ends without effect. -/
def execAbaviNoProgress (s : State) : Host.Outcome State Fault Refusal := lift (respond 0x10 0 []) s

/-! ## Identity and features (R474, R480, R483, R484) -/

/-- PART_WORD of 0x000000. -/
def partWord : Nat := 0x1200 + 2 ^ 16 * Config.silicon.toNat
/-- FIRMWARE of 0x000008. -/
def Identity.firmware (i : Identity) : Nat := i.build.toNat + 2 ^ 16 * i.minor.toNat + 2 ^ 24 * i.major.toNat

/-- IDENTIFY. -/
def identifyReq (_ : List Byte) (d : Dev) : Answer :=
  .ok (leBytes 8 partWord ++ leBytes 8 d.ident.firmware ++ leBytes 4 d.logicalCount ++ leBytes 4 d.mesh.epoch.toNat ++
    leBytes 16 d.ident.offered.toNat, d)

/-- IDENTIFY. -/
def execIdentify (s : State) : Host.Outcome State Fault Refusal :=
  lift (fun d => (serveReq (isOp 1) true true 0 true (fun _ => []) identifyReq d).1) s

/-- Needs of a feature bit (R483). -/
def featureNeeds : List (Nat × Nat) := [(4, 3), (6, 5), (8, 3), (9, 8), (14, 3), (15, 3)]

/-- One pass that removes bits whose need is absent (R484). -/
def closeOnce (x : Nat) : Nat := featureNeeds.foldl (fun x p => if bitOf x p.1 && !bitOf x p.2 then x - 2 ^ p.1 else x) x

/-- The agreed set of offered and accepted bits (R484): three passes settle the needs, which run at most two deep. -/
def agreedSet (offered accept : Nat) : Nat :=
  let x := closeOnce (closeOnce (closeOnce (offered &&& accept)))
  if bitOf x 0 then x else 0

/-- Whether a command of a queue runs or entries wait (R349). -/
def Dev.queueBusy (d : Dev) (q : Nat) : Bool :=
  let st := (d.queue q).state
  !(d.live q).isEmpty || decide (st = .pending ∨ st = .active ∨ st = .parked ∨ st = .draining) ||
    (decide (st = .idle) && d.hasWork q)

/-- BLOCKERS of R349. -/
def Dev.blockers (d : Dev) : Nat :=
  b2n (d.fe.queues.any (fun x => d.queueBusy x.1)) + 2 * b2n (d.fe.tasks.any (fun t => t.2.present)) +
    4 * b2n (d.embed.tables.any (fun t => t.2.step.isSome)) + 8 * b2n (d.sessions.any (fun x => x.2.isOpen)) +
    16 * b2n (d.service.services.any (fun x => decide (x.2.state ≠ .disabled)))

/-- QUIESCENT (R349). -/
def Dev.quiescent (d : Dev) : Bool := decide (d.blockers = 0)

/-- The mode state register at 0x003008 (R349). -/
def Dev.modeState (d : Dev) : Nat :=
  b2n d.mode.det + 2 * b2n d.quiescent + 4 * b2n d.mode.refused + 8 * d.blockers

/-- Whether objects of a feature exist (R484). -/
def Dev.featureUsed (d : Dev) (bit : Nat) : Bool :=
  let images := d.fe.images.any (fun im => im.2.versions.any (fun v => v.image.features.any (fun f => f.val = bit)))
  images || (match bit with
    | 1 => d.mode.det
    | 2 => d.embed.tables.any (fun t => match t.2.desc with
        | some x => decide (x.stage = 2)
        | none => false)
    | 3 => d.scoring.ensembles.any (fun e => e.2.present)
    | 4 => d.sessions.any (fun x => x.2.isOpen)
    | 5 => d.embed.tables.any (fun t => t.2.desc.isSome)
    | 8 => d.service.ports.any (fun p => p.2.cfg.isSome) || d.service.services.any (fun e => e.2.cfg.isSome)
    | 9 => d.service.ports.any (fun p => match p.2.cfg with
        | some c => bitOf c.flags.toNat 2
        | none => false)
    | 10 => d.fe.tasks.any (fun t => t.2.present)
    | 12 => d.journal.region.isSome
    | 14 => d.service.services.any (fun e => match e.2.cfg with
        | some x => bitOf x.eflags.toNat 0
        | none => false)
    | 15 => d.service.services.any (fun e => match e.2.cfg with
        | some x => bitOf x.eflags.toNat 1
        | none => false)
    | 16 => d.fabric.cfg.configured || d.fabric.groups.any (fun g => g.2.box.isSome)
    | 17 => d.fe.queues.any (fun q => q.2.inDevice && decide (q.2.state ≠ .unused))
    | _ => false)

/-- FEATURES (R484); after a start that preserved objects the first request may not omit their features (R516). -/
def featuresReq (b : List Byte) (d : Dev) : Answer :=
  let new := agreedSet d.ident.offered.toNat (field b 0x20 16)
  let old := d.ident.agreed.toNat
  if d.ident.negotiated ∧ d.quiescent = false then .error (4, d.modeState % 2 ^ 32)
  else match (List.range 128).find? (fun i => (bitOf old i || !d.ident.negotiated) && !bitOf new i && d.featureUsed i) with
    | some i => .error (0xA, i)
    | none => .ok (leBytes 16 new,
        { d with ident := { d.ident with agreed := BitVec.ofNat 128 new, negotiated := true } })

/-- FEATURES. -/
def execFeatures (s : State) : Host.Outcome State Fault Refusal :=
  lift (fun d => (serveReq (isOp 2) false true 0 false (fun _ => [blk 16]) featuresReq d).1) s

/-! ## Memory and host windows (R390, R545) -/

/-- Whether a frame meets a range of device memory. -/
def frameMeets (a n k f : Nat) : Bool := let x := frameAddr k f 0; decide (x < a + n ∧ a < x + 4096)

/-- Whether a run of c frames of channel k from frame f meets a range of device memory: in the stripe of 2^20 bytes where the range
begins or ends, or in one that it covers. -/
def runMeets (a n k f c : Nat) : Bool :=
  let lo := a / 2 ^ 20
  let hi := (a + n - 1) / 2 ^ 20
  let holds (g : Nat) : Bool := decide (f ≤ g ∧ g < f + c) && frameMeets a n k g
  holds lo || holds hi || decide (max f (lo + 1) < min (f + c) hi)

/-- Whether a range of device memory meets an allocation or a frame of a table: of a page, a directory, a staging area or an undo
log. -/
def Dev.rangeUsed (d : Dev) (a n : Nat) : Bool :=
  d.mem.allocs.any (fun x => decide (x.1 < a + n ∧ a < x.1 + x.2)) ||
    d.embed.tables.any (fun t => t.2.pages.any (fun p => match p.2 with
      | some g => frameMeets a n g.channel.toNat g.frame.toNat
      | none => false) || t.2.areas.any (fun y => y.2.any (fun r => runMeets a n y.1 r.1 r.2)))

/-- The first free aligned range from candidate k upward, wrapping round (fuel: the candidates). -/
def findRange (d : Dev) (n al count : Nat) : Nat → Nat → Option Nat
  | 0, _ => none
  | fuel + 1, k =>
    let a := k % count * al
    if a + n ≤ softEnd ∧ d.rangeUsed a n = false then some a else findRange d n al count fuel (k + 1)

/-- MEM_ALLOC (R545): which free range is handed out is left open (log entry 12). -/
def memAllocReq (b : List Byte) (d : Dev) : Answer :=
  let n := field b 0x20 8
  let al := field b 0x28 1
  if n = 0 ∨ n % 4096 ≠ 0 then .error (1, 0x20)
  else if al < 12 ∨ 40 < al then .error (1, 0x28)
  else
    let count := ceilDiv softEnd (2 ^ al)
    let (v, d) := drawFree d
    match findRange d n (2 ^ al) count count (v.toNat % count) with
    | none => .error (8, 0)
    | some a => .ok (leBytes 8 a, { d with mem := { d.mem with allocs := d.mem.allocs ++ [(a, n)] } })

/-- MEM_ALLOC. -/
def execMemAlloc (s : State) : Host.Outcome State Fault Refusal := lift (servePcie 0x10 0 [u 8, u 1] memAllocReq) s

/-- MEM_FREE (R545). -/
def memFreeReq (b : List Byte) (d : Dev) : Answer :=
  let a := field b 0x20 8
  let n := field b 0x28 8
  if a % 4096 ≠ 0 then .error (1, 0x20)
  else if n = 0 ∨ n % 4096 ≠ 0 then .error (1, 0x28)
  else if d.mem.allocs.contains (a, n) then .ok ([], { d with mem := { d.mem with allocs := d.mem.allocs.erase (a, n) } })
  else if softEnd < a + n then .error (0xF, 0x20)
  else .error (9, 0)

/-- MEM_FREE. -/
def execMemFree (s : State) : Host.Outcome State Fault Refusal := lift (servePcie 0x11 0 [u 8, u 8] memFreeReq) s

/-- HOST_WINDOW_ADD (R545): which free number it takes is left open (log entry 12). -/
def windowAddReq (b : List Byte) (d : Dev) : Answer :=
  let a := field b 0x20 8
  let n := field b 0x28 8
  if a % 4096 ≠ 0 then .error (1, 0x20)
  else if n = 0 ∨ n % 4096 ≠ 0 then .error (1, 0x28)
  else if 2 ^ 64 < a + n then .error (0xF, 0x28)
  else
    let free := (List.range 64).filter (fun w => !d.mem.windows.any (fun x => x.1 = w))
    let (w, d') := pickOne free d
    match w with
    | none => .error (8, 0)
    | some w => .ok (leBytes 4 w, { d' with mem := { d'.mem with windows := d'.mem.windows ++ [(w, a, n)] } })

/-- HOST_WINDOW_ADD. -/
def execHostWindowAdd (s : State) : Host.Outcome State Fault Refusal := lift (servePcie 0x12 0 [u 8, u 8] windowAddReq) s

/-- Whether n bytes at a meet a window. -/
def meets (w : Nat × Nat × Nat) (a n : Nat) : Bool := decide (w.2.1 < a + n ∧ a < w.2.1 + w.2.2)

/-- The queue whose ring in host memory lies in a window. -/
def Dev.ringIn (d : Dev) (w : Nat × Nat × Nat) : Option Nat :=
  (d.fe.queues.find? (fun x => decide (x.2.state ≠ .unused) && !x.2.inDevice &&
    meets w x.2.ringBase.toNat (64 * x.2.ringSize))).map (·.1)

/-- HOST_WINDOW_REMOVE (R480). -/
def windowRemoveReq (b : List Byte) (d : Dev) : Answer :=
  let n := field b 0x20 4
  if 64 ≤ n then .error (1, 0x20)
  else match d.mem.windows.find? (fun x => x.1 = n) with
    | none => .error (9, 0)
    | some w =>
      match d.ringIn w with
      | some q => .error (0xA, q)
      | none =>
        if d.events.enable && meets w d.events.base.toNat (64 * 2 ^ d.events.log2.toNat) then .error (0xA, 0)
        else .ok ([], { d with mem := { d.mem with windows := d.mem.windows.filter (fun x => x.1 ≠ n) } })

/-- HOST_WINDOW_REMOVE. -/
def execHostWindowRemove (s : State) : Host.Outcome State Fault Refusal := lift (servePcie 0x13 0 [u 4] windowRemoveReq) s

/-- RESERVED_READ (R391, R405): log records of 32 bytes or fence values of 8, as many as a response holds. -/
def reservedReq (b : List Byte) (d : Dev) : Answer :=
  let what := field b 0x20 1
  let first := field b 0x24 4
  let n := field b 0x28 4
  let size := if what = 0 then 32 else 8
  let top := if what = 0 then 32768 else 65536
  if 2 ≤ what then .error (1, 0x20)
  else if top ≤ first then .error (1, 0x24)
  else if n = 0 ∨ 4064 < size * n ∨ top < first + n then .error (1, 0x28)
  else if what = 0 then .ok (d.bytesAt (0xFF01080000 + 32 * first) (32 * n), d)
  else .ok (((rangeFrom first n).map (fun f => leBytes 8 (d.fence f).value.toNat)).flatten, d)

/-- RESERVED_READ. -/
def execReservedRead (s : State) : Host.Outcome State Fault Refusal :=
  lift (fun d => (serveReq (isOp 0x14) true true 0 true (fun _ => [u 1, u 4, u 4]) reservedReq d).1) s

/-! ## Queues (R304, R480) -/

/-- Faults of a context at creation (R304, R480): its bytes lie at 0x28 of the request. -/
def contextFault (d : Dev) (c : List Byte) : Option (Nat × Nat) :=
  let base := field c 0 8
  let log2 := field c 8 1
  let fl := field c 9 1
  let n := 64 * 2 ^ log2
  if base % 4096 ≠ 0 then some (1, 0x28)
  else if log2 < 4 ∨ 16 < log2 then some (1, 0x30)
  else if 16 ≤ fl then some (1, 0x31)
  else if 8 ≤ field c 0xA 1 then some (1, 0x32)
  else if field c 0xB 1 ≠ 0 then some (1, 0x33)
  else if field c 0x10 4 ≠ 0 then some (1, 0x38)
  else if field c 0x14 4 ≠ 0 then some (1, 0x3C)
  else if field c 0x18 8 ≠ 0 then some (1, 0x40)
  else if field c 0x20 2 ≠ 0 then some (1, 0x48)
  else if field c 0x22 2 ≠ 0 then some (1, 0x4A)
  else if field c 0x24 4 ≠ 0 then some (1, 0x4C)
  else if !zeroAt c 0x28 24 then some (1, 0x50)
  else if bitOf fl 1 && !d.agreed 17 then some (3, 17)
  else if bitOf fl 1 then (if inSoft base n then none else some (0xF, 0x28))
  else if d.inWindow base n then none else some (0xF, 0x28)

/-- QUEUE_CREATE (R304): STOPPED, or enabled where the context sets ENABLED. -/
def queueCreateReq (b : List Byte) (d : Dev) : Answer :=
  let q := field b 0x20 4
  let c := slice b 0x28 64
  let fl := field c 9 1
  if 2 ^ 18 ≤ q then .error (1, 0x20)
  else if (d.queue q).state ≠ .unused then .error (0xA, 0x20)
  else match contextFault d c with
    | some e => .error e
    | none =>
      let x : Queue :=
        { ringBase := BitVec.ofNat 64 (field c 0 8), ringLog2 := field c 8 1, inDevice := bitOf fl 1,
          persistent := bitOf fl 2, rtAllowed := bitOf fl 3, enabled := bitOf fl 0, priority := BitVec.ofNat 3 (field c 0xA 1),
          state := if bitOf fl 0 then .idle else .stopped, gen := BitVec.ofNat 16 (field c 0xC 2),
          windowMs := BitVec.ofNat 16 (field c 0xE 2), producer := 0, started := 0, retired := 0, slot := none, task := none }
      .ok ([], modRun q (fun _ => QueueRun.reset) (modQueue q (fun _ => x) d))

/-- QUEUE_CREATE. -/
def execQueueCreate (s : State) : Host.Outcome State Fault Refusal := lift (servePcie 0x20 0 [u 4, blk 64] queueCreateReq) s

/-- State code of R305. -/
def QState.code : QState → Nat
  | .unused => 0 | .stopped => 1 | .idle => 2 | .pending => 3 | .active => 4 | .parked => 5 | .draining => 6

/-- Apply a change of ENABLED (R306, R341). -/
def setEnabled (q : Nat) (on : Bool) (d : Dev) : Dev :=
  if (d.queue q).enabled = on then d
  else if on then
    (let x := d.queue q
     if x.state = .stopped ∧ (x.inDevice || d.inWindow x.ringBase.toNat (64 * x.ringSize)) = true then
       modQueue q (fun u => { u with enabled := true, state := if d.hasWork q then .pending else .idle }) d
     else d)
  else disableQueue q d

/-- QUEUE_MODIFY (R480): flags other than ENABLED change only while STOPPED. PAD follows the alignment of R478. -/
def queueModifyReq (b : List Byte) (d : Dev) : Answer :=
  let q := field b 0x20 4
  let fl := field b 0x28 1
  let x := d.queue q
  if 2 ^ 18 ≤ q then .error (1, 0x20)
  else if x.state = .unused then .error (9, 0)
  else if 8 ≤ field b 0x24 1 then .error (1, 0x24)
  else if 16 ≤ fl then .error (1, 0x28)
  else if (bitOf fl 1 ≠ x.inDevice ∨ bitOf fl 2 ≠ x.persistent ∨ bitOf fl 3 ≠ x.rtAllowed) ∧ x.state ≠ .stopped then
    .error (4, x.state.code)
  else if bitOf fl 1 ∧ d.agreed 17 = false then .error (3, 17)
  else
    let d := modQueue q (fun u => { u with
      priority := BitVec.ofNat 3 (field b 0x24 1), windowMs := BitVec.ofNat 16 (field b 0x26 2), inDevice := bitOf fl 1,
      persistent := bitOf fl 2, rtAllowed := bitOf fl 3 }) d
    .ok ([], setEnabled q (bitOf fl 0) d)

/-- QUEUE_MODIFY. -/
def execQueueModify (s : State) : Host.Outcome State Fault Refusal :=
  lift (servePcie 0x21 0 [u 4, u 1, u 2, u 1] queueModifyReq) s

/-- QUEUE_DELETE (R480): a queue that a task binds or a fence names stays in use. -/
def queueDeleteReq (b : List Byte) (d : Dev) : Answer :=
  let q := field b 0x20 4
  let x := d.queue q
  if 2 ^ 18 ≤ q then .error (1, 0x20)
  else if x.state = .unused then .error (9, 0)
  else if x.state ≠ .stopped then .error (4, x.state.code)
  else match x.task with
    | some t => .error (0xA, t.toNat)
    | none => .ok ([], modRun q (fun _ => QueueRun.reset) (modQueue q (fun _ => Queue.reset) d))

/-- QUEUE_DELETE. -/
def execQueueDelete (s : State) : Host.Outcome State Fault Refusal := lift (servePcie 0x22 0 [u 4] queueDeleteReq) s

/-! ## Fences (R324) -/

/-- FENCE_REGISTER. -/
def fenceRegisterReq (b : List Byte) (d : Dev) : Answer :=
  let f := field b 0x20 4
  let q := field b 0x24 4
  if 65536 ≤ f then .error (1, 0x20)
  else if (d.fence f).registered then .error (0xA, 0x20)
  else if 2 ^ 18 ≤ q then .error (1, 0x24)
  else if (d.queue q).state = .unused then .error (9, 0)
  else .ok ([], setFence f { registered := true, producer := BitVec.ofNat 18 q, value := BitVec.ofNat 64 (field b 0x28 8) } d)

/-- FENCE_REGISTER. -/
def execFenceRegister (s : State) : Host.Outcome State Fault Refusal :=
  lift (servePcie 0x24 0 [u 4, u 4, u 8] fenceRegisterReq) s

/-- The queue whose running WAIT names a fence. -/
def Dev.waitOn (d : Dev) (f : Nat) : Option Nat :=
  (d.fe.queues.map (·.1)).find? (fun q => (d.live q).any (fun c => isOpcode 6 c.bytes &&
    bitOf (field c.bytes 0x21 1) 0 && decide (field c.bytes 0x10 8 = f)))

/-- FENCE_RELEASE. -/
def fenceReleaseReq (b : List Byte) (d : Dev) : Answer :=
  let f := field b 0x20 4
  if 65536 ≤ f then .error (1, 0x20)
  else if !(d.fence f).registered then .error (9, 0)
  else match d.waitOn f with
    | some q => .error (0xA, q)
    | none => .ok ([], setFence f Fence.reset d)

/-- FENCE_RELEASE. -/
def execFenceRelease (s : State) : Host.Outcome State Fault Refusal := lift (servePcie 0x25 0 [u 4] fenceReleaseReq) s

/-! ## The trace region (R379) -/

/-- TRACE_REGION: 4 KiB aligned, at least 1 MiB, in the software range; BUSY while a trace is active. -/
def traceRegionReq (b : List Byte) (d : Dev) : Answer :=
  let a := field b 0x20 8
  let n := field b 0x28 8
  if d.mode.traceCtl.toNat % 4 ≠ 0 then .error (4, d.mode.traceCtl.toNat % 4)
  else if a % 4096 ≠ 0 then .error (1, 0x20)
  else if n < 2 ^ 20 then .error (1, 0x28)
  else if softEnd < a + n then .error (0xF, 0x20)
  else .ok ([], { d with journal := { d.journal with region := some (a, n) } })

/-- TRACE_REGION. It is served while REPLAY is set (R382). -/
def execTraceRegion (s : State) : Host.Outcome State Fault Refusal :=
  lift (fun d => (serveReq (isOp 0x90) false false 12 true (fun _ => [u 8, u 8]) traceRegionReq d).1) s

/-! ## Management ports (R524, R539, R540) -/

/-- A management port. -/
def Dev.mgmt (d : Dev) (i3c : Bool) : MgmtPort := if i3c then d.owl.i3c else d.owl.smbus
/-- Change a management port. -/
def modMgmt (i3c : Bool) (f : MgmtPort → MgmtPort) (d : Dev) : Dev :=
  if i3c then { d with owl := { d.owl with i3c := f d.owl.i3c } }
  else { d with owl := { d.owl with smbus := f d.owl.smbus } }
/-- Path of a management port. -/
def mgmtPath (i3c : Bool) : Path := if i3c then .i3c else .smbus
/-- Whether a port is STUCK, and no longer served (R524). -/
def Dev.portStuck (d : Dev) (i3c : Bool) : Bool := if i3c then d.health.i3cStuck else d.health.smbusStuck
/-- A frame given on a management port. -/
def mgmtOut (i3c : Bool) (bytes : List Byte) (d : Dev) : Dev :=
  { d with out := { d.out with mgmt := d.out.mgmt ++ [(i3c, bytes)] } }

/-- The LAST fragment rings the port's mailbox with the gathered request (R540). -/
def mgmtRing (i3c : Bool) (bytes : List Byte) (d : Dev) : Dev :=
  let p := mgmtPath i3c
  let m := d.owl.mail p
  let ok := (d.ident.owlReady || d.bootServes) && decide (m.state = .idle ∨ m.state = .done)
  let d := modMgmt i3c (fun x => { x with gathered := none, nextFrag := 0 }) d
  let d := if ok then modMail p (fun m => { m with request := putAll 0 [] 0 (slice bytes 0 4096) }) d else d
  ringMail p (BitVec.ofNat 32 (field bytes 4 4)) d

/-- A request fragment (R540). -/
def mgmtWrite (i3c : Bool) (frag : Nat) (last start : Bool) (bytes : List Byte) (pecOk : Bool) (d : Dev) : Dev :=
  let x := d.mgmt i3c
  let good := pecOk && decide (frag ≤ 17 ∧ 1 ≤ bytes.length ∧ bytes.length ≤ 240)
  let gathered : Option (List Byte) :=
    if !good then none
    else if start then some bytes
    else match x.gathered with
      | some g => if frag = x.nextFrag then some (g ++ bytes) else none
      | none => none
  let d := modMgmt i3c (fun x => { x with gathered := gathered, nextFrag := frag + 1 }) d
  match gathered with
  | some g => if last then mgmtRing i3c g d else d
  | none => d

/-- MGMT_BLOCK_WRITE. A STUCK port takes nothing. -/
def execMgmtBlockWrite (i3c : Bool) (frag : Byte) (last start : Bool) (bytes : List Byte) (pecOk : Bool) (s : State) :
    Host.Outcome State Fault Refusal :=
  lift (fun d => if d.portStuck i3c then d else mgmtWrite i3c frag.toNat last start bytes pecOk d) s

/-- A response fragment (R540). -/
def mgmtRead (i3c : Bool) (d : Dev) : Dev :=
  let x := d.mgmt i3c
  if x.mail.state ≠ .done then mgmtOut i3c [0, 2] d
  else
    let n := 32 + field (lookAll 0 x.mail.response 0 4) 2 2
    let k := x.readFrag
    let last := decide (n ≤ 240 * (k + 1))
    let piece := (lookAll 0 x.mail.response (240 * k) (min 240 (n - 240 * k)))
    let d := modMgmt i3c (fun x => { x with readFrag := if last then 0 else k + 1 }) d
    mgmtOut i3c ([BitVec.ofNat 8 k, BitVec.ofNat 8 (b2n last)] ++ piece) d

/-- MGMT_BLOCK_READ. -/
def execMgmtBlockRead (i3c : Bool) (s : State) : Host.Outcome State Fault Refusal :=
  lift (fun d => if d.portStuck i3c then d else mgmtRead i3c d) s

/-- Code of a mailbox state (R474). -/
def MailState.code : MailState → Nat
  | .idle => 0 | .pending => 1 | .busy => 2 | .done => 3

/-- MGMT_BYTE_READ (R539, R540): STATE and REFUSED, which the read clears; the alert ends. -/
def mgmtByte (i3c : Bool) (d : Dev) : Dev :=
  let m := (d.mgmt i3c).mail
  let d := mgmtOut i3c [BitVec.ofNat 8 (m.state.code + 4 * b2n m.refused)] d
  modMgmt i3c (fun x => { x with alert := false, mail := { x.mail with refused := false } }) d

/-- MGMT_BYTE_READ. -/
def execMgmtByteRead (i3c : Bool) (s : State) : Host.Outcome State Fault Refusal :=
  lift (fun d => if d.portStuck i3c then d else mgmtByte i3c d) s

/-- ENTDAA (R539): the I3C port takes a dynamic address. -/
def execEntdaa (address : BitVec 7) (s : State) : Host.Outcome State Fault Refusal :=
  lift (modMgmt true (fun x => { x with address := some address })) s

end Sys2Proof.Machine
end

