-- ==== Sys2Proof/Machine/Commands.lean ====
section
/-! DEFINITION. The front end's own commands: NOP, WAIT, SIGNAL, BARRIER of QUEUE scope, STAMP, doorbells, queue control, admission, fetches and limits (R301 to R312, R324 to R331, R338 to R342). -/

namespace Sys2Proof.Machine
open Sys2Proof

/-! ## NOP, STAMP and BARRIER of QUEUE scope -/

/-- NOP (R331). -/
def nopCmd (q : Nat) (c : Cmd) (d : Dev) : Dev :=
  match reservedFault c.bytes [(0x10, 48)] with
  | some o => badCommand q c.index o d
  | none => finishCmd q c.index d

/-- NOP. -/
def execNop (q : QueueId) (s : State) : Host.Outcome State Fault Refusal :=
  lift (startKind q.toNat (isOpcode 0) 0 (nopCmd q.toNat)) s

/-- An address for an 8- or 16-byte write of a command: aligned, and in a window or the software range. -/
def Dev.okTarget (d : Dev) (host : Bool) (a n : Nat) : Bool :=
  decide (a % n = 0) && (if host then d.inWindow a n else inSoft a n)

/-- Faults of a STAMP (R331). -/
def stampFault (d : Dev) (b : List Byte) : Option Nat :=
  if !d.okTarget (bitOf (field b 0x18 1) 0) (field b 0x10 8) 16 then some 0x10
  else if 2 ≤ field b 0x18 1 then some 0x18
  else reservedFault b [(0x19, 39)]

/-- STAMP (R331): the fabric time, then the completion counter, written at ADDR; past its commit point once performed. -/
def stampCmd (q : Nat) (c : Cmd) (d : Dev) : Dev :=
  match stampFault d c.bytes with
  | some o => badCommand q c.index o d
  | none =>
    let a := field c.bytes 0x10 8
    let data := leBytes 8 d.time.ft.toNat ++ leBytes 8 (d.queue q).retired.toNat
    let d := if bitOf (field c.bytes 0x18 1) 0 then hostWrite a data false d else memWrite 0 a data false d
    let d := journalAdd 0x06 q c.index 0 (crc32c (leBytes 8 9)) (leBytes 8 9) d
    finishCmd q c.index (modCmd q c.index (fun c => { c with committed := true }) d)

/-- STAMP. -/
def execStamp (q : QueueId) (s : State) : Host.Outcome State Fault Refusal :=
  lift (startKind q.toNat (isOpcode 9) 0 (stampCmd q.toNat)) s

/-- BARRIER of QUEUE scope (R330), and of a reserved scope: it starts only once every earlier command has completed. -/
def barrierQueueCmd (q : Nat) (c : Cmd) (d : Dev) : Dev :=
  let b := c.bytes
  let fault : Option Nat :=
    if field b 0x10 1 ≠ 0 then some 0x10
    else if field b 0x11 3 ≠ 0 then some 0x11
    else if field b 0x14 4 ≠ 0xFFFFFFFF then some 0x14
    else if field b 0x18 8 ≠ 0 then some 0x18
    else reservedFault b [(0x20, 32)]
  match fault with
  | some o => badCommand q c.index o d
  | none => finishCmd q c.index d

/-- BARRIER with SCOPE QUEUE. -/
def execBarrierQueue (q : QueueId) (s : State) : Host.Outcome State Fault Refusal :=
  lift (startKind q.toNat (fun b => isOpcode 8 b && decide (field b 0x10 1 ≠ 1)) 0 (barrierQueueCmd q.toNat)) s

/-! ## WAIT (R325 to R329) -/

/-- Whether a WAIT or SIGNAL names a registered fence. -/
def namesFence (b : List Byte) : Bool := bitOf (field b 0x21 1) 0

/-- The fence number of a WAIT or SIGNAL. -/
def fenceNo (b : List Byte) : Nat := field b 0x10 2

/-- Faults of a WAIT (R325, R329). -/
def waitFault (d : Dev) (b : List Byte) : Option Nat :=
  let t := field b 0x10 8
  let badTarget := if namesFence b then decide (65536 ≤ t) || !(d.fence (fenceNo b)).registered
                   else !d.okTarget false t 8
  if badTarget then some 0x10
  else if 3 ≤ field b 0x20 1 then some 0x20
  else if 2 ≤ field b 0x21 1 then some 0x21
  else reservedFault b [(0x22, 30)]

/-- The value a WAIT reads, and whether it comes from a poisoned granule (R326). -/
def waitRead (d : Dev) (b : List Byte) : U64 × Bool :=
  if namesFence b then ((d.fence (fenceNo b)).value, false)
  else (BitVec.ofNat 64 (leNat (d.bytesAt (field b 0x10 8) 8)), decide (0 < d.poisonedIn (field b 0x10 8) 8))

/-- COND of R325. -/
def waitHolds (b : List Byte) (v : U64) : Bool :=
  let t := BitVec.ofNat 64 (field b 0x18 8)
  match field b 0x20 1 with
  | 0 => decide (t.toNat ≤ v.toNat)
  | 1 => decide (v = t)
  | _ => decide (v &&& t = t)

/-- The blocked WAIT of a queue: its live command that waits. -/
def Dev.blockedWait (d : Dev) (q : Nat) : Option Cmd :=
  (d.live q).find? (fun c => match c.work with
    | .waiting _ => true
    | _ => false)

/-- The wait graph's edge of a queue: the producer of the fence that its blocked WAIT names (R328). -/
def Dev.waitEdge (d : Dev) (q : Nat) : Option Nat :=
  match d.blockedWait q with
  | some c => if namesFence c.bytes then some (d.fence (fenceNo c.bytes)).producer.toNat else none
  | none => none

/-- Whether the edges from a queue reach another (fuel: the queues). -/
def Dev.waitReaches (d : Dev) (goal : Nat) : Nat → Nat → Bool
  | 0, _ => false
  | n + 1, q => if q = goal then true else match d.waitEdge q with
    | some p => d.waitReaches goal n p
    | none => false

/-- A WAIT read a poisoned granule: one more in POISON_IN (R326). -/
def waitPoison (q : Nat) (i : U32) (p : Bool) (d : Dev) : Dev :=
  if p then modCmd q i (fun c => { c with poisonIn := stick32 c.poisonIn 1 }) d else d

/-- Block a WAIT (R326): its queue is PARKED; on a device address it joins the poll list, or keeps its slot when the
list is full. -/
def blockWait (q : Nat) (c : Cmd) (v : U64) (d : Dev) : Dev :=
  let d := modCmd q c.index (fun c => { c with work := .waiting v }) d
  if namesFence c.bytes then leaveSlot q .parked d
  else if d.fe.pollList.length < 16384 then
    leaveSlot q .parked { d with fe := { d.fe with pollList := d.fe.pollList ++ [q] } }
  else bump (cFront 5) 1 d

/-- WAIT (R326, R328). -/
def waitCmd (q : Nat) (c : Cmd) (d : Dev) : Dev :=
  match waitFault d c.bytes with
  | some o => badCommand q c.index o d
  | none =>
    let (v, p) := waitRead d c.bytes
    let d := waitPoison q c.index p d
    if waitHolds c.bytes v && !p then finishWith q c.index 0x00 v.toNat d
    else
      let f := fenceNo c.bytes
      let prod := (d.fence f).producer.toNat
      if namesFence c.bytes && d.waitReaches q 262144 prod then
        let d := raiseEvent 0x3001 0x8000 (pack [(4, q), (4, prod), (4, f)] []) d
        finishWith q c.index 0x13 prod (bump (cFront 6) 1 d)
      else blockWait q c v d

/-- WAIT. -/
def execWait (q : QueueId) (s : State) : Host.Outcome State Fault Refusal :=
  lift (startKind q.toNat (isOpcode 6) 0 (waitCmd q.toNat)) s

/-- Judge a queue's blocked WAIT again (R326): a changed value is progress; a condition that holds completes it. -/
def judgeWait (q : Nat) (d : Dev) : Dev :=
  match d.blockedWait q with
  | none => d
  | some c =>
    let (v, p) := waitRead d c.bytes
    let d := waitPoison q c.index p d
    let last := match c.work with
      | .waiting l => l
      | _ => 0
    let d := if v ≠ last then progress q c.index (modCmd q c.index (fun c => { c with work := .waiting v }) d) else d
    if waitHolds c.bytes v && !p then
      finishWith q c.index 0x00 v.toNat { d with fe := { d.fe with pollList := d.fe.pollList.filter (fun x => x ≠ q) } }
    else d

/-- The WAITs that name a fence are judged again, in increasing queue number (R326, R328). -/
def judgeFence (f : Nat) (d : Dev) : Dev :=
  forEach judgeWait
    ((d.fe.queues.map (·.1)).filter (fun q => match d.blockedWait q with
      | some c => namesFence c.bytes && decide (fenceNo c.bytes = f)
      | none => false)) d

/-- WAIT_POLL (R326): 4 entries of the poll list, which go to its end; and the WAITs that kept their slots. -/
def waitPollDev (d : Dev) : Dev :=
  let four := d.fe.pollList.take 4
  let kept := (d.fe.queues.map (·.1)).filter (fun q =>
    decide ((d.queue q).state = .active) && (d.blockedWait q).isSome)
  let d := { d with fe := { d.fe with pollList := d.fe.pollList.drop 4 ++ four } }
  forEach judgeWait (four ++ kept) d

/-- WAIT_POLL. -/
def execWaitPoll (s : State) : Host.Outcome State Fault Refusal := lift waitPollDev s

/-! ## SIGNAL (R327, R329) -/

/-- Faults of a SIGNAL. -/
def signalFault (d : Dev) (q : Nat) (b : List Byte) : Option Nat :=
  let t := field b 0x10 8
  let fl := field b 0x21 1
  let host := bitOf fl 1
  let badTarget :=
    if fl = 3 then false
    else if namesFence b then
      decide (65536 ≤ t) || !(d.fence (fenceNo b)).registered || decide ((d.fence (fenceNo b)).producer.toNat ≠ q)
    else !d.okTarget host t 8
  if badTarget then some 0x10
  else if 3 ≤ field b 0x20 1 ∨ (host ∧ field b 0x20 1 ≠ 0) then some 0x20
  else if 3 ≤ fl then some 0x21
  else reservedFault b [(0x22, 30)]

/-- OP of R327. -/
def signalOp (op : Nat) (old v : U64) : U64 :=
  match op with
  | 0 => v
  | 1 => old + v
  | _ => old ||| v

/-- SIGNAL (R327): the atomic operation, past its commit point once performed; WAITs on a changed fence follow at the
same edge. -/
def signalCmd (q : Nat) (c : Cmd) (d : Dev) : Dev :=
  match signalFault d q c.bytes with
  | some o => badCommand q c.index o d
  | none =>
    let b := c.bytes
    let v := BitVec.ofNat 64 (field b 0x18 8)
    let a := field b 0x10 8
    let op := field b 0x20 1
    let d := journalAdd 0x06 q c.index 0 (crc32c (leBytes 8 7)) (leBytes 8 7) d
    let d := modCmd q c.index (fun c => { c with committed := true }) d
    if namesFence b then
      let f := d.fence (fenceNo b)
      let d := setFence (fenceNo b) { f with value := signalOp op f.value v } d
      judgeFence (fenceNo b) (finishCmd q c.index d)
    else if bitOf (field b 0x21 1) 1 then finishCmd q c.index (hostWrite a (leBytes 8 v.toNat) false d)
    else
      let old := BitVec.ofNat 64 (leNat (d.bytesAt a 8))
      finishCmd q c.index (memWrite 0 a (leBytes 8 (signalOp op old v).toNat) false d)

/-- SIGNAL. -/
def execSignal (q : QueueId) (s : State) : Host.Outcome State Fault Refusal :=
  lift (startKind q.toNat (isOpcode 7) 0 (signalCmd q.toNat)) s

/-! ## Doorbells and queue control (R301, R302, R306, R341) -/

/-- An accepted doorbell (R302). -/
def acceptDoorbell (q : Nat) (v : Nat) (d : Dev) : Dev :=
  let p := BitVec.ofNat 32 v
  let d := wakeModule d
  let d := modQueue q (fun u => { u with producer := p }) d
  let d := modRun q (fun r => { r with
      doorbell := BitVec.ofNat 64 (v % 2 ^ 48), doorbells := r.doorbells ++ [(p, d.time.ft)],
      doorbellFt := d.time.ft.setWidth 32 }) d
  let d := traceAdd 3 0x12 q 0 0 (leBytes 8 (v % 2 ^ 48)) d
  match (d.queue q).state with
  | .idle => if d.hasWork q then modQueue q (fun u => { u with state := .pending }) d else d
  | .active => lookAhead q d
  | _ => d

/-- A doorbell write judged under R301 and R302. -/
def doorbellDev (q width v : Nat) (d : Dev) : Dev :=
  let u := d.queue q
  let p := BitVec.ofNat 32 v
  if width ≠ 8 ∨ u.state = .unused then bump (cFront 2) 1 d
  else if bits v 47 32 ≠ u.gen.toNat then bump (cFront 3) 1 d
  else if u.ringSize < (p - u.producer).toNat ∨ u.ringSize < (p - u.retired.setWidth 32).toNat then bump (cFront 4) 1 d
  else acceptDoorbell q v d

/-- DOORBELL. While REPLAY is set live doorbells are dropped (R382). -/
def execDoorbell (q : QueueId) (width : Nat) (value : U64) (s : State) : Host.Outcome State Fault Refusal :=
  lift (fun d => if d.replaying then dropLive d else doorbellDev q.toNat width value.toNat d) s

/-- The queue control register reads back the last command that took effect (R306). -/
def noteQueueCtl (q op : Nat) (d : Dev) : Dev :=
  { d with mode := { d.mode with queueCtl := BitVec.ofNat 64 (q + 2 ^ 18 * op) } }

/-- Whether the whole ring lies where it may be enabled: in device memory, or in one registered window (R536). -/
def Dev.ringReachable (d : Dev) (u : Queue) : Bool :=
  u.inDevice || d.inWindow u.ringBase.toNat (64 * u.ringSize)

/-- ENABLE of a STOPPED queue (R306, R536). -/
def enableQueue (q : Nat) (d : Dev) : Dev :=
  let u := d.queue q
  if u.state = .stopped ∧ d.ringReachable u = true then
    modQueue q (fun u => { u with enabled := true, state := if d.hasWork q then .pending else .idle }) d
  else d

/-- RESET of a STOPPED queue (R306). -/
def resetQueue (q : Nat) (d : Dev) : Dev :=
  if (d.queue q).state = .stopped then
    let d := modQueue q (fun u => { u with producer := 0, started := 0, retired := 0, gen := u.gen + 1 }) d
    let d := modRun q (fun r => { r with doorbells := [], fetched := [], asked := [], running := [], need := 0 }) d
    { d with fe := { d.fe with
        summary := upd 0 d.fe.summary (q / 64) (fun w => w &&& ~~~((1 : U64) <<< (q % 64))) } }
  else d

/-- QUEUE_ENABLE. -/
def execQueueEnable (q : QueueId) (s : State) : Host.Outcome State Fault Refusal :=
  lift (fun d => noteQueueCtl q.toNat 0 (enableQueue q.toNat d)) s

/-- QUEUE_DISABLE. -/
def execQueueDisable (q : QueueId) (s : State) : Host.Outcome State Fault Refusal :=
  lift (fun d => noteQueueCtl q.toNat 1 (disableQueue q.toNat d)) s

/-- QUEUE_KILL. -/
def execQueueKill (q : QueueId) (s : State) : Host.Outcome State Fault Refusal :=
  lift (fun d => noteQueueCtl q.toNat 2 (killQueue q.toNat d)) s

/-- QUEUE_RESET. -/
def execQueueReset (q : QueueId) (s : State) : Host.Outcome State Fault Refusal :=
  lift (fun d => noteQueueCtl q.toNat 3 (resetQueue q.toNat d)) s

/-! ## Admission and fetching (R308 to R310, R312) -/

/-- The PENDING queues of a priority. -/
def Dev.pendingAt (d : Dev) (p : Nat) : List Nat :=
  (d.fe.queues.filter (fun u => decide (u.2.state = .pending ∧ u.2.priority.toNat = p))).map (·.1)

/-- The next PENDING queue to admit: highest priority, then the next number after the one last admitted at that
priority, wrapping round (R308). -/
def Dev.nextPending (d : Dev) : Option (Nat × Nat) :=
  [7, 6, 5, 4, 3, 2, 1, 0].findSome? (fun p =>
    let l := d.pendingAt p
    match (l.find? (fun q => decide (look 0 d.fe.lastAdmitted p ≤ q))).or l.head? with
    | some q => some (p, q)
    | none => none)

/-- Active slots that no queue holds. -/
def Dev.freeSlots (d : Dev) : List Nat :=
  let used := d.fe.queues.filterMap (fun u => u.2.slot.map (·.toNat))
  (List.range 4096).filter (fun n => !used.contains n)

/-- Admit one queue into a free slot, which slot being left open (log entry 12), and issue its first fetch. -/
def admitOne (p q : Nat) (d : Dev) : Dev :=
  let free := d.freeSlots
  let (v, d) := drawFree d
  let n := free.getD (v.toNat % free.length) 0
  let d := modQueue q (fun u => { u with state := .active, slot := some (BitVec.ofNat 12 n) }) d
  let d := modRun q (fun r => { r with slotSince := d.time.ft, asked := [] }) d
  let d := { d with fe := { d.fe with
      lastAdmitted := put 0 d.fe.lastAdmitted p (q + 1), lastMove := d.time.ft },
                    time := { d.time with admitted := true } }
  let d := contextAccess q (bump (cFront 1) 1 d)
  badHeads q 16 (settle q d)

/-- Fill up to n free slots (R308). -/
def admitUpTo : Nat → Dev → Dev
  | 0, d => d
  | n + 1, d => match d.nextPending with
    | none => d
    | some (p, q) => if d.freeSlots.isEmpty then d else admitUpTo n (admitOne p q d)

/-- QUEUE_ADMIT: up to 4 queues at this edge. -/
def execQueueAdmit (s : State) : Host.Outcome State Fault Refusal :=
  lift (fun d => guarded d.fe.running (admitUpTo 4) d) s

/-- Fetched entries that accepted doorbells cover are taken, and traced (R310, R381). -/
def takeEntries (q : Nat) : U32 → List RingEntry → Dev → Dev
  | _, [], d => d
  | i, e :: es, d =>
    let u := d.queue q
    let covered := decide ((u.producer - 1 - i).toNat < u.ringSize ∧ (i - u.started).toNat < u.ringSize ∧ 0 < u.avail)
    let d := if covered then
        traceAdd 2 0x11 q i 0 (slice e.bytes 0 64)
          (modRun q (fun r => { r with
            fetched := r.fetched.filter (fun x => x.1 ≠ i.toNat) ++ [(i.toNat, { e with bytes := slice e.bytes 0 64 })] }) d)
      else d
    takeEntries q (i + 1) es d

/-- RING_FETCH_RETURN: entries reach a queue that holds a slot and whose ring is in host memory; a head that is not
waited on completes at once, and one not wholly covered lets the queue go (R309, R310, R312). -/
def ringReturnDev (q : Nat) (first : U32) (entries : List RingEntry) (d : Dev) : Dev :=
  let u := d.queue q
  if u.state = .active ∧ !u.inDevice then
    let d := modRun q (fun r => { r with
      asked := r.asked.filter (fun x => !decide (x < first.toNat + entries.length ∧ first.toNat < x + 4)) }) d
    lookAhead q (badHeads q 16 (settle q (takeEntries q first entries d)))
  else d

/-- RING_FETCH_RETURN. -/
def execRingFetchReturn (q : QueueId) (first : U32) (entries : List RingEntry) (s : State) :
    Host.Outcome State Fault Refusal := lift (fun d => guarded (!d.fromTrace 0) (ringReturnDev q.toNat first entries) d) s

/-- SLOT_TIMESLICE (R309): 1 ms in the slot, none free, and an equal or higher priority queue PENDING. -/
def timesliceDev (q : Nat) (d : Dev) : Dev :=
  let u := d.queue q
  let waiting := d.fe.queues.any (fun x => decide (x.2.state = .pending ∧ u.priority.toNat ≤ x.2.priority.toNat))
  if u.state = .active ∧ 16000000 ≤ (d.time.ft - (d.qrun q).slotSince).toNat ∧ d.freeSlots.isEmpty = true ∧ waiting = true then
    settle q (modRun q (fun r => { r with yielding := true }) d)
  else d

/-- SLOT_TIMESLICE. -/
def execSlotTimeslice (q : QueueId) (s : State) : Host.Outcome State Fault Refusal := lift (timesliceDev q.toNat) s

/-! ## Limits (R338 to R340, R534) -/

/-- A command's window in fabric-time units (R304, R317): 1,000 ms where neither names one. -/
def windowUnits (u : Queue) (c : Cmd) : Nat :=
  let w := field c.bytes 2 2
  let ms := if w ≠ 0 then w else if u.windowMs ≠ 0 then u.windowMs.toNat else 1000
  16000000 * ms

/-- Fabric-time units without progress that count toward the window (R338). -/
def idleUnits (d : Dev) (c : Cmd) : Nat := (d.time.ft - c.lastProgress).toNat - c.excluded

/-- Cycles at the nominal clock of fabric-time units, saturated (R347). -/
def cyclesOf (units : Nat) : Nat := min (units * 17 / 320) 0xFFFFFFFF

/-- A retried publication whose window ends (R202): the round is discarded and the report tells of it. The live versions of
the ensemble. -/
def growTimesOut (n : Nat) (c : Cmd) (d : Dev) : Nat × Dev :=
  match d.retries.find? (fun r => r.1 = n) with
  | none => (0, d)
  | some (_, r) =>
    let live := match r.session.sched with
      | some (x, _) => (d.ens x.ensemble.toNat).live.length
      | none => 0
    let s := { r.session with inRound := false, tree := none, totals := [], parents := [], finished := [], treeInRound := 0,
                              scoresValid := false }
    let d := { d with retries := d.retries.filter (fun x => decide (x.1 ≠ n)) }
    (live, writeReport c { r.report with reject := 5, events := r.report.events ||| 0x40 } (modSession n (fun _ => s) d))

/-- A window that passes without progress (R339). -/
def windowEnd (q : Nat) (c : Cmd) (d : Dev) : Dev :=
  match c.work with
  | .waiting v =>
    let d := raiseEvent 0x3002 0x8000 (pack [(4, q), (4, c.index.toNat), (8, v.toNat)] []) d
    stopCmd 0x12 (v.toNat % 2 ^ 32) q c.index (bump (cFront 8) 1 (bump (cFront 7) 1 d))
  | .growRetry n =>
    let d := raiseEvent 0x3003 0x8000 (pack [(4, q), (4, c.index.toNat), (1, (byteAt c.bytes 0).toNat)] []) d
    let (live, d) := growTimesOut n c d
    finishWith q c.index 0x23 live (addNote q c.index 4 (bump (cFront 8) 1 d))
  | _ =>
    let d := raiseEvent 0x3003 0x8000 (pack [(4, q), (4, c.index.toNat), (1, (byteAt c.bytes 0).toNat)] []) d
    stopCmd 0x11 (cyclesOf (idleUnits d c)) q c.index (bump (cFront 8) 1 d)

/-- NO_PROGRESS_WINDOW: it ends a running command not past its commit point, and not one that is preempted. -/
def noProgressDev (q : Nat) (i : U32) (d : Dev) : Dev :=
  match d.cmd q i with
  | none => d
  | some c =>
    let preempted := match d.job q i with
      | some j => j.preempted
      | none => false
    if c.completed = true ∨ c.committed = true ∨ preempted = true ∨ idleUnits d c < windowUnits (d.queue q) c then d else windowEnd q c d

/-- NO_PROGRESS_WINDOW. -/
def execNoProgressWindow (q : QueueId) (index : U32) (s : State) : Host.Outcome State Fault Refusal :=
  lift (noProgressDev q.toNat index) s

/-- Whether front-end work is pending. -/
def Dev.workPending (d : Dev) : Bool :=
  d.fe.queues.any (fun u => decide (u.2.state = .pending ∨ u.2.state = .active ∨ u.2.state = .draining))

/-- The front end reset by the Owl (R340): every running command is killed, contexts are kept, and every queue leaves
its slot. -/
def frontReset (d : Dev) : Dev :=
  let qs := d.fe.queues.map (·.1)
  let d := aerReport 3 d
  let d := forEach (fun q d => forEach (fun i d => stopCmd 0x10 0 q i d) ((d.live q).map (·.index)) d) qs d
  let d := forEach (fun q d =>
    if (d.queue q).state = .active then leaveSlot q (if d.hasWork q then .pending else .idle) d else d) qs d
  { d with fe := { d.fe with lastMove := d.time.ft } }

/-- FRONT_END_RESET: 1 s without admission or retirement while work is pending. -/
def execFrontEndReset (s : State) : Host.Outcome State Fault Refusal :=
  lift (fun d => guarded (d.workPending && decide (16000000000 ≤ (d.time.ft - d.fe.lastMove).toNat)) frontReset d) s

/-- COMPLETION_TIMEOUT (R534, R340). -/
def completionTimeoutDev (q : Nat) (i : U32) (d : Dev) : Dev :=
  match d.cmd q i with
  | none => d
  | some c => if c.completed then d else stopCmd 0x11 (cyclesOf (idleUnits d c)) q i (aerReport 0 d)

/-- COMPLETION_TIMEOUT. -/
def execCompletionTimeout (q : QueueId) (index : U32) (s : State) : Host.Outcome State Fault Refusal :=
  lift (completionTimeoutDev q.toNat index) s

end Sys2Proof.Machine
end

