-- ==== Sys2Proof/Machine/Embedding.lean ====
section
/-! DEFINITION. Embedding tables: creation, pages, pins, placement and the steps of EMB_STEP (R205 to R209, R211, R212, R223 to R235, R549). -/

namespace Sys2Proof.Machine
open Sys2Proof

/-! ## Descriptors (R205, R206) -/

/-- A table descriptor. -/
def parseTable (b : List Byte) : TableDesc :=
  { rows := BitVec.ofNat 64 (field b 0 8), width := BitVec.ofNat 16 (field b 8 2), fmt := byteAt b 0xA, opt := byteAt b 0xB,
    stage := byteAt b 0xC, rounding := byteAt b 0xD, stageBase := BitVec.ofNat 16 (field b 0xE 2), keyMode := byteAt b 0x10,
    leafBits := byteAt b 0x11, shard := byteAt b 0x12, treeBase := BitVec.ofNat 32 (field b 0x14 4),
    mu := BitVec.ofNat 32 (field b 0x18 4), eps := BitVec.ofNat 32 (field b 0x1C 4),
    initAcc := BitVec.ofNat 32 (field b 0x20 4), tensor := BitVec.ofNat 32 (field b 0x24 4),
    collective := BitVec.ofNat 32 (field b 0x28 4), slots := BitVec.ofNat 32 (field b 0x2C 4),
    undoBytes := BitVec.ofNat 32 (field b 0x30 4) }

/-- Whether an LF32 is finite and at least 0. -/
def finNonNeg (x : U32) : Bool := isFin32 x.toNat && cmpElem .lf32 .ge x.toNat 0

/-- MU: at least 0 and below 1. -/
def muOk (x : U32) : Bool := finNonNeg x && cmpElem .lf32 .lt x.toNat (oneBits .lf32)

/-- EPS: finite and greater than 0. -/
def epsOk (x : U32) : Bool := isFin32 x.toNat && cmpElem .lf32 .gt x.toNat 0

/-- Whether D is a power of two from 16 to 2^20. -/
def slotsOk (n : Nat) : Bool := (rangeFrom 4 17).any (fun k => n = 2 ^ k)

/-- The first field of a descriptor that R206 refuses. -/
def tableFault (d : Dev) (b : List Byte) : Option Nat :=
  let x := parseTable b
  let rnd := x.rounding.toNat
  firstFault
    [(0x00, decide (x.rows.toNat = 0 ∨ 2 ^ 40 ≤ x.rows.toNat)),
     (0x08, decide (x.width.toNat < 16 ∨ 512 < x.width.toNat ∨ x.width.toNat % 16 ≠ 0)),
     (0x0A, decide (x.fmt ≠ 1 ∧ x.fmt ≠ 3)), (0x0B, decide (4 < x.opt.toNat)), (0x0C, decide (2 < x.stage.toNat)),
     (0x0D, decide (bits rnd 1 0 = 3 ∨ 2 ≤ bits rnd 3 2 ∨ 32 ≤ rnd)),
     (0x10, decide (2 < x.keyMode.toNat)),
     (0x11, if x.keyMode = 1 then decide (x.leafBits = 0 ∨ 16 < x.leafBits.toNat) else decide (x.leafBits ≠ 0)),
     (0x12, decide (2 < x.shard.toNat ∨ (x.shard = 2 ∧ x.stage = 0))), (0x13, decide (byteAt b 0x13 ≠ 0)),
     (0x18, decide (x.opt = 2) && !muOk x.mu), (0x1C, decide (x.opt = 3 ∨ x.opt = 4) && !epsOk x.eps),
     (0x20, decide (x.opt = 3 ∨ x.opt = 4) && !finNonNeg x.initAcc),
     (0x28, if x.shard = 0 then decide (x.collective ≠ 0xFFFFFFFF) else (d.memberBox x.collective.toNat).isNone),
     (0x2C, if x.opt = 0 then decide (x.slots ≠ 0) else !slotsOk x.slots.toNat),
     (0x30, decide (x.undoBytes.toNat % 4096 ≠ 0)), (0x34, !zeroAt b 0x34 12)]

/-! ## Frames (R212, R218, R390) -/

/-- Frames of a channel in the software range. -/
def softFrames : Nat := 0xFF000

/-- Free frames of a channel. -/
def Dev.freeFramesIn (d : Dev) (k : Nat) : Nat :=
  ((List.range softFrames).filter (fun f => !d.rangeUsed (frameAddr k f 0) 4096)).length

/-- Frames of a channel that are free whatever the places of what lies in memory: an allocation meets at most one frame of the
channel in each stripe of 2^20 bytes. -/
def Dev.freeAtLeast (d : Dev) (k : Nat) : Nat :=
  let ranges := (d.mem.allocs.map (fun x => x.2 / 2 ^ 20 + 2)).sum
  let tables := (d.embed.tables.map (fun t => (t.2.pages.filter (fun p => match p.2 with
    | some g => decide (g.channel.toNat = k)
    | none => false)).length + ((look [] t.2.areas k).map (·.2)).sum)).sum
  softFrames - ranges - tables

/-- Whether a channel has n free frames. -/
def Dev.hasFrames (d : Dev) (k n : Nat) : Bool := decide (n ≤ d.freeAtLeast k) || decide (n ≤ d.freeFramesIn k)

/-- The first frame of a channel that nothing uses from candidate f upward, wrapping round (fuel: the frames). -/
def freeFrom (d : Dev) (k : Nat) : Nat → Nat → Nat
  | 0, f => f % softFrames
  | n + 1, f => if d.rangeUsed (frameAddr k (f % softFrames) 0) 4096 then freeFrom d k n (f + 1) else f % softFrames

/-- A free frame of a channel, which one being left open (log entry 12). -/
def takeFrame (k : Nat) (d : Dev) : Nat × Dev :=
  let (v, d) := drawFree d
  (freeFrom d k softFrames (v.toNat % softFrames), d)

/-! ## Creation and deletion (R205, R206, R209) -/

/-- Whether n frames of channel k from frame f on are free in one run. -/
def Dev.runFree (d : Dev) (k f n : Nat) : Bool :=
  decide (f + n ≤ softFrames) &&
    d.mem.allocs.all (fun x => decide (x.1 + x.2 ≤ f * 2 ^ 20 ∨ (f + n) * 2 ^ 20 ≤ x.1)) &&
    d.embed.tables.all (fun t =>
      t.2.pages.all (fun p => match p.2 with
        | some g => decide (g.channel.toNat ≠ k ∨ g.frame.toNat < f ∨ f + n ≤ g.frame.toNat)
        | none => true) &&
      (look [] t.2.areas k).all (fun r => decide (r.1 + r.2 ≤ f ∨ f + n ≤ r.1)))

/-- Give channel k of a table n frames, each of them taken for itself (fuel: the frames). -/
def placeFrames (t k : Nat) : Nat → Dev → Dev
  | 0, d => d
  | n + 1, d =>
    let (f, d) := takeFrame k d
    placeFrames t k n (modTable t (fun u => { u with areas := upd [] u.areas k (· ++ [(f, 1)]) }) d)

/-- Give channel k of a table n frames for its directory, staging area and undo log: one run from a candidate left open, where it is
free (log entries 12 and 53). -/
def placeArea (t k n : Nat) (d : Dev) : Dev :=
  let (v, d') := drawFree d
  let f := v.toNat % softFrames
  if d.runFree k f n then modTable t (fun u => { u with areas := put [] u.areas k [(f, n)] }) d' else placeFrames t k n d

/-- Give pages from q on frames in their home channels, each with its directory entry (R212). -/
def placePages (t : Nat) : Nat → Nat → Dev → Dev
  | 0, _, d => d
  | n + 1, q, d =>
    let k := homeChannel t q
    let (f, d) := takeFrame k d
    placePages t n (q + 1) (setPage t q { channel := BitVec.ofNat 8 k, frame := BitVec.ofNat 20 f, pinned := false } d)

/-- A table's area of channel k at creation: its frames are cleared, so that every staging slot is free (R218, log entry 53). -/
def clearArea (t k : Nat) (d : Dev) : Dev := { d with mem := clearFrames k (look [] (d.table t).areas k) d.mem }

/-- Write the header and state words of local row r at creation (R209). -/
def initRow (t : Nat) (x : TableDesc) (r : Nat) (d : Dev) : Dev :=
  let a := d.rowAddr t x r
  let d := memWrite 4 a (leBytes 4 0 ++ leBytes 8 0 ++ leBytes 4 x.stateDesc) false d
  let w := if x.opt = 3 ∨ x.opt = 4 then x.initAcc.toNat else 0
  if x.words = 0 then d
  else memWrite 4 (a + 16 + x.payBytes) ((List.replicate x.words (leBytes 4 w)).flatten) false d

/-- A DETAIL for which the manual names no value (log entry 17). -/
def Dev.openDetail (d : Dev) : Nat := (Config.freeValue d.free).toNat % 2 ^ 32

/-- TABLE_CREATE. -/
def tableCreateReq (b : List Byte) (d : Dev) : Answer :=
  let t := field b 0x20 4
  let s := slice b 0x28 64
  let x := parseTable s
  if 1024 ≤ t then .error (1, 0x20)
  else if (d.table t).desc.isSome then .error (0xA, 0x20)
  else match tableFault d s with
    | some o => .error (6, o)
    | none =>
      if x.stage = 2 ∧ d.agreed 2 = false then .error (3, 2)
      else if x.fmt = 3 ∧ d.agreed 20 = false then .error (3, 20)
      else
        let n := d.localPages x
        if (List.range 256).any (fun k => !d.hasFrames k (homePages t n k + areaFrames t x n k)) then
          .error (6, d.openDetail)
        else
          let d := modTable t (fun _ => { Table.reset with desc := some x }) d
          let d := forEach (fun k d => clearArea t k (placeArea t k (areaFrames t x n k) d)) (List.range 256) d
          let d := placePages t n 0 d
          .ok ([], forEach (initRow t x) (List.range (d.localRows x)) d)

/-- TABLE_CREATE. -/
def execTableCreate (s : State) : Host.Outcome State Fault Refusal :=
  lift (servePcie 0x50 5 [u 4, blk 64] tableCreateReq) s

/-- A request on a table that exists: the table's descriptor, or the refusal of R205. -/
def onTable (b : List Byte) (d : Dev) (f : Nat → TableDesc → Answer) : Answer :=
  let t := field b 0x20 4
  if 1024 ≤ t then .error (1, 0x20)
  else match (d.table t).desc with
    | none => .error (9, 0)
    | some x => f t x

/-- TABLE_DELETE: BUSY while a step is open. -/
def tableDeleteReq (b : List Byte) (d : Dev) : Answer :=
  onTable b d (fun t _ =>
    if (d.table t).step.isSome then .error (4, d.openDetail) else .ok ([], modTable t (fun _ => Table.reset) d))

/-- TABLE_DELETE. -/
def execTableDelete (s : State) : Host.Outcome State Fault Refusal := lift (servePcie 0x51 5 [u 4] tableDeleteReq) s

/-- TABLE_PAGES (R549). -/
def tablePagesReq (b : List Byte) (d : Dev) : Answer :=
  let first := field b 0x28 8
  let n := field b 0x30 4
  onTable b d (fun t x =>
    if n = 0 ∨ 500 < n then .error (1, 0x30)
    else if d.localPages x < first + n then .error (0xF, 0x28)
    else if (d.table t).step.isSome then .error (4, d.openDetail)
    else .ok (((rangeFrom first n).map (fun q => leBytes 8 (d.rowAddr t x (q * x.rpp)))).flatten, d))

/-- TABLE_PAGES. -/
def execTablePages (s : State) : Host.Outcome State Fault Refusal :=
  lift (servePcie 0x55 5 [u 4, u 8, u 4] tablePagesReq) s

/-! ## Pins and placement (R233, R234) -/

/-- A pin's pages without a range: the parts before and after it. -/
def cutPin (first n : Nat) (p : Pin) : List Pin :=
  (if p.first < first then [{ p with pages := min p.pages (first - p.first) }] else []) ++
    (if first + n < p.first + p.pages then
       let lo := max p.first (first + n)
       [{ p with first := lo, pages := p.first + p.pages - lo }]
     else [])

/-- The range that a PIN or UNPIN names: PAGES 0 is the whole table. -/
def pinRange (d : Dev) (x : TableDesc) (b : List Byte) : Nat × Nat :=
  let n := field b 0x30 8
  if n = 0 then (0, d.localPages x) else (field b 0x28 8, n)

/-- PIN: it takes effect at the table's next placement. -/
def pinReq (b : List Byte) (d : Dev) : Answer :=
  onTable b d (fun t x =>
    let (first, n) := pinRange d x b
    let target := byteAt b 0x38
    if 8 ≤ target.toNat ∧ target ≠ 0xFF then .error (1, 0x38)
    else if d.localPages x < first + n then .error (0xF, 0x28)
    else .ok ([], modTable t (fun u => { u with
      pins := (u.pins.map (cutPin first n)).flatten ++ [{ first := first, pages := n, target := target }] }) d))

/-- PIN. -/
def execPin (s : State) : Host.Outcome State Fault Refusal := lift (servePcie 0x52 5 [u 4, u 8, u 8, u 1] pinReq) s

/-- Clear PINNED of a page. -/
def unpinPage (t q : Nat) (d : Dev) : Dev :=
  match look none (d.table t).pages q with
  | some g => if g.pinned then setPage t q { g with pinned := false } d else d
  | none => d

/-- UNPIN clears PINNED and moves nothing. -/
def unpinReq (b : List Byte) (d : Dev) : Answer :=
  onTable b d (fun t x =>
    let (first, n) := pinRange d x b
    if d.localPages x < first + n then .error (0xF, 0x28)
    else .ok ([], forEach (unpinPage t) (rangeFrom first n)
      (modTable t (fun u => { u with pins := (u.pins.map (cutPin first n)).flatten }) d)))

/-- UNPIN. -/
def execUnpin (s : State) : Host.Outcome State Fault Refusal := lift (servePcie 0x53 5 [u 4, u 8, u 8] unpinReq) s

/-- PLACEMENT: PLACE_RATIO 1.0 to 16.0, PLACE_MOVES up to 4,096. -/
def placementReq (b : List Byte) (d : Dev) : Answer :=
  let r := field b 0x20 4
  let n := field b 0x24 4
  if !(isFin32 r && cmpElem .lf32 .ge r 0x3F800000 && cmpElem .lf32 .le r 0x41800000) then .error (1, 0x20)
  else if 4096 < n then .error (1, 0x24)
  else .ok ([], { d with embed := { d.embed with placeRatio := BitVec.ofNat 32 r, placeMoves := BitVec.ofNat 32 n } })

/-- PLACEMENT. -/
def execPlacement (s : State) : Host.Outcome State Fault Refusal := lift (servePcie 0x54 6 [u 4, u 4] placementReq) s

/-- Move local page q of table t to a free frame of channel k, with its poison bits (R233). -/
def movePage (t q k : Nat) (g : Page) (d : Dev) : Dev :=
  let data := d.marked (frameAddr g.channel.toNat g.frame.toNat 0) 4096
  let (f, d) := takeFrame k d
  let d := memLand 4 (frameAddr k f 0) data d
  bump (cBadger k 12) 1 (setPage t q { g with channel := BitVec.ofNat 8 k, frame := BitVec.ofNat 20 f } d)

/-- Channels where a pin lets page q of table t lie: its home, or those of a stack. -/
def pinChannels (t q : Nat) (p : Pin) : List Nat :=
  if p.target = 0xFF then [homeChannel t q] else rangeFrom (32 * p.target.toNat) 32

/-- Apply a pin to page q: a page that lies elsewhere moves when there is a free frame (R234); the channel where a page stays counts
PIN_PENDING (log entry 112). -/
def applyPin (t q : Nat) (p : Pin) (d : Dev) : Dev :=
  match look none (d.table t).pages q with
  | none => d
  | some g =>
    let ok := pinChannels t q p
    let setPin (d : Dev) : Dev := match look none (d.table t).pages q with
      | some g => setPage t q { g with pinned := true } d
      | none => d
    if ok.contains g.channel.toNat then setPin d
    else
      let (k, d) := pickOne (ok.filter (fun k => d.hasFrames k 1)) d
      match k with
      | some k => setPin (movePage t q k g d)
      | none => bump (cBadger g.channel.toNat 13) 1 d

/-- Apply every pin of a table. -/
def applyPins (t : Nat) (d : Dev) : Dev :=
  forEach (fun (p : Pin) d => forEach (fun q d => applyPin t q p d) (rangeFrom p.first p.pages) d) (d.table t).pins d

/-- Whether a exceeds ratio × b, the ratio an LF32. -/
def overRatio (ratio : U32) (a b : Nat) : Bool :=
  match readFloat .lf32 ratio.toNat with
  | .fin _ num den exp =>
    if 0 ≤ exp then decide (num * 2 ^ exp.toNat * b < a * den) else decide (num * b < a * den * 2 ^ (-exp).toNat)
  | _ => false

/-- The entries of a list with the greatest measure. -/
def mostBy {α : Type} (f : α → Nat) (l : List α) : List α :=
  let m := (l.map f).foldl max 0
  l.filter (fun x => f x = m)

/-- Whether a pin holds page q. -/
def Table.pinHolds (u : Table) (q : Nat) : Bool := u.pins.any (fun p => decide (p.first ≤ q ∧ q < p.first + p.pages))

/-- Pages of table t that may move from channel k: listed there, neither pinned nor already moved. A page that a pin could not move
stays too (R234). -/
def movable (d : Dev) (t k : Nat) (moved : List Nat) : List (Nat × Nat) :=
  (d.engine k).heat.filterMap (fun e =>
    if e.1 = t ∧ moved.contains e.2.1 = false then
      match look none (d.table t).pages e.2.1 with
      | some g => if g.pinned = false ∧ (d.table t).pinHolds e.2.1 = false ∧ g.channel.toNat = k then some (e.2.1, e.2.2) else none
      | none => none
    else none)

/-- Placement by measured heat over the pages of table t (R233), L_c being each engine's count; answers the moves left (fuel: the
moves). Ties are left open (log entry 12). It ends where the most loaded channel has no page that may move or is itself the least
loaded one with a free frame (log entry 113). -/
def placeHot (t : Nat) : Nat → List Nat → Dev → Nat × Dev
  | 0, _, d => (0, d)
  | n + 1, moved, d =>
    let load (k : Nat) : Nat := (d.engine k).accesses
    let loads := (List.range 256).map load
    if !overRatio d.embed.placeRatio (256 * loads.foldl max 0) loads.sum then (n + 1, d)
    else
      let (src, d) := pickOne (mostBy load (List.range 256)) d
      let k := src.getD 0
      let (pg, d) := pickOne (mostBy (fun (p : Nat × Nat) => p.2) (movable d t k moved)) d
      let (dst, d) := pickOne (leastBy load ((List.range 256).filter (fun k => d.hasFrames k 1))) d
      match pg, dst with
      | some (q, c), some j =>
        if j = k then (n + 1, d)
        else match look none (d.table t).pages q with
          | none => (n + 1, d)
          | some g =>
            let d := modEngine j (fun e => { e with accesses := e.accesses + c })
              (modEngine k (fun e => { e with accesses := e.accesses - c }) d)
            placeHot t n (moved ++ [q]) (movePage t q j g d)
      | _, _ => (n + 1, d)

/-! ## EMB_STEP (R223 to R228) -/

/-- An entry of a step block. -/
structure StepEntry where
  table : Nat
  lr    : Nat
  scale : Nat
deriving DecidableEq, Repr

/-- Faults of the ring entry (R223). -/
def embFault (b : List Byte) : Option Nat :=
  let n := field b 0x20 2
  let a := field b 0x18 8
  firstFault
    [(0x10, decide (field b 0x10 8 = 0)), (0x18, decide (a % 64 ≠ 0) || !inSoft a (16 * n)),
     (0x20, decide (n = 0 ∨ 64 < n)), (0x22, decide (2 < field b 0x22 1)), (0x23, decide (2 ≤ field b 0x23 1)),
     (0x24, !zeroAt b 0x24 28)]

/-- The entries of the step block that a command names. -/
def stepEntries (d : Dev) (b : List Byte) : List (List Byte) :=
  (List.range (field b 0x20 2)).map (fun i => d.bytesAt (field b 0x18 8 + 16 * i) 16)

/-- What an entry says. -/
def stepEntry (e : List Byte) : StepEntry := { table := field e 0 2, lr := field e 4 4, scale := field e 8 4 }

/-- Whether an entry fails (R224) under OP 0 BEGIN, 1 APPLY, 2 ABANDON. -/
def entryFails (d : Dev) (op : Nat) (step : U64) (e : List Byte) : Bool :=
  let x := stepEntry e
  if field e 2 2 ≠ 0 ∨ field e 0xC 4 ≠ 0 ∨ isFin32 x.lr = false ∨ isFin32 x.scale = false then true
  else match if x.table < 1024 then (d.table x.table).desc else none with
    | none => true
    | some desc =>
      let u := d.table x.table
      if op = 0 then u.step.isSome || decide (desc.opt = 0) || (d.mode.det && decide (desc.stage = 0))
      else decide (u.step ≠ some step)

/-- Whether the step block fails: an entry, a table named twice. -/
def blockFails (d : Dev) (op : Nat) (step : U64) (es : List (List Byte)) : Bool :=
  es.any (entryFails d op step) || decide (¬ (es.map (fun e => (stepEntry e).table)).Nodup)

/-- Judge an EMB_STEP and act on its tables when it is sound (R224, R548). -/
def embCmd (op : Nat) (act : Nat → Cmd → U64 → List StepEntry → Dev → Dev) (q : Nat) (c : Cmd) (d : Dev) : Dev :=
  match embFault c.bytes with
  | some o => badCommand q c.index o d
  | none =>
    let a := field c.bytes 0x18 8
    let n := 16 * field c.bytes 0x20 2
    let step := BitVec.ofNat 64 (field c.bytes 0x10 8)
    let pois := d.poisonedIn a n
    let es := stepEntries d c.bytes
    if pois ≠ 0 then
      badCommand q c.index 0xFFFFFFFF (modCmd q c.index (fun c => { c with poisonIn := stick32 c.poisonIn pois })
        (countPoisonReads a n d))
    else if blockFails d op step es then badCommand q c.index 0xFFFFFFFF d
    else act q c step (es.map stepEntry) d

/-- BEGIN opens the step (R225). -/
def beginStep (q : Nat) (c : Cmd) (step : U64) (es : List StepEntry) (d : Dev) : Dev :=
  finishCmd q c.index (forEach (fun (e : StepEntry) d =>
    modTable e.table (fun u => { u with step := some step, incomplete := false, jobs := [] }) d) es d)

/-- An EMB_STEP whose OP is n; BEGIN takes the reserved ones as well, which it refuses. -/
def isEmb (n : Nat) (b : List Byte) : Bool :=
  isOpcode 4 b && (if n = 0 then decide (field b 0x22 1 ≠ 1 ∧ field b 0x22 1 ≠ 2) else decide (field b 0x22 1 = n))

/-- EMB_STEP BEGIN. -/
def execEmbStepBegin (q : QueueId) (s : State) : Host.Outcome State Fault Refusal :=
  lift (startKind q.toNat (isEmb 0) 5 (embCmd 0 beginStep q.toNat)) s

/-- ABANDON (R227): no row changes. -/
def abandonTables (q : Nat) (c : Cmd) (_ : U64) (es : List StepEntry) (d : Dev) : Dev :=
  finishCmd q c.index (forEach (fun (e : StepEntry) d => serveHeld e.table (abandonStep e.table d)) es d)

/-- EMB_STEP ABANDON. -/
def execEmbStepAbandon (q : QueueId) (s : State) : Host.Outcome State Fault Refusal :=
  lift (startKind q.toNat (isEmb 2) 5 (embCmd 2 abandonTables q.toNat)) s

/-! ## Applying a row (R229 to R231) -/

/-- LF32 results with the flags they raise: a chain of operations. -/
def thenF (a : Nat × BitVec 6) (f : Nat → Res) : Nat × BitVec 6 := let r := f a.1; (r.bits, a.2 ||| r.flags)

/-- One LF32 operation. -/
def opF (r : Res) : Nat × BitVec 6 := (r.bits, r.flags)

/-- A weight less its step, t ahead. -/
def stepDown (w : Nat) (t : Nat × BitVec 6) : Nat × BitVec 6 := thenF t (fun t => sub32 0xFFFF w t)

/-- The update of one element with its own divisor (R230): lr × g, over √a + eps where there is one. -/
def scaledStep (lr g : Nat) (den : Option (Nat × BitVec 6)) : Nat × BitVec 6 :=
  let t := opF (mul32 0xFFFF lr g)
  match den with
  | none => t
  | some dn => ((div32 0xFFFF t.1 dn.1).bits, t.2 ||| dn.2 ||| (div32 0xFFFF t.1 dn.1).flags)

/-- √a + eps. -/
def denomOf (a : Nat × BitVec 6) (eps : Nat) : Nat × BitVec 6 :=
  thenF (thenF a (fun a => sqrt32 0xFFFF a)) (fun r => add32 0xFFFF r eps)

/-- Sum of the squares of g in increasing i from +0. -/
def sumSquares (gs : List Nat) : Nat × BitVec 6 :=
  gs.foldl (fun s g =>
    let q := mul32 0xFFFF g g
    let r := add32 0xFFFF s.1 q.bits
    (r.bits, s.2 ||| q.flags ||| r.flags)) (0, 0)

/-- The optimizer on one row (R230): g × grad_scale already taken; payload and state words in LF32; the new ones and the
flags. -/
def optimize (x : TableDesc) (lr : Nat) (g w st : List Nat) : List Nat × List Nat × BitVec 6 :=
  let orAll (l : List (Nat × BitVec 6)) : BitVec 6 := l.foldl (fun f y => f ||| y.2) 0
  match x.opt.toNat with
  | 1 =>
    let w' := List.zipWith (fun w g => stepDown w (scaledStep lr g none)) w g
    (w'.map (·.1), st, orAll w')
  | 2 =>
    let v' := List.zipWith (fun v g => thenF (opF (mul32 0xFFFF x.mu.toNat v)) (fun m => add32 0xFFFF m g)) st g
    let w' := List.zipWith (fun w (v : Nat × BitVec 6) => stepDown w (scaledStep lr v.1 none)) w v'
    (w'.map (·.1), v'.map (·.1), orAll v' ||| orAll w')
  | 3 =>
    let wide := convElem .int32 .lf32 false false .nearestEven 0 x.width.toNat
    let u := thenF (sumSquares g) (fun s => div32 0xFFFF s wide.bits)
    let a := thenF u (fun u => add32 0xFFFF (st.headD 0) u)
    let dn := denomOf a x.eps.toNat
    let w' := List.zipWith (fun w g => stepDown w (scaledStep lr g (some dn))) w g
    (w'.map (·.1), [a.1], dn.2 ||| orAll w')
  | _ =>
    let a' := List.zipWith (fun a g => thenF (opF (mul32 0xFFFF g g)) (fun q => add32 0xFFFF a q)) st g
    let w' := List.zipWith (fun (p : Nat × Nat × BitVec 6) g =>
      stepDown p.1 (scaledStep lr g (some (denomOf p.2 x.eps.toNat)))) (w.zip a') g
    (w'.map (·.1), a'.map (·.1), orAll a' ||| orAll w')

/-- n little-endian words of m bytes. -/
def wordsAt (b : List Byte) (o m n : Nat) : List Nat := (List.range n).map (fun i => field b (o + m * i) m)

/-- Why a staged row is skipped (R229), the first case that applies: the counter beside SKIPPED_ROWS and the flag. -/
def skipRow (x : TableDesc) (s : Staged) (poisoned : Bool) (desc : Nat) : Option (Option Nat × BitVec 6) :=
  if poisoned then some (some 10, 0)
  else if desc ≠ x.stateDesc then some (some 11, 0)
  else if x.xs then
    if tagKind s.tag ≠ 0 then some (none, fInvalid)
    else if s.values.any (fun v => !xsInRange x.wide (toSigned (xsWidth x.wide) v.toNat)) then some (none, fXsOver)
    else none
  else if s.values.any (fun v => !isFin32 v.toNat) then some (none, fInvalid)
  else none

/-- Whether a granule of a staging slot is poisoned (R229). -/
def Dev.slotPoisoned (d : Dev) (t : Nat) (x : TableDesc) (s : Staged) : Bool :=
  d.areaPoison t s.channel (d.slotAt t x s.channel s.slot) x.slotBytes

/-- Apply the optimizer to a row with a staging slot (R229 to R231): the flags, whether it was skipped for poison. -/
def applyRow (t : Nat) (x : TableDesc) (step : U64) (lr scale : Nat) (s : Staged) (d : Dev) : BitVec 6 × Bool × Dev :=
  let a := d.rowAddr t x s.row
  let k := d.rowChannel t x s.row
  let bytes := d.bytesAt a x.slot
  let range : BitVec 6 := if s.range then fRange else 0
  match skipRow x s (d.slotPoisoned t x s || decide (0 < d.poisonedIn a x.slot)) (field bytes 0xC 4) with
  | some (ctr, fl) =>
    let d := bump (cBadger k 9) 1 d
    (fl ||| range, decide (ctr = some 10), match ctr with
      | some n => bump (cBadger k n) 1 d
      | none => d)
  | none =>
    let gs : List (Nat × BitVec 6) := s.values.map (fun v =>
      if x.xs then opF (xsOut x.wide x.base .lf32 false false .nearestEven 0 { reg := v, tag := s.tag })
      else (v.toNat, 0))
    let g := gs.map (fun y => thenF y (fun y => mul32 0xFFFF y scale))
    let p := x.payload
    let w := (wordsAt bytes 16 p.size x.width.toNat).map (fun v => (convElem p .lf32 false false .nearestEven 0 v).bits)
    let st := wordsAt bytes (16 + x.payBytes) 4 x.words
    let (w', st', fl) := optimize x lr (g.map (·.1)) w st
    let r := d.globalRow x s.row
    let out := (w'.zip (List.range x.width.toNat)).map (fun y =>
      convElem .lf32 p (bitOf x.rounding.toNat 4) false x.payRnd
        (srBits x.tensor (BitVec.ofNat 48 (r * x.width.toNat + y.2)) (step.setWidth 32)) y.1)
    let header := leBytes 4 (field bytes 0 4 + 1) ++ leBytes 8 step.toNat ++ leBytes 4 x.stateDesc
    let d := memWrite 1 a (header ++ (out.map (fun o => leBytes p.size o.bits)).flatten ++
      (st'.map (fun v => leBytes 4 v)).flatten) false d
    (g.foldl (fun f y => f ||| y.2) 0 ||| fl ||| out.foldl (fun f o => f ||| o.flags) 0 ||| range, false,
      bump (cBadger k 4) 1 d)

/-- A staged row is applied and its slot freed; the command takes the flags, and 0x02 where the row was skipped for poison. -/
def applySlot (q : Nat) (i : U32) (t : Nat) (x : TableDesc) (step : U64) (lr scale : Nat) (s : Staged) (d : Dev) : Dev :=
  let (fl, p, d) := applyRow t x step lr scale s d
  let d := setStaging t x (fun l => l.filter (fun y => decide (y.row ≠ s.row))) d
  let d := modCmd q i (fun c => { c with flags := c.flags ||| fl }) d
  if p then addFact q i 0x02 0 d else d

/-! ## APPLY (R226) -/

/-- Another member's sums and tag of a row added to a staging slot (R44). -/
def joinStaged (x : TableDesc) (vals : List (BitVec 128)) (t : Byte) (s : Staged) : Staged :=
  { s with
    tag := tagJoin s.tag t,
    values := List.zipWith (fun o v => (xsAdd x.wide { reg := o, tag := 0 } { reg := v, tag := 0 }).reg) s.values vals }

/-- Another member's staging of a row joins that of this module (step 2 of R226); a poison mark marks the slot (R430). -/
def combineRow (t : Nat) (x : TableDesc) (step : U64) (o : StagedRow) (d : Dev) : Dev :=
  let r := o.row
  let u := d.table t
  let k := d.rowChannel t x r
  let d := if (u.staged r).isSome then d
    else
      let (slot, _) := probeFree (u.inUse k) x.slots.toNat x.slots.toNat (r % x.slots.toNat) 1
      setStaging t x (· ++ [freshStaged x k slot r (step.setWidth 32)]) d
  let d := setStaging t x (updateFirst (fun s => s.row = r) (joinStaged x o.values o.tag)) d
  match if o.poisoned then (d.table t).staged r else none with
  | none => d
  | some s => match d.areaAddr t k (d.slotAt t x k s.slot) with
    | none => d
    | some a => memStore 1 a (d.bytesAt a 64) true d

/-- This module's staging of a replicated table goes to the other members of its group: table, row, first element, values and tag,
with the poison of the slot (R226 step 2, R430; log entry 114). -/
def sendStaging (t : Nat) (x : TableDesc) (d : Dev) : Dev :=
  let g := x.collective.toNat
  let own := d.fabric.cfg.moduleId.toNat
  let seq := (d.group g).seq + 1
  let others := (d.ranks x).filter (fun m => m ≠ own)
  if others.isEmpty then d
  else
    let d := modGroup g (fun u => { u with seq := seq }) d
    forEach (fun (s : Staged) d =>
      let mask := if d.slotPoisoned t x s then 2 ^ 15 - 1 else 0
      forEach (fun n d =>
        let b := leBytes 2 t ++ leBytes 8 s.row ++ leBytes 2 (12 * n) ++ [s.tag] ++
          (((s.values.drop (12 * n)).take 12).map (fun v => leBytes x.elemBytes v.toNat)).flatten
        forEach (fun m d => sendFlit m 8 false mask (g + 2 ^ 12 * n) (b ++ collTrailer 0 seq 0 0 4) g d) others d)
        (List.range (ceilDiv x.width.toNat 12)) d) (d.table t).staging d

/-- RANGE of the staging slots of a table (R221). -/
def Table.ranges (u : Table) : BitVec 6 := if u.staging.any (·.range) then fRange else 0

/-- APPLY reaches a listed table, once for each step: the staging is combined, and its rows stop serving gathers. A step that is
incomplete frees its slots without updating a row, and the command completes with 0x22; RANGE of the slots is in its flag
summary all the same (R121, R226). -/
def beginTable (q : Nat) (i : U32) (step : U64) (others : List StagedRow) (t : Nat) (x : TableDesc) (d : Dev) : Dev :=
  if (d.table t).applying then d
  else
    let d := if x.shard = 2 then
        forEach (fun (o : StagedRow) d => if o.table = t ∧ o.row < d.localRows x then combineRow t x step o d else d) others
          (sendStaging t x d)
      else d
    let d := modTable t (fun u => { u with applying := true }) d
    if (d.table t).incomplete then
      addFact q i 0x22 0xFFFFFFFF (setStaging t x (fun _ => [])
        (modCmd q i (fun c => { c with flags := c.flags ||| (d.table t).ranges }) d))
    else d

/-- Every row of a listed table is done: pins, placement, and its step closes (R226 steps 5 and 6). -/
def endTable (t : Nat) (noPlace : Bool) (moves : Nat) (d : Dev) : Nat × Dev :=
  let d := applyPins t d
  let (moves, d) := if noPlace ∨ d.agreed 6 = false then (moves, d) else placeHot t moves [] d
  (moves, serveHeld t (abandonStep t d))

/-- Reset every engine's step count and list (R232). -/
def resetHeat (d : Dev) : Dev := { d with embed := { d.embed with engines := [] } }

/-- What an APPLY has still to do: rows that may be applied now, entries, and moves left at the boundary. -/
structure ApplyLeft where
  rows    : Nat
  entries : List (Nat × Nat × Nat)
  moves   : Nat
deriving DecidableEq, Repr

/-- One step of an APPLY at work: a row of the first entry's table, or the end of that table. -/
def applyOnce (others : List StagedRow) (q : Nat) (i : U32) (step : U64) (noPlace : Bool) (w : ApplyLeft) (d : Dev) : ApplyLeft × Dev :=
  match w.entries with
  | [] => (w, d)
  | (t, lr, scale) :: es => match (d.table t).desc with
    | none => ({ w with entries := es }, d)
    | some x =>
      let d := beginTable q i step others t x d
      match (d.table t).staging with
      | s :: _ => if w.rows = 0 then (w, d) else ({ w with rows := w.rows - 1 }, applySlot q i t x step lr scale s d)
      | [] =>
        let (moves, d) := endTable t noPlace w.moves d
        ({ w with entries := es, moves := moves }, d)

/-- Run an APPLY as far as its rows go (fuel). -/
def applyRun (others : List StagedRow) (q : Nat) (i : U32) (step : U64) (noPlace : Bool) : Nat → ApplyLeft → Dev → ApplyLeft × Dev
  | 0, w, d => (w, d)
  | n + 1, w, d =>
    let (w, d) := applyOnce others q i step noPlace w d
    applyRun others q i step noPlace n w d

/-- An APPLY at work goes on; it completes once every listed table is closed, else it can be stopped between rows (R228). rows: how
many rows the engines update before another command acts (log entry 57). -/
def goOnApply (rows : Nat) (others : List StagedRow) (q : Nat) (c : Cmd) (left : List (Nat × Nat × Nat)) (moves : Nat) (d : Dev) :
    Dev :=
  let step := BitVec.ofNat 64 (field c.bytes 0x10 8)
  let (w, d) := applyRun others q c.index step (bitOf (field c.bytes 0x23 1) 0) (rows + left.length)
    { rows := rows, entries := left, moves := moves } d
  if w.entries.isEmpty then finishCmd q c.index (resetHeat d)
  else modCmd q c.index (fun c => { c with work := .rows w.entries w.moves }) d

/-- The work of an APPLY whose barriers are released. -/
def performApply (rows : Nat) (others : List StagedRow) (q : Nat) (c : Cmd) (_ : U64) (es : List StepEntry) (d : Dev) : Dev :=
  goOnApply rows others q c (es.map (fun e => (e.table, e.lr, e.scale))) d.embed.placeMoves.toNat d

/-- The groups with other members that the listed tables span. -/
def applyGroups (d : Dev) (es : List StepEntry) : List Nat :=
  (es.filterMap (fun e => match (d.table e.table).desc with
    | some x => if x.shard ≠ 0 ∧ 1 < (d.ranks x).length then some x.collective.toNat else none
    | none => none)).eraseDups

/-- Arrive at the barriers of groups: the groups with the SEQ of each arrival. -/
def arriveAll : List Nat → Dev → List (Nat × U64) × Dev
  | [], d => ([], d)
  | g :: gs, d =>
    let seq := d.freeSeq g
    let (l, d) := arriveAll gs (ownArrival g seq d)
    ((g, seq) :: l, d)

/-- APPLY of a sound command (R226): with no group to wait for it acts at once; else it arrives, once every scatter that this module
sent for its tables has been added at its owner, and waits. -/
def startApply (rows : Nat) (others : List StagedRow) (q : Nat) (c : Cmd) (step : U64) (es : List StepEntry) (d : Dev) : Dev :=
  let gs := applyGroups d es
  if gs.isEmpty then performApply rows others q c step es d
  else if es.any (fun e => decide ((d.table e.table).sent ≠ 0)) then d
  else
    let (waits, d) := arriveAll gs d
    modCmd q c.index (fun c => { c with work := .apply waits }) d

/-- APPLYs of a queue that are on their way: those that have not arrived arrive, those whose barriers are released act, those at work
go on. -/
def resumeApply (rows : Nat) (others : List StagedRow) (q : Nat) (d : Dev) : Dev :=
  forEach (fun (c : Cmd) d =>
    if isEmb 1 c.bytes then
      match c.work with
      | .apply waits =>
        if waits.all (fun w => d.released w.1 w.2) then embCmd 1 (performApply rows others) q c d else d
      | .rows left moves => goOnApply rows others q c left moves d
      | _ => embCmd 1 (startApply rows others) q c d
    else d) (d.live q) d

/-- EMB_STEP APPLY. -/
def execEmbStepApply (q : QueueId) (others : ApplyOp) (s : State) : Host.Outcome State Fault Refusal :=
  lift (fun d => startKind q.toNat (isEmb 1) 5 (embCmd 1 (startApply others.rows others.others) q.toNat)
    (resumeApply others.rows others.others q.toNat d)) s

end Sys2Proof.Machine
end

