-- ==== Sys2Proof/Machine/Ensembles.lean ====
section
/-! DEFINITION. Tree ensembles: the image and its checks, binning, walks, sums, transforms and decisions (R126 to R152), and the fit of scoring layouts (R159, R160, R165 to R167, R176). -/

namespace Sys2Proof.Machine
open Sys2Proof

/-! ## Reading an image (R127 to R131, R137 to R141, R149, R150) -/

/-- n little-endian words of 4 bytes at a device address. -/
def Dev.u32s (d : Dev) (a n : Nat) : List U32 := (wordsAt (d.bytesAt a (4 * n)) 0 4 n).map (BitVec.ofNat 32)

/-- FEATURE of a tree word. -/
def wFeature (w : U64) : Nat := bits w.toNat 63 48
/-- THRESHOLD of a tree word. -/
def wThreshold (w : U64) : Nat := bits w.toNat 47 32
/-- MISS_LEFT of a tree word. -/
def wMissLeft (w : U64) : Bool := bitOf w.toNat 31
/-- KIND of a tree word. -/
def wKind (w : U64) : Nat := bits w.toNat 30 28
/-- LINK of a tree word. -/
def wLink (w : U64) : Nat := bits w.toNat 27 0

/-- A feature entry with its boundaries; none when R128 or R132 refuses it. -/
def readFeature (d : Dev) (boundary : Nat) (b : List Byte) : Option Feature :=
  let n := field b 4 2
  let raw := field b 6 1
  let wide := decide (field b 7 1 = 1)
  let bounds := if raw < 2 then d.u32s (boundary + 4 * field b 0 4) n else []
  let rising := (List.zip bounds (bounds.drop 1)).all (fun p =>
    if raw = 0 then cmpElem .lf32 .lt p.1.toNat p.2.toNat else decide (p.1.toInt < p.2.toInt))
  if 4 ≤ raw ∨ 2 ≤ field b 7 1 ∨ (raw = 2 ∧ wide = true) ∨ (raw = 3 ∧ wide = false) ∨ 2 ≤ field b 8 1 ∨
      (field b 8 1 ≠ 0 ∧ raw ≠ 1) ∨ field b 9 3 ≠ 0 ∨ (2 ≤ raw ∧ n ≠ 0) ∨ (raw < 2 ∧ n = 0) ∨
      (raw < 2 ∧ wide = false ∧ 255 < n) ∨ rising = false ∨
      (raw = 0 ∧ bounds.all (fun x => isFin32 x.toNat) = false) then none
  else some { bounds := bounds, rawFmt := byteAt b 6, wide := wide, missEn := decide (field b 8 1 = 1),
              missValue := BitVec.ofNat 32 (field b 0xC 4) }

/-- Whether a split word's feature and threshold are allowed (R138). -/
def splitOk (fs : List Feature) (maps : Nat) (w : U64) : Bool :=
  match fs[wFeature w]? with
  | none => false
  | some f =>
    if wKind w = 2 then !f.wide && decide (wThreshold w < maps)
    else decide (wThreshold w ≤ if f.wide then 0xFFFE else 0xFE)

/-- Read a subtree in preorder: the words it takes, its leaves and depth (R138; fuel: the depth still allowed). -/
def readSubtree (fs : List Feature) (maps rows : Nat) : Nat → List U64 → Option (Nat × Nat × Nat)
  | _, [] => none
  | fuel, w :: ws =>
    if wKind w = 1 then
      if wFeature w = 0 ∧ wThreshold w = 0 ∧ wMissLeft w = false ∧ wLink w < rows then some (1, 1, 0) else none
    else if wKind w = 0 ∨ wKind w = 2 then
      match fuel with
      | 0 => none
      | fuel + 1 =>
        if !splitOk fs maps w then none
        else match readSubtree fs maps rows fuel ws with
          | none => none
          | some (cl, ll, dl) =>
            if wLink w ≠ cl + 1 then none
            else match readSubtree fs maps rows fuel (ws.drop cl) with
              | none => none
              | some (cr, lr, dr) => some (1 + cl + cr, ll + lr, 1 + max dl dr)
    else none

/-- Row of entry o of a symmetric tree's leaf index array (R140), with its reserved bits. -/
def symEntry (depth : Nat) (ws : List U64) (o : Nat) : Nat :=
  let w := (ws.getD (depth + o / 2) 0).toNat
  if o % 2 = 0 then w % 2 ^ 32 else w / 2 ^ 32

/-- Whether a symmetric tree's words are allowed (R140). -/
def symOk (fs : List Feature) (rows depth : Nat) (ws : List U64) : Bool :=
  decide (1 ≤ depth ∧ depth ≤ 12 ∧ ws.length = depth + 2 ^ (depth - 1)) &&
    (ws.take depth).all (fun w => decide (wKind w = 0 ∧ wLink w = 0) && splitOk fs 0 w) &&
    (List.range (2 ^ depth)).all (fun o => decide (symEntry depth ws o < min rows (2 ^ 28)))

/-- A tree of the directory; none when R129 or R138 to R140 refuses it. -/
def readTree (d : Dev) (fs : List Feature) (maps rows node : Nat) (b : List Byte) : Option Tree :=
  let n := field b 4 4
  let depth := field b 9 1
  let ws := (wordsAt (d.bytesAt (node + 8 * field b 0 4) (8 * n)) 0 8 n).map (BitVec.ofNat 64)
  let leaves := field b 0xA 2 + 1
  if field b 0xC 4 ≠ 0 then none
  else if field b 8 1 = 0 then
    match readSubtree fs maps rows 24 ws with
    | some (c, l, dp) =>
      if c = n ∧ l = leaves ∧ dp = depth then some { symmetric := false, depth := depth, words := ws, leaves := leaves }
      else none
    | none => none
  else if field b 8 1 = 1 then
    if symOk fs rows depth ws ∧ leaves = 2 ^ depth then
      some { symmetric := true, depth := depth, words := ws, leaves := leaves }
    else none
  else none

/-- All of a list, or none. -/
def allSome {α : Type} : List (Option α) → Option (List α)
  | [] => some []
  | x :: xs => match x, allSome xs with
    | some a, some as => some (a :: as)
    | _, _ => none

/-- Whether ranges (start, length) do not overlap. -/
def disjoint : List (Nat × Nat) → Bool
  | [] => true
  | r :: rs => rs.all (fun q => decide (r.1 + r.2 ≤ q.1 ∨ q.1 + q.2 ≤ r.1 ∨ r.2 = 0 ∨ q.2 = 0)) && disjoint rs

/-- A decision table; none when R150 refuses it. -/
def readDecision (b : List Byte) : Option Decision :=
  let n := field b 0 1
  let ts := (wordsAt b 4 4 15)
  let used := ts.take n
  if 15 < n ∨ field b 3 1 ≠ 0 ∨ (ts.drop n).any (fun t => t ≠ 0) = true ∨ used.all isFin32 = false ∨
      (List.zip used (used.drop 1)).all (fun p => cmpElem .lf32 .lt p.1 p.2) = false ∨
      zeroAt b (0x41 + n) (15 - n) = false ∨ zeroAt b 0x50 48 = false then none
  else some { count := n, nanCode := byteAt b 1, poisonCode := byteAt b 2, thresholds := used.map (BitVec.ofNat 32),
              codes := slice b 0x40 16 }

/-- The sections of an image: offset, length and whether it is used. -/
def sectionsOf (d : Dev) (a : Nat) (h : List Byte) : List (Nat × Nat) :=
  let k := field h 8 1
  let fs := (List.range (field h 0xC 4)).map (fun i => d.bytesAt (a + field h 0x28 8 + 16 * i) 16)
  let ts := (List.range (field h 0x10 4)).map (fun i => d.bytesAt (a + field h 0x38 8 + 16 * i) 16)
  let bounds := (fs.map (fun b => if field b 4 2 = 0 then 0 else 4 * (field b 0 4 + field b 4 2))).foldl max 0
  let nodes := (ts.map (fun b => 8 * (field b 0 4 + field b 4 4))).foldl max 0
  [(field h 0x28 8, 16 * fs.length), (field h 0x30 8, bounds), (field h 0x38 8, 16 * ts.length), (field h 0x40 8, nodes),
   (field h 0x48 8, 32 * field h 0x18 4), (field h 0x50 8, 4 * k * field h 0x14 4), (field h 0x58 8, 4 * k),
   (field h 0x60 8, if field h 9 1 = 3 then 768 else 0), (field h 0x68 8, if field h 0xA 1 = 0xFF then 0 else 128)]

/-- Whether the header's own fields are in range (R127). -/
def headerOk (h : List Byte) : Bool :=
  let k := field h 8 1
  let total := field h 0x20 8
  decide (field h 0 4 = 0x4E45514C ∧ field h 4 2 = 1 ∧ field h 6 1 < 2 ∧ field h 7 1 < 32 ∧
    (field h 6 1 = 1 ∨ field h 7 1 = 0) ∧ 1 ≤ k ∧ k ≤ 8 ∧ field h 9 1 < 4 ∧ (field h 9 1 ≠ 2 ∨ 2 ≤ k) ∧
    (field h 0xA 1 = 0xFF ∨ field h 0xA 1 < k) ∧ field h 0xB 1 = 0 ∧ 1 ≤ field h 0xC 4 ∧ field h 0xC 4 ≤ 65536 ∧
    1 ≤ field h 0x10 4 ∧ field h 0x10 4 ≤ 1048576 ∧ 1 ≤ field h 0x14 4 ∧ field h 0x14 4 ≤ 2 ^ 28 ∧
    field h 0x18 4 ≤ 65536 ∧ field h 0x1C 4 = 0 ∧ 256 ≤ total ∧ total ≤ 2 ^ 40) && zeroAt h 0x74 140

/-- Whether sections are aligned, inside the image, apart from one another and from the header, and absent when unused. -/
def sectionsOk (total : Nat) (l : List (Nat × Nat)) : Bool :=
  l.all (fun s => if s.2 = 0 then decide (s.1 = 0) else decide (s.1 % 256 = 0 ∧ 256 ≤ s.1 ∧ s.1 + s.2 ≤ total)) && disjoint l

/-- The contents of the image at a device address; none when R132 refuses it. -/
def readImage (d : Dev) (a : Nat) : Option Ensemble :=
  let h := d.bytesAt a 256
  let total := field h 0x20 8
  let k := field h 8 1
  let at_ (o : Nat) : Nat := a + field h o 8
  let check := crc32c (h.take 0x70 ++ zeros 4 ++ h.drop 0x74 ++ d.bytesAt (a + 256) (total - 256))
  let nT := field h 0x10 4
  let dir := (List.range nT).map (fun i => d.bytesAt (at_ 0x38 + 16 * i) 16)
  let maps := (List.range (field h 0x18 4)).map (fun i => d.bytesAt (at_ 0x48 + 32 * i) 32)
  let leafVals := (List.range (field h 0x14 4)).map (fun r => d.u32s (at_ 0x50 + 4 * k * r) k)
  let base := d.u32s (at_ 0x58) k
  let pwl := if field h 9 1 = 3 then d.u32s (at_ 0x60) 192 else []
  let xs := (pwl.take 64).map (·.toNat)
  let lf := decide (field h 6 1 = 0)
  if headerOk h = false ∨ 0 < d.poisonedIn a total ∨ check.toNat ≠ field h 0x70 4 ∨
      sectionsOk total (sectionsOf d a h) = false ∨
      disjoint (dir.map (fun b => (field b 0 4, field b 4 4))) = false ∨
      maps.any (fun m => bitOf (byteAt m 31).toNat 7) = true ∨
      (lf && !(leafVals.flatten ++ base).all (fun x => isFin32 x.toNat)) = true ∨
      (List.zip xs (xs.drop 1)).all (fun p => cmpElem .lf32 .lt p.1 p.2) = false ∨ xs.all isFin32 = false ∨
      (pwl.getD 191 0) ≠ 0 then none
  else
    match allSome ((List.range (field h 0xC 4)).map (fun i => readFeature d (at_ 0x30) (d.bytesAt (at_ 0x28 + 16 * i) 16))) with
    | none => none
    | some fs =>
      match allSome (dir.map (readTree d fs maps.length leafVals.length (at_ 0x40))),
          (if field h 0xA 1 = 0xFF then some none else (readDecision (d.bytesAt (at_ 0x68) 128)).map some) with
      | some ts, some dec =>
        some { fixedPoint := !lf, scale := field h 7 1, outputs := k, transform := byteAt h 9, decisionOut := byteAt h 0xA,
               features := fs, trees := ts, catmaps := maps, leaves := leafVals, base := base, pwl := pwl, decision := dec }
      | _, _ => none

/-! ## Records and binning (R133 to R136) -/

/-- The missing code of a feature. -/
def Feature.missing (f : Feature) : Nat := if f.wide then 0xFFFF else 0xFF

/-- The smallest i from lo with x ≤ B[i], or the last index (R134; fuel: the boundaries). -/
def binFrom (le : U32 → Bool) : List U32 → Nat → Nat
  | [], i => i
  | [_], i => i
  | b :: bs, i => if le b then i else binFrom le bs (i + 1)

/-- The bin code of a raw value (R134). -/
def Feature.bin (f : Feature) (x : U32) : Nat :=
  if f.rawFmt = 0 then
    if isNan32 x.toNat then f.missing else binFrom (fun b => cmpElem .lf32 .le x.toNat b.toNat) f.bounds 0
  else if f.missEn ∧ x = f.missValue then f.missing
  else binFrom (fun b => decide (x.toInt ≤ b.toInt)) f.bounds 0

/-- Codes of a raw record (R133, R135). -/
def rawCodes (fs : List Feature) (b : List Byte) : List U32 :=
  (fs.zip (List.range fs.length)).map (fun p =>
    let x := field b (4 * p.2) 4
    BitVec.ofNat 32 (if p.1.rawFmt.toNat < 2 then p.1.bin (BitVec.ofNat 32 x)
      else if p.1.wide then x % 65536 else x % 256))

/-- Codes of a binned record from an offset on (R133). -/
def binnedCodes : List Feature → Nat → List Byte → List U32
  | [], _, _ => []
  | f :: fs, o, b =>
    if f.wide then
      let o := alignUp o 2
      BitVec.ofNat 32 (field b o 2) :: binnedCodes fs (o + 2) b
    else BitVec.ofNat 32 (field b o 1) :: binnedCodes fs (o + 1) b

/-- Bytes of a binned record up to its last code. -/
def binnedEnd : List Feature → Nat → Nat
  | [], o => o
  | f :: fs, o => if f.wide then binnedEnd fs (alignUp o 2 + 2) else binnedEnd fs (o + 1)

/-- RECORD_BYTES of the input form (R133). -/
def Ensemble.recordBytes (e : Ensemble) (raw : Bool) : Nat :=
  if raw then alignUp (4 * e.features.length) 8 else alignUp (binnedEnd e.features 0) 8

/-- The codes of a record in its input form. -/
def Ensemble.codesOf (e : Ensemble) (raw : Bool) (b : List Byte) : List U32 :=
  if raw then rawCodes e.features b else binnedCodes e.features 0 b

/-- A binned record of codes: what is written back (R164). -/
def binnedBytes : List Feature → List U32 → List Byte → List Byte
  | f :: fs, c :: cs, acc =>
    if f.wide then binnedBytes fs cs (acc ++ zeros (alignUp acc.length 2 - acc.length) ++ leBytes 2 c.toNat)
    else binnedBytes fs cs (acc ++ leBytes 1 c.toNat)
  | _, _, acc => acc ++ zeros (alignUp acc.length 8 - acc.length)

/-! ## Walks (R139, R141) -/

/-- Whether a record goes left at a split word. -/
def Ensemble.goesLeft (e : Ensemble) (codes : List U32) (w : U64) : Bool :=
  let c := (codes.getD (wFeature w) 0).toNat
  let miss := match e.features[wFeature w]? with
    | some f => f.missing
    | none => 0xFF
  if c = miss then wMissLeft w
  else if wKind w = 2 then bitOf (byteAt (e.catmaps.getD (wThreshold w) []) (c / 8)).toNat (c % 8)
  else decide (c ≤ wThreshold w)

/-- Walk a general tree from word w (fuel: the depth): the leaf's word. -/
def Ensemble.walkFrom (e : Ensemble) (codes : List U32) (ws : List U64) : Nat → Nat → Nat
  | 0, w => w
  | n + 1, w =>
    let x := ws.getD w 0
    if wKind x = 1 then w
    else if e.goesLeft codes x then e.walkFrom codes ws n (w + 1) else e.walkFrom codes ws n (w + wLink x)

/-- Leaf row and ordinal that a record reaches in a tree. -/
def Ensemble.walk (e : Ensemble) (codes : List U32) (t : Tree) : Nat × Nat :=
  if t.symmetric then
    let o := (t.words.take t.depth).foldl (fun o w => 2 * o + b2n (!e.goesLeft codes w)) 0
    (symEntry t.depth t.words o, o)
  else
    let w := e.walkFrom codes t.words t.depth 0
    (wLink (t.words.getD w 0), ((t.words.take w).filter (fun x => wKind x = 1)).length)

/-! ## Sums (R142 to R147) -/

/-- A value and the flags that forming it raised, each with its K field (R147) and origin. -/
structure Sum where
  value : Nat
  flags : List (BitVec 6 × BitVec 6 × Nat)
deriving DecidableEq, Repr

/-- A result joined to a sum at a K field. -/
def Sum.step (s : Sum) (k : Nat) (r : Res) : Sum :=
  { value := r.bits, flags := if r.flags = 0 then s.flags else s.flags ++ [(r.flags, r.origin, k)] }

/-- Output i of a leaf row. -/
def Ensemble.leaf (e : Ensemble) (row i : Nat) : U32 := (e.leaves.getD row []).getD i 0

/-- An INT32 addend in a score register. -/
def xsOfInt (n : Int) : Xs := { reg := xsReg false n, tag := 0 }

/-- A score register after the leaves of fixed-point rows reached (R143). -/
def Ensemble.addLeaves (e : Ensemble) (i : Nat) (rows : List Nat) (x : Xs) : Xs :=
  rows.foldl (fun t r => xsAdd false t (xsOfInt (e.leaf r i).toInt)) x

/-- The raw score of output i with fixed-point leaves, of its score register (R143). -/
def Ensemble.fixedScoreOf (e : Ensemble) (i : Nat) (x : Xs) : Sum :=
  ({ value := 0, flags := [] } : Sum).step 0xFFFFFFFF
    (xsOut false (-(e.scale : Int)) .lf32 false false .nearestEven 0 (xsAdd false (xsOfInt (e.base.getD i 0).toInt) x))

/-- The raw score of output i with fixed-point leaves, of the rows reached (R143). -/
def Ensemble.fixedScore (e : Ensemble) (i : Nat) (rows : List Nat) : Sum := e.fixedScoreOf i (e.addLeaves i rows (xsOfInt 0))

/-- A shard's partial of output i (R144): trees in increasing index with the row each reached. -/
def Ensemble.partialOf (e : Ensemble) (core i : Nat) : List (Nat × Nat) → Sum
  | [] => { value := 0, flags := [] }
  | (_, r) :: l => l.foldl (fun s p => s.step p.1 (add32 core s.value (e.leaf p.2 i).toNat))
      { value := (e.leaf r i).toNat, flags := [] }

/-- The raw score of output i with LF32 leaves from the shards' partials in order, each with its lowest tree (R144). -/
def Ensemble.floatScore (e : Ensemble) (core i : Nat) (partials : List (Nat × Nat)) : Sum :=
  partials.foldl (fun s p => s.step p.1 (add32 core s.value p.2)) { value := (e.base.getD i 0).toNat, flags := [] }

/-! ## Post-transform and decision (R148 to R150) -/

/-- One step of the transform: flags with K 0xFFFF_FFFF. -/
def Sum.then (s : Sum) (f : Nat → Res) : Sum := s.step 0xFFFFFFFF (f s.value)

/-- An LF32 value as a unit writes it: a NaN in the form of R32. -/
def asWritten32 (v : Nat) : Nat := if isNan32 v then nanBits .lf32 v else v

/-- The piecewise-linear table at v (R149). -/
def pwlAt (core : Nat) (p : List U32) (v : Nat) : Res :=
  let x (j : Nat) : Nat := (p.getD j 0).toNat
  let y (j : Nat) : Nat := asWritten32 (p.getD (64 + j) 0).toNat
  if isNan32 v then Res.plain (asWritten32 v)
  else if cmpElem .lf32 .le v (x 0) then Res.plain (y 0)
  else if cmpElem .lf32 .ge v (x 63) then Res.plain (y 63)
  else
    let j := ((List.range 63).filter (fun j => cmpElem .lf32 .le (x j) v)).length - 1
    let t := sub32 core v (x j)
    let r := fma32 core t.bits ((p.getD (128 + j) 0).toNat) (y j)
    { r with flags := r.flags ||| t.flags }

/-- The exponentials and their sum in a softmax (R148). -/
def softmaxParts (core : Nat) (raw : List Sum) : List Sum × Sum :=
  let m := (raw.drop 1).foldl (fun m s => minMaxElem .lf32 true m s.value) ((raw.headD { value := 0, flags := [] }).value)
  let es := raw.map (fun s => (s.then (fun v => sub32 core v m)).then (fun v => funElem .exp .lf32 .nearestEven 0 core v))
  (es, (es.drop 1).foldl (fun (t : Sum) e => t.then (fun v => add32 core v e.value))
    { (es.headD { value := 0, flags := [] }) with flags := [] })

/-- Softmax of the raw scores (R148). -/
def softmax (core : Nat) (raw : List Sum) : List Sum :=
  let (es, t) := softmaxParts core raw
  match es.map (fun e => e.then (fun v => div32 core v t.value)) with
  | [] => []
  | o :: os => { o with flags := o.flags ++ t.flags } :: os

/-- Final scores (R148). -/
def Ensemble.finals (e : Ensemble) (core : Nat) (raw : List Sum) : List Sum :=
  match e.transform.toNat with
  | 1 => raw.map (fun s => s.then (fun v => funElem .logistic .lf32 .nearestEven 0 core v))
  | 2 => softmax core raw
  | 3 => raw.map (fun s => s.then (pwlAt core e.pwl))
  | _ => raw

/-- Decision code of a final score (R150). -/
def Decision.code (t : Decision) (y : Nat) : Byte :=
  if isNan32 y then t.nanCode
  else t.codes.getD ((t.thresholds.filter (fun x => cmpElem .lf32 .ge y x.toNat)).length) 0

/-- Results of one record: raw and final scores, decision code, flags (R151). -/
structure Outcome where
  raw      : List Nat
  finals   : List Nat
  decision : Byte
  flags    : List (BitVec 6 × BitVec 6 × Nat)
deriving DecidableEq, Repr

/-- The decision of final scores, 0 without a table. -/
def Ensemble.decisionOf (e : Ensemble) (finals : List Nat) : Byte :=
  match e.decision with
  | some t => t.code (finals.getD e.decisionOut.toNat 0)
  | none => 0

/-- Outcome of a record whose raw scores are formed; a poisoned one is poison throughout (R146). -/
def Ensemble.finish (e : Ensemble) (core : Nat) (poisoned : Bool) (raw : List Sum) : Outcome :=
  if poisoned then
    let n := List.replicate e.outputs (poisonElem .lf32 core 0)
    { raw := n, finals := n, flags := [], decision := match e.decision with
        | some t => t.poisonCode
        | none => 0 }
  else
    let f := e.finals core raw
    { raw := raw.map (·.value), finals := f.map (·.value), decision := e.decisionOf (f.map (·.value)),
      flags := (f.map (·.flags)).flatten }

/-! ## Shards and layouts (R159, R160, R165 to R167, R176) -/

/-- c_t of a tree (R160). -/
def Tree.cost (t : Tree) : Nat := if t.symmetric then (if t.depth ≤ 8 then 4 else 8) else max t.depth 1

/-- Bytes of a tree block (R159). -/
def Tree.block (k : Nat) (t : Tree) : Nat :=
  if t.symmetric then alignUp (8 * t.depth + 4 * k * 2 ^ t.depth) 8
  else
    let maps := ((t.words.filter (fun w => wKind w = 2)).map wThreshold).eraseDups.length
    alignUp (8 * t.words.length + 32 * maps + if k = 1 then 0 else 4 * k * t.leaves) 8

/-- Words of a general tree that a record's walk reads, from word w on (fuel: the depth). -/
def Ensemble.pathFrom (e : Ensemble) (codes : List U32) (ws : List U64) : Nat → Nat → List Nat
  | 0, w => [w]
  | n + 1, w =>
    let x := ws.getD w 0
    w :: (if wKind x = 1 then [] else e.pathFrom codes ws n (if e.goesLeft codes x then w + 1 else w + wLink x))

/-- What a record's walk reads of a tree's block in shard form: byte offsets and lengths (R159, R161, R162). -/
def Ensemble.readsOf (e : Ensemble) (codes : List U32) (t : Tree) : List (Nat × Nat) :=
  let ordinal := (e.walk codes t).2
  if t.symmetric then
    (8 * t.depth + 4 * e.outputs * ordinal, 4 * e.outputs) :: (List.range t.depth).map (fun l => (8 * l, 8))
  else
    let maps := ((t.words.filter (fun w => wKind w = 2)).map wThreshold).eraseDups
    let path := e.pathFrom codes t.words t.depth 0
    let missing (x : U64) : Nat := (e.features[wFeature x]?.map Feature.missing).getD 0xFF
    let sets := (path.map (fun w => t.words.getD w 0)).filter (fun x => wKind x = 2 ∧ (codes.getD (wFeature x) 0).toNat ≠ missing x)
    let vals := if e.outputs = 1 then [] else
      [(8 * t.words.length + 32 * maps.length + 4 * e.outputs * ordinal, 4 * e.outputs)]
    path.map (fun w => (8 * w, 8)) ++
      sets.map (fun x => (8 * t.words.length + 32 * (maps.filter (fun m => m < wThreshold x)).length +
        (codes.getD (wFeature x) 0).toNat / 8, 1)) ++ vals

/-- Whether the walk of a record through a shard's trees reads a poisoned granule of the shard (R175). -/
def Ensemble.spoils (e : Ensemble) (codes : List U32) (ts bad : List Nat) : Bool :=
  !bad.isEmpty && ts.any (fun t => match e.trees[t]? with
    | none => false
    | some x =>
      let base := ((ts.takeWhile (fun u => u ≠ t)).map (fun u => (e.trees[u]?.map (Tree.block e.outputs)).getD 0)).sum
      (e.readsOf codes x).any (fun r => bad.any (fun g => 64 * g < base + r.1 + r.2 && base + r.1 < 64 * (g + 1))))

/-- A number put into a rising list, once. -/
def putOrdered (n : Nat) : List Nat → List Nat
  | [] => [n]
  | m :: ms => if n < m then n :: m :: ms else if n = m then m :: ms else m :: putOrdered n ms

/-- The categorical maps that a general tree uses, in increasing number. -/
def Tree.maps (t : Tree) : List Nat := ((t.words.filter (fun w => wKind w = 2)).map wThreshold).foldl (fun l m => putOrdered m l) []

/-- The words of a general tree in shard form (R159); ordinal: the leaves before. -/
def Ensemble.shardWords (e : Ensemble) (maps : List Nat) : Nat → List U64 → List U64
  | _, [] => []
  | o, w :: ws =>
    if wKind w = 1 then
      BitVec.ofNat 64 ((if e.outputs = 1 then 2 ^ 32 * (e.leaf (wLink w) 0).toNat else 0) + 2 ^ 28 + o) :: e.shardWords maps (o + 1) ws
    else if wKind w = 2 then
      BitVec.ofNat 64 (2 ^ 48 * wFeature w + 2 ^ 32 * maps.findIdx (fun m => m = wThreshold w) + w.toNat % 2 ^ 32) ::
        e.shardWords maps o ws
    else w :: e.shardWords maps o ws

/-- The K values of a leaf row as bytes. -/
def Ensemble.leafBytes (e : Ensemble) (row : Nat) : List Byte := ((List.range e.outputs).map (fun k => leBytes 4 (e.leaf row k).toNat)).flatten

/-- The block of a tree in shard form (R159). -/
def Ensemble.blockBytes (e : Ensemble) (t : Tree) : List Byte :=
  let b :=
    if t.symmetric then
      ((t.words.take t.depth).map (fun w => leBytes 8 w.toNat)).flatten ++
        ((List.range (2 ^ t.depth)).map (fun o => e.leafBytes (symEntry t.depth t.words o))).flatten
    else
      let leaves := t.words.filter (fun w => wKind w = 1)
      ((e.shardWords t.maps 0 t.words).map (fun w => leBytes 8 w.toNat)).flatten ++
        (t.maps.map (fun m => slice (e.catmaps.getD m []) 0 32)).flatten ++
        (if e.outputs = 1 then [] else (leaves.map (fun w => e.leafBytes (wLink w))).flatten)
  b ++ zeros (alignUp b.length 8 - b.length)

/-- Blocks of consecutive trees in shard form (R159). -/
def Ensemble.shardBytes (e : Ensemble) (ts : List Nat) : List Byte := (ts.map (fun t => (e.trees[t]?).elim [] e.blockBytes)).flatten

/-- Store marked bytes at byte o of a row of banks (R62). -/
def Core.landBanks : List Nat → Nat → List (Byte × Bool) → Core → Core
  | [], _, _, c => c
  | b :: bs, o, data, c =>
    if 65536 ≤ o then c.landBanks bs (o - 65536) data
    else (c.land (65536 * b + o) (data.take (65536 - o))).landBanks bs 0 (data.drop (65536 - o))

/-- The first n bytes of a row of banks, with their marks. -/
def Core.banksMarked (c : Core) : List Nat → Nat → List (Byte × Bool)
  | [], _ => []
  | b :: bs, n => c.marked (65536 * b) (min n 65536) ++ (if 65536 < n then c.banksMarked bs (n - 65536) else [])

/-- P_t: the costs before each tree. -/
def prefixCosts : List Tree → Nat → List Nat
  | [], _ => []
  | t :: ts, p => p :: prefixCosts ts (p + t.cost)

/-- First trees of the shards of a group of G cores (R167). -/
def Ensemble.shardStarts (e : Ensemble) (g : Nat) : List Nat :=
  let ps := prefixCosts e.trees 0
  let c := (e.trees.map Tree.cost).sum
  (List.range g).map (fun i => ps.findIdx (fun p => i * c ≤ g * p))

/-- The tree indices of shard i. -/
def Ensemble.shard (e : Ensemble) (g i : Nat) : List Nat :=
  let s := e.shardStarts g
  let a := s.getD i 0
  let b := if i + 1 < g then s.getD (i + 1) 0 else e.trees.length
  rangeFrom a (b - a)

/-- A scoring layout (R166). -/
def parseLayout (b : List Byte) : Layout :=
  { group := byteAt b 0, laneGroups := byteAt b 1, firstCore := BitVec.ofNat 16 (field b 2 2),
    ensemble := BitVec.ofNat 32 (field b 4 4), masks := (List.range 9).map (fun i => BitVec.ofNat 16 (field b (8 + 2 * i) 2)),
    keys := byteAt b 0x1A, results := byteAt b 0x1B, input := byteAt b 0x1C,
    keyFirst := BitVec.ofNat 32 (field b 0x20 4), keyLast := BitVec.ofNat 32 (field b 0x24 4),
    reserved := !(zeroAt b 0x1D 3 && zeroAt b 0x28 24) }

/-- Mask i of a layout: 0 NODE_A, 1 NODE_B, 2 RECORD_A, 3 RECORD_B, 4 BOUNDARY, 5 RESULT, 6 PARTIAL, 7 KEY_A, 8 KEY_B. -/
def Layout.mask (l : Layout) (i : Nat) : Nat := (l.masks.getD i 0).toNat
/-- Banks of a mask. -/
def maskBanks (m : Nat) : List Nat := (List.range 16).filter (fun b => bitOf m b)
/-- Banks of mask i of a layout, in order. -/
def Layout.banks (l : Layout) (i : Nat) : List Nat := maskBanks (l.mask i)
/-- Bytes of mask i's banks. -/
def Layout.bytes (l : Layout) (i : Nat) : Nat := 65536 * (maskBanks (l.mask i)).length
/-- Records of a core's batch. -/
def Layout.perCore (l : Layout) : Nat := 32 * l.laneGroups.toNat
/-- G. -/
def Layout.g (l : Layout) : Nat := l.group.toNat
/-- Records of a batch. -/
def Layout.capacity (l : Layout) : Nat := l.perCore * l.g
/-- Raw input. -/
def Layout.raw (l : Layout) : Bool := decide (l.input = 1)

/-- Trees whose keys are emitted. -/
def Layout.emits (l : Layout) (t : Nat) : Bool :=
  if l.keys = 1 then true else if l.keys = 2 then decide (l.keyFirst.toNat ≤ t ∧ t ≤ l.keyLast.toNat) else false

/-- Bytes of one record's selected results. -/
def Layout.resultBytes (l : Layout) (k : Nat) : Nat :=
  4 * k * (b2n (bitOf l.results.toNat 0) + b2n (bitOf l.results.toNat 1)) + b2n (bitOf l.results.toNat 2)

/-- Banks that resident images own on a logical core and lend to nobody (R62, R123, R257). -/
def Dev.ownedBanks (d : Dev) (core : Nat) : List Nat :=
  let of (v : ImageVersion) : List Nat :=
    ((v.image.banks.filter (fun b => b.core.toNat = core)).map (fun b => b.bank.toNat)).filter
      (fun b => !(v.image.lendBanks.any (fun l => l.toNat = b)))
  let jobs := d.mesh.jobs.filter (fun j => j.cores.contains core)
  let jobBanks := jobs.map (fun j => match d.cmd j.queue j.index with
    | some c => match c.work with
      | .launch im v _ _ => ((d.image im).versions.find? (fun x => x.number = v)).elim [] of
      | _ => []
    | none => [])
  let taskBanks := d.fe.tasks.map (fun t => if (d.taskCores t.2).contains core then
      ((d.image t.2.image).versions.find? (fun x => x.number = t.2.version)).elim [] of else [])
  (jobBanks ++ taskBanks).flatten

/-- Whether a layout has a shape on cores that are present (R165, R176). -/
def shapeFails (d : Dev) (l : Layout) : Bool :=
  l.ring.isEmpty || l.ring.any (fun c => (d.placeOf c).isNone) || decide (l.laneGroups = 0 ∨ 8 < l.laneGroups.toNat)

/-- Whether a reserved field or encoding of a layout is nonzero (R166, R152). -/
def reservedFails (l : Layout) (trees : Nat) : Bool :=
  l.reserved || decide (4 ≤ l.keys.toNat ∨ l.keys = 3 ∨ 16 ≤ l.results.toNat ∨ 2 ≤ l.input.toNat ∨ 4096 ≤ l.ensemble.toNat ∨
    (l.keys = 2 ∧ (l.keyLast.toNat < l.keyFirst.toNat ∨ trees ≤ l.keyLast.toNat)))

/-- Whether a layout's banks fail (R176). own: banks that another owner holds on each core. -/
def banksFail (own : Nat → List Nat) (l : Layout) (e : Ensemble) : Bool :=
  let all := (l.masks.map (fun m => maskBanks m.toNat)).flatten
  let shares (i j : Nat) : Bool := decide (l.mask i &&& l.mask j ≠ 0)
  let rawTables := l.raw && e.features.any (fun f => decide (f.rawFmt.toNat < 2))
  l.ring.any (fun c => all.any (fun b => (own c).contains b)) || shares 0 1 || shares 2 3 || shares 7 8 ||
    decide (l.mask 0 = 0 ∨ l.mask 1 = 0 ∨ l.mask 2 = 0 ∨ l.mask 3 = 0) || (rawTables && decide (l.mask 4 = 0)) ||
    (decide (0 < l.resultBytes 1) && decide (l.mask 5 = 0)) || (!e.fixedPoint && decide (l.mask 6 = 0)) ||
    (decide (l.keys ≠ 0) && decide (l.mask 7 = 0 ∨ l.mask 8 = 0))

/-- Whether an ensemble does not fit a layout (R176). -/
def layoutFails (d : Dev) (own : Nat → List Nat) (l : Layout) (e : Ensemble) : Bool :=
  let shards := (List.range l.g).map (e.shard l.g)
  let blocks := e.trees.map (Tree.block e.outputs)
  let shardBytes := shards.map (fun s => (s.map (fun t => blocks.getD t 0)).sum)
  let most := shardBytes.foldl max 0
  let emitted := (shards.map (fun s => (s.filter l.emits).length)).foldl max 0
  let n := l.perCore
  let bounds := ((e.features.filter (fun f => decide (f.rawFmt.toNat < 2))).map (fun f => 4 * f.bounds.length)).sum
  let half := e.recordBytes l.raw * n
  shapeFails d l || reservedFails l e.trees.length || banksFail own l e || shards.any (·.isEmpty) ||
    decide (l.bytes 0 < most ∨ l.bytes 1 < most) || blocks.any (fun b => decide (16384 < b)) ||
    decide (65536 < e.recordBytes false * n ∨ l.bytes 2 < half ∨ l.bytes 3 < half) ||
    (l.raw && decide (l.bytes 4 < bounds)) ||
    (!e.fixedPoint && decide (l.bytes 6 < n * e.outputs * l.g * 4)) ||
    decide (l.bytes 7 < n * 8 * emitted ∨ l.bytes 8 < n * 8 * emitted) ||
    decide (l.bytes 5 < n * l.resultBytes e.outputs) || (bitOf l.results.toNat 2 && decide (e.decisionOut = 0xFF)) ||
    (d.mode.det && !e.fixedPoint)

/-- The current version of an ensemble, if any. -/
def Dev.currentVersion (d : Dev) (ens : Nat) : Option EnsVersion :=
  let o := d.ens ens
  if o.current ≠ 0 then o.versions.find? o.isCurrent else none

/-- Whether binding a layout fails (R176). -/
def bindFails (d : Dev) (own : Nat → List Nat) (l : Layout) : Bool :=
  match d.currentVersion l.ensemble.toNat with
  | none => true
  | some v => layoutFails d own l v.content

/-! ## Versions and publication (R153 to R157, R547) -/

/-- The layout of a service entry's group i. -/
def groupLayout (x : ServiceCfg) (l : Layout) (i : Nat) : Layout :=
  { l with firstCore := BitVec.ofNat 16 (l.firstCore.toNat + i * x.stride.toNat) }

/-- The groups of an entry that it has not dropped, each with its layout. -/
def Dev.serviceGroups (d : Dev) (e : Nat) : List (Nat × Layout) :=
  let s := d.serv e
  match s.cfg, s.layout with
  | some x, some l => ((List.range x.groups.toNat).filter (fun i => !s.dropped.contains i)).map (fun i => (i, groupLayout x l i))
  | _, _ => []

/-- Layouts that loaded images bind to an ensemble; their banks were held to the image's owners when it was loaded. -/
def Dev.imageLayouts (d : Dev) (ens : Nat) : List Layout :=
  ((d.fe.images.map (fun o => (o.2.versions.map (fun v => v.image.layouts.map parseLayout)).flatten)).flatten).filter
    (fun l => l.ensemble.toNat = ens)

/-- Layouts that entries which are not disabled and SCORE commands that run bind to an ensemble. -/
def Dev.boundLayouts (d : Dev) (ens : Nat) : List Layout :=
  let entries := ((d.service.services.filter (fun s => s.2.state ≠ .disabled)).map (fun s => (d.serviceGroups s.1).map (·.2))).flatten
  let scores := (d.fe.queues.map (fun u => (d.live u.1).filterMap (fun c => match c.work with
    | .score l _ _ _ _ => some l
    | _ => none))).flatten
  (entries ++ scores).filter (fun l => l.ensemble.toNat = ens)

/-- Whether a publication leaves a bound layout that fails R176. -/
def Dev.unbinds (d : Dev) (ens : Nat) (e : Ensemble) : Bool :=
  (d.imageLayouts ens).any (fun l => layoutFails d (fun _ => []) l e) || (d.boundLayouts ens).any (fun l => layoutFails d d.ownedBanks l e)

/-- The code of R547 for a publication of a read image, in its order; 0 when it may be published. rebaseOk: a base version
that differs is no cause. -/
def publishCode (d : Dev) (ens : Nat) (e : Option Ensemble) (base : U32) (rebaseOk tooLong noSlot : Bool) : Nat :=
  let o := d.ens ens
  if !o.present then 8
  else if o.current = 0xFFFFFFFF then 7
  else if tooLong then 4
  else match e with
    | none => 2
    | some e =>
      if d.mode.det ∧ e.fixedPoint = false then 6
      else if !rebaseOk ∧ base ≠ 0 ∧ base ≠ o.current then 1
      else if d.unbinds ens e then 3
      else if noSlot ∨ 4 ≤ (o.live.filter (fun v => decide (v.batches ≠ 0))).length then 5
      else 0

/-- Publish an image's contents as the next version (R153, R155), for the trace of a command or of the Owl (R380). -/
def publish (ens : Nat) (e : Ensemble) (addr bytes q : Nat) (i : U32) (d : Dev) : Dev :=
  let n := (d.ens ens).current + 1
  let d := noteOrder 0x18 ens (traceAdd 7 0x18 q i 0 (leBytes 4 ens ++ leBytes 4 n.toNat) d)
  modEns ens (fun o => pruneVersions
    { o with current := n, versions := o.versions ++ [{ number := n, content := e, batches := 0, addr := addr, bytes := bytes, era := o.era }] }) d

/-- ENSEMBLE_CREATE (R153). -/
def ensembleCreateReq (b : List Byte) (d : Dev) : Answer :=
  let e := field b 0x20 4
  if 4096 ≤ e then .error (1, 0x20)
  else if (d.ens e).present then .error (0xA, 0x20)
  else .ok ([], modEns e (fun o => { o with present := true, current := 0 }) d)

/-- ENSEMBLE_CREATE. -/
def execEnsembleCreate (s : State) : Host.Outcome State Fault Refusal :=
  lift (servePcie 0x40 3 [u 4] ensembleCreateReq) s

/-- A request on an ensemble that exists. -/
def onEnsemble (b : List Byte) (d : Dev) (f : Nat → Answer) : Answer :=
  let e := field b 0x20 4
  if 4096 ≤ e then .error (1, 0x20) else if !(d.ens e).present then .error (9, 0) else f e

/-- ENSEMBLE_PUBLISH (R126, R153 to R156). -/
def ensemblePublishReq (b : List Byte) (d : Dev) : Answer :=
  onEnsemble b d (fun e =>
    let a := field b 0x28 8
    if a % 256 ≠ 0 then .error (1, 0x28)
    else if !inSoft a 256 || !inSoft a (field (d.bytesAt a 256) 0x20 8) then .error (0xF, 0x28)
    else
      let im := readImage d a
      let code := publishCode d e im (BitVec.ofNat 32 (field b 0x24 4)) false false false
      if code = 5 then .error (0xB, (d.ens e).live.length)
      else if code ≠ 0 then .error (0xC, code)
      else match im with
        | none => .error (0xC, 2)
        | some x => let d := publish e x a (field (d.bytesAt a 256) 0x20 8) 0 0 d; .ok (leBytes 4 (d.ens e).current.toNat, d))

end Sys2Proof.Machine
end

