-- ==== Sys2Proof/Machine/JobOps.lean ====
section
/-! DEFINITION. Jobs: their images, barriers, checkpoints, saving and restoring cores, and collectives of programs (R75, R124, R125, R279, R366, R429). -/

namespace Sys2Proof.Machine
open Sys2Proof

/-! ## A job's image and members (R75, R332) -/

/-- The image version that a job runs. -/
def Dev.jobImage (d : Dev) (j : Job) : Option ImageVersion :=
  match d.cmd j.queue j.index with
  | none => none
  | some c => match c.work with
    | .launch im v _ _ => d.imageVersion im v
    | .taskLaunch t => d.imageVersion (d.task t).image (d.task t).version
    | _ => none

/-- The cores bound to a barrier channel of a job; channel 0 is every core of the job. -/
def Dev.members (d : Dev) (j : Job) (ch : Nat) : List Nat :=
  if ch = 0 then j.cores
  else match d.jobImage j with
    | none => []
    | some v => ((v.image.channels.filter (fun c => c.1.val = ch)).map (fun c => c.2.map (·.toNat))).flatten

/-- The job that uses a logical core. -/
def Dev.jobAt (d : Dev) (core : Nat) : Option Job := d.mesh.jobs.find? (fun j => j.cores.contains core)

/-- Banks of a core that an image retains (R366). -/
def retainedBanks (im : LoadImage) (core : Nat) : List Nat :=
  ((im.banks.filter (fun b => decide (b.core.toNat = core) && b.retained)).map (fun b => b.bank.toNat)).eraseDups

/-! ## Saving and restoring cores (R124, R125, R366) -/

/-- The listed bytes of some banks. -/
def bankBytes (banks : List Nat) (m : Sparse Byte) : Sparse Byte := m.filter (fun c => banks.contains (c.1 / 65536))

/-- Replace the bytes of some banks by saved ones. -/
def putBanks (banks : List Nat) (saved m : Sparse Byte) : Sparse Byte :=
  (saved.filter (fun c => banks.contains (c.1 / 65536))).foldl (fun m c => put 0 m c.1 c.2)
    (m.filter (fun c => !banks.contains (c.1 / 65536)))

/-- The generations of a core's slots. -/
def Dev.gensAt (d : Dev) (p : Nat) : List U16 := (rangeFrom (8 * p) 8).map (fun s => (d.slot s).latestGen)

/-- The state of a logical core that a checkpoint or a preemption keeps. -/
def saveCore (d : Dev) (banks : List Nat) (core : Nat) : SavedCore :=
  match d.placeOf core with
  | none => { pos := core, acc := [], accPoison := [], active := WeightBlock.reset, staged := WeightBlock.reset, memory := [], arrivals := [], gens := [], array := [], vector := [], issued := 0 }
  | some p =>
    let c := d.core p
    { pos := core, acc := c.acc, accPoison := c.accPoison, active := c.active, staged := c.staged, memory := bankBytes banks c.lm,
      arrivals := c.waiting, gens := d.gensAt p, array := c.dense.array, vector := c.dense.vector, issued := c.issued }

/-- The checkpoint of a job: retained banks and core state (R366). -/
def Dev.checkpoint (d : Dev) (j : Job) : List SavedCore :=
  match d.jobImage j with
  | none => []
  | some v => j.cores.map (fun c => saveCore d (retainedBanks v.image c) c)

/-! ## Barriers (R75, R279, R366, R428) -/

/-- Whether a core issues instructions: present, in a job that is neither held nor preempted, waiting at no barrier. -/
def Dev.issues (d : Dev) (p : Nat) : Bool :=
  let c := d.logicalOf p
  match d.jobAt c with
  | none => (d.core p).waiting.isEmpty
  | some j => !j.held && !j.preempted && (d.core p).waiting.isEmpty

/-- Whether every OUT stream of a core whose final half the program has handed over has completed it, and every chain stage
that such a stream feeds too (R279). -/
def Dev.outSettled (d : Dev) (p : Nat) : Bool :=
  (rangeFrom (8 * p) 8).all (fun s =>
    let x := d.slot s
    match x.desc with
    | none => true
    | some y =>
      !(y.out && (d.feeder s).isNone && decide (y.transfers ≤ x.released)) ||
        (s :: d.stagesAfter 4 s y).all (fun t => !(d.slot t).working))

/-- A core arrives at a barrier channel and waits there (R75). -/
def arriveAt (p ch : Nat) (d : Dev) : Dev :=
  let core := d.logicalOf p
  match d.jobAt core with
  | none => d
  | some j =>
    if d.issues p = false ∨ (d.members j ch).contains core = false ∨ (ch = 0 ∧ d.outSettled p = false) then d
    else
      let d := modCore p (fun c => { c with waiting := c.waiting ++ [ch] }) d
      let d := coreProgress p (modJob j.queue j.index (fun j => { j with arrivals := j.arrivals ++ [(ch, core)] }) d)
      match d.job j.queue j.index with
      | none => d
      | some j =>
        let all := (d.members j ch).all (fun c => j.arrivals.contains (ch, c))
        match if ch = 0 ∧ all = true then (d.jobImage j).bind (fun v => v.image.group) else none with
        | none => d
        | some g =>
          let seq := d.freeSeq g.toNat
          modJob j.queue j.index (fun j => { j with groupArr := some (g.toNat, seq) }) (ownArrival g.toNat seq d)

/-- BARRIER_ARRIVE. -/
def execBarrierArrive (p : PosId) (channel : Fin 32) (s : State) : Host.Outcome State Fault Refusal :=
  lift (arriveAt p.val channel.val) s

/-- The digests of a job's cores over their retained banks (R383). -/
def Dev.digests (d : Dev) (j : Job) : List U32 :=
  match d.jobImage j with
  | none => []
  | some v => j.cores.map (fun c => match d.placeOf c with
    | some p => crc32c (((retainedBanks v.image c).map (fun b => (d.core p).bytesAt (65536 * b) 65536)).flatten)
    | none => 0)

/-- Whether both deferred lists of every core of a job are empty (R247). -/
def Dev.listsEmpty (d : Dev) (j : Job) : Bool :=
  j.cores.all (fun c => match d.placeOf c with
    | some p => (d.core p).dense.array.isEmpty && (d.core p).dense.vector.isEmpty
    | none => true)

/-- A channel-0 barrier of a job for its towers (R247, R251): the first that finds every list empty closes the dense step; stash
slots are freed. -/
def closeDenseStep (q : Nat) (i : U32) (j : Job) (im : LoadImage) (d : Dev) : Dev :=
  let ends := d.listsEmpty j && !j.stepClosed
  let d := modJob q i (fun j => { j with stepClosed := j.stepClosed || ends }) d
  forEach (fun (w : TowerDecl) d =>
    let a := w.header.toNat
    stashBarrier a (if ends then modStash a (fun t => { t with steps := t.steps + 1 }) d else d)) im.towers d

/-- The channel-0 release makes a new restart point (R366, R370): the checkpoint slot that was not in use is now the
restart point, the segment's journal records are freed and its scatters are settled; stash slots are freed (R251). -/
def newRestartPoint (q : Nat) (i : U32) (d : Dev) : Dev :=
  match d.job q i with
  | none => d
  | some j =>
    let saved := d.checkpoint j
    let d := undoClear (q, i) (journalFree q i d)
    let d := if d.recording 8 || (d.replaying && bitOf d.mode.traceCtl.toNat 8) then
        traceDigest q i j.segment j.cores (d.digests j) d
      else d
    let d := modJob q i (fun j => { j with
      slot := !j.slot, segment := j.segment + 1, attempts := 0, groupArr := none, restartCycle := j.cycle,
      checkpoint0 := if j.slot then saved else j.checkpoint0, checkpoint1 := if j.slot then j.checkpoint1 else saved }) d
    let bytes := (saved.map (fun c => 64 + c.memory.length)).sum
    let side := match j.cores.head? with
      | some c => if c / 40 < 15 then 0 else 1
      | none => 0
    let d := match d.jobImage j with
      | some v => closeDenseStep q i j v.image d
      | none => d
    journalSegment q i (bump (cSide side 4) bytes d)

/-- Release a channel of a job: its cores go on. -/
def releaseChannel (q : Nat) (i : U32) (ch : Nat) (d : Dev) : Dev :=
  match d.job q i with
  | none => d
  | some j =>
    let d := forEach (fun c d => onCore c (fun x => { x with waiting := x.waiting.erase ch }) d) (d.members j ch) d
    let d := modJob q i (fun j => { j with arrivals := j.arrivals.filter (fun a => a.1 ≠ ch) }) d
    if ch = 0 then newRestartPoint q i d else d

/-- BARRIER_RELEASE (R75): all members have arrived, and for a job that spans modules the group's RELEASE has come; a
release for a preempted group is latched (R345). -/
def barrierReleases (q : Nat) (i : U32) (ch : Nat) (d : Dev) : Dev :=
  match d.job q i with
  | none => d
  | some j =>
    let ms := d.members j ch
    let fabric := match if ch = 0 then (d.jobImage j).bind (fun v => v.image.group) else none with
      | none => true
      | some _ => match j.groupArr with
        | some (g, seq) => d.released g seq
        | none => false
    if ms.isEmpty = true ∨ ms.all (fun c => j.arrivals.contains (ch, c)) = false ∨ fabric = false then d
    else if j.preempted then modJob q i (fun j => { j with latched := if j.latched.contains ch then j.latched else j.latched ++ [ch] }) d
    else releaseChannel q i ch d

/-- BARRIER_RELEASE. -/
def execBarrierRelease (q : QueueId) (index : U32) (channel : Fin 32) (s : State) : Host.Outcome State Fault Refusal :=
  lift (barrierReleases q.toNat index channel.val) s

/-! ## Collectives of programs (R429) -/

/-- COLLECTIVE_START: the program's instruction names a 64-byte descriptor; a faulty one completes the job's command with
0x22 at once. -/
def programCollective (p : Nat) (b : List Byte) (d : Dev) : Dev :=
  if d.issues p = false ∨ (d.jobAt (d.logicalOf p)).isNone = true then d
  else
    let b := slice b 0 64
    let d := coreProgress p d
    if collFault d b then
      match d.ownerOf p with
      | some (q, i) => stopCmd 0x22 0xFFFFFFFF q i d
      | none => d
    else startCollective b (d.ownerOf p) d

/-- COLLECTIVE_START. -/
def execCollectiveStart (p : PosId) (descriptor : List Byte) (s : State) : Host.Outcome State Fault Refusal :=
  lift (programCollective p.val descriptor) s

end Sys2Proof.Machine
end

