-- ==== Sys2Proof/Machine/Frames.lean ====
section
/-! DEFINITION. Ethernet frames of the scoring service: reading and building Ethernet, ARP, IPv4, IPv6, UDP and neighbour discovery, and the reply datagrams (R443 to R446, R450 to R453). The standards' own layouts are PRESUMED (log entry 18). -/

namespace Sys2Proof.Machine
open Sys2Proof

/-! ## Numbers on the wire -/

/-- The big-endian field of n bytes at offset o. -/
def beField (b : List Byte) (o n : Nat) : Nat := beNat (slice b o n)

/-- Sum of 16-bit words of a row of bytes. -/
def wordSum : List Byte → Nat
  | [] => 0
  | [a] => 256 * a.toNat
  | a :: b :: bs => 256 * a.toNat + b.toNat + wordSum bs

/-- Fold carries (three times settle any sum below 2^48). -/
def fold16 (x : Nat) : Nat :=
  let f (x : Nat) : Nat := x % 65536 + x / 65536
  f (f (f x))

/-- The Internet checksum of bytes whose checksum field is zero. -/
def inetSum (b : List Byte) : Nat := 65535 - fold16 (wordSum b)

/-- The pseudo-header of UDP and ICMPv6. -/
def pseudo (v6 : Bool) (src dst : List Byte) (proto len : Nat) : List Byte :=
  src ++ dst ++ (if v6 then beBytes 4 len ++ [0, 0, 0, BitVec.ofNat 8 proto] else [0, BitVec.ofNat 8 proto] ++ beBytes 2 len)

/-! ## Received frames -/

/-- An Ethernet frame: addresses, tag, EtherType and body. -/
structure Pkt where
  dst  : List Byte
  src  : List Byte
  tag  : Option Nat
  type : Nat
  body : List Byte
deriving DecidableEq, Repr

/-- Read a frame; a second tag is none (R443). -/
def readPkt (f : List Byte) : Option Pkt :=
  let t := beField f 12 2
  if t = 0x8100 then
    let t2 := beField f 16 2
    if t2 = 0x8100 ∨ t2 = 0x88A8 then none
    else some { dst := slice f 0 6, src := slice f 6 6, tag := some (beField f 14 2), type := t2, body := f.drop 18 }
  else if t = 0x88A8 then none
  else some { dst := slice f 0 6, src := slice f 6 6, tag := none, type := t, body := f.drop 14 }

/-- A UDP datagram of a frame. -/
structure Udp where
  v6    : Bool
  src   : List Byte
  dst   : List Byte
  dscp  : Nat
  sport : Nat
  dport : Nat
  data  : List Byte
deriving DecidableEq, Repr

/-- What a received frame turns out to be (R443, R444). -/
inductive Judged where
  | drop (counter : Nat)
  | arp (mac ip : List Byte)
  | solicit (src : List Byte) (target : List Byte)
  | udp (u : Udp)
deriving DecidableEq, Repr

/-- The IPv6 solicited-node multicast MAC address of an address. -/
def solicitedMac (ip : List Byte) : List Byte := [0x33, 0x33, 0xFF] ++ ip.drop 13
/-- The solicited-node multicast IPv6 address. -/
def solicitedIp (ip : List Byte) : List Byte := [0xFF, 2] ++ zeros 9 ++ [1, 0xFF] ++ ip.drop 13
/-- The IEEE 1588 multicast MAC addresses over IPv4 and IPv6. -/
def ptpMacs : List (List Byte) := [[1, 0, 0x5E, 0, 1, 0x81], [0x33, 0x33, 0, 0, 1, 0x81]]
/-- The IEEE 1588 multicast IPv4 address. -/
def ptpIp4 : List Byte := [224, 0, 1, 129]
/-- Whether an address is the IEEE 1588 multicast IPv6 address of some scope. -/
def isPtpIp6 (ip : List Byte) : Bool := decide (byteAt ip 0 = 0xFF) && zeroAt ip 2 12 && decide (beField ip 14 2 = 0x181)

/-- The datagram of UDP bytes. -/
def udpOf (v6 : Bool) (src dst : List Byte) (dscp : Nat) (b : List Byte) (len : Nat) : Udp :=
  { v6 := v6, src := src, dst := dst, dscp := dscp, sport := beField b 0 2, dport := beField b 2 2,
    data := (b.take len).drop 8 }

/-- UDP of an IP packet (R443, R444 check 6): counters 7 UNSUPPORTED, 9 CHECKSUM. -/
def judgeUdp (v6 : Bool) (src dst : List Byte) (dscp : Nat) (b : List Byte) : Judged :=
  let len := beField b 4 2
  let sum := beField b 6 2
  if b.length < 8 ∨ len < 8 ∨ b.length < len then .drop 7
  else if sum = 0 then (if v6 then .drop 9 else .udp (udpOf v6 src dst dscp b len))
  else if fold16 (wordSum (pseudo v6 src dst 17 len ++ b.take len)) ≠ 65535 then .drop 9
  else .udp (udpOf v6 src dst dscp b len)

/-- An IPv4 packet (R443): counters 6 UNMATCHED, 7 UNSUPPORTED, 8 FRAGMENTS. -/
def judgeIp4 (c : PortCfg) (b : List Byte) : Judged :=
  let len := beField b 2 2
  let dst := slice b 16 4
  let ptp := bitOf c.flags.toNat 2 && decide (dst = ptpIp4)
  if !bitOf c.flags.toNat 0 ∨ (dst ≠ c.ipv4 ∧ ptp = false) then .drop 6
  else if byteAt b 0 ≠ 0x45 ∨ len < 20 ∨ b.length < len ∨ fold16 (wordSum (b.take 20)) ≠ 65535 then .drop 7
  else if beField b 6 2 % 16384 ≠ 0 then .drop 8
  else if byteAt b 9 ≠ 17 then .drop 7
  else judgeUdp false (slice b 12 4) dst ((byteAt b 1).toNat / 4) ((b.take len).drop 20)

/-- An IPv6 packet (R443). -/
def judgeIp6 (c : PortCfg) (b : List Byte) : Judged :=
  let len := beField b 4 2
  let dst := slice b 24 16
  let src := slice b 8 16
  let next := (byteAt b 6).toNat
  let body := (b.drop 40).take len
  let ptp := bitOf c.flags.toNat 2 && isPtpIp6 dst
  if !bitOf c.flags.toNat 1 ∨ (dst ≠ c.ipv6 ∧ dst ≠ solicitedIp c.ipv6 ∧ ptp = false) then .drop 6
  else if (byteAt b 0).toNat / 16 ≠ 6 ∨ b.length < 40 + len then .drop 7
  else if next = 44 then .drop 8
  else if next = 58 then
    if byteAt body 0 = 135 ∧ byteAt body 1 = 0 ∧ 24 ≤ body.length ∧ slice body 8 16 = c.ipv6 then
      (if fold16 (wordSum (pseudo true src dst 58 len ++ body)) ≠ 65535 then .drop 9 else .solicit src c.ipv6)
    else .drop 7
  else if next ≠ 17 then .drop 7
  else judgeUdp true src dst (beField b 0 2 / 4 % 256 / 4) body

/-- Whether a destination MAC address is accepted for an EtherType (R443). -/
def macOk (c : PortCfg) (p : Pkt) : Bool :=
  decide (p.dst = c.mac) || (decide (p.dst = List.replicate 6 0xFF) && decide (p.type = 0x0806)) ||
    (bitOf c.flags.toNat 1 && decide (p.dst = solicitedMac c.ipv6) && decide (p.type = 0x86DD)) ||
    (bitOf c.flags.toNat 2 && ptpMacs.contains p.dst)

/-- Whether a frame's tag is accepted (R442, R443). -/
def tagOk (c : PortCfg) (p : Pkt) : Bool :=
  if bitOf c.vlan.toNat 12 then
    (match p.tag with
     | some t => decide (t % 4096 = c.vlan.toNat % 4096)
     | none => false)
  else true

/-- Checks 4 to 6 of R444. -/
def judgeFrame (c : PortCfg) (f : List Byte) : Judged × Option Pkt :=
  match readPkt f with
  | none => (.drop 7, none)
  | some p =>
    if p.type = 0x8808 then (.drop 10, some p)
    else if !(macOk c p && tagOk c p) then (.drop 6, some p)
    else if p.type = 0x0806 then
      if beField p.body 0 2 = 1 ∧ beField p.body 2 2 = 0x800 ∧ beField p.body 4 2 = 0x604 ∧ beField p.body 6 2 = 1 ∧
          28 ≤ p.body.length then
        (if bitOf c.flags.toNat 0 ∧ slice p.body 24 4 = c.ipv4 then .arp (slice p.body 8 6) (slice p.body 14 4) else .drop 6, some p)
      else (.drop 7, some p)
    else if p.type = 0x800 then (judgeIp4 c p.body, some p)
    else if p.type = 0x86DD then (judgeIp6 c p.body, some p)
    else (.drop 7, some p)

/-! ## Frames sent (R445, R452) -/

/-- An Ethernet frame padded to 60 bytes, its check sequence left out. -/
def ethFrame (dst src : List Byte) (tag : Option Nat) (type : Nat) (body : List Byte) : List Byte :=
  let t := match tag with
    | some v => beBytes 2 0x8100 ++ beBytes 2 v
    | none => []
  let f := dst ++ src ++ t ++ beBytes 2 type ++ body
  f ++ zeros (60 - f.length)

/-- A UDP datagram with its checksum, never 0. -/
def udpBytes (v6 : Bool) (src dst : List Byte) (sport dport : Nat) (data : List Byte) : List Byte :=
  let len := 8 + data.length
  let head := beBytes 2 sport ++ beBytes 2 dport ++ beBytes 2 len
  let s := inetSum (pseudo v6 src dst 17 len ++ head ++ [0, 0] ++ data)
  head ++ beBytes 2 (if s = 0 then 65535 else s) ++ data

/-- An IPv4 header (R452): TTL 64, DF, identification 0. -/
def ip4Header (dscp len : Nat) (src dst : List Byte) : List Byte :=
  let h (s : Nat) : List Byte := [0x45, BitVec.ofNat 8 (4 * dscp)] ++ beBytes 2 (20 + len) ++ [0, 0] ++ beBytes 2 0x4000 ++ [64, 17] ++
    beBytes 2 s ++ src ++ dst
  h (inetSum (h 0))

/-- An IPv6 header with a next header and hop limit. -/
def ip6Header (dscp len next hops : Nat) (src dst : List Byte) : List Byte :=
  beBytes 4 (6 * 2 ^ 28 + dscp * 2 ^ 22) ++ beBytes 2 len ++ [BitVec.ofNat 8 next, BitVec.ofNat 8 hops] ++ src ++ dst

/-- A UDP frame of a port to a peer. -/
def udpFrame (c : PortCfg) (peerMac : List Byte) (tag : Option Nat) (v6 : Bool) (peerIp : List Byte) (dscp sport dport : Nat)
    (data : List Byte) : List Byte :=
  let own := if v6 then c.ipv6 else c.ipv4
  let u := udpBytes v6 own peerIp sport dport data
  ethFrame peerMac c.mac tag (if v6 then 0x86DD else 0x800)
    ((if v6 then ip6Header dscp u.length 17 64 own peerIp else ip4Header dscp u.length own peerIp) ++ u)

/-- The answer to an ARP request (R443). -/
def arpReply (c : PortCfg) (p : Pkt) (mac ip : List Byte) : List Byte :=
  ethFrame p.src c.mac p.tag 0x0806
    (beBytes 2 1 ++ beBytes 2 0x800 ++ [6, 4] ++ beBytes 2 2 ++ c.mac ++ c.ipv4 ++ mac ++ ip)

/-- A neighbour advertisement of the port's address, solicited and overriding, with its MAC address. -/
def advertisement (c : PortCfg) (p : Pkt) (src : List Byte) : List Byte :=
  let body (s : Nat) : List Byte := [136, 0] ++ beBytes 2 s ++ beBytes 4 0x60000000 ++ c.ipv6 ++ [2, 1] ++ c.mac
  ethFrame p.src c.mac p.tag 0x86DD
    (ip6Header 0 32 58 255 c.ipv6 src ++ body (inetSum (pseudo true c.ipv6 src 58 32 ++ body 0)))

/-! ## Scoring datagrams (R450 to R453) -/

/-- A reply datagram (R451). -/
def replyPayload (kind records resultBytes : Nat) (requestId clientTime tIn tDone : U64) (version status flags reason : Nat)
    (results : List Byte) : List Byte :=
  leBytes 2 0x5144 ++ [1, BitVec.ofNat 8 kind] ++ leBytes 2 records ++ leBytes 2 resultBytes ++ leBytes 8 requestId.toNat ++
    leBytes 8 clientTime.toNat ++ leBytes 8 tIn.toNat ++ leBytes 8 tDone.toNat ++ leBytes 4 version ++
    [BitVec.ofNat 8 status, BitVec.ofNat 8 flags, BitVec.ofNat 8 reason, 0] ++ results

/-- The UDP datagram and frame of a stored request. -/
def requestUdp (c : PortCfg) (f : List Byte) : Option (Udp × Pkt) :=
  match judgeFrame c f with
  | (.udp u, some p) => some (u, p)
  | _ => none

/-- Queue a reply to a request frame on its port (R452, R456). ends: the entry, ensemble and version of its batch. -/
def queueReply (port : Nat) (frame payload : List Byte) (ends : Option (Nat × Nat × U32)) (d : Dev) : Dev :=
  match (d.port port).cfg with
  | none => d
  | some c => match requestUdp c frame with
    | none => d
    | some (u, p) =>
      modPort port (fun x => { x with tx := x.tx ++ [(udpFrame c p.src p.tag u.v6 u.src u.dscp u.dport u.sport payload, ends)] }) d

/-- A REFUSED reply of entry e (R453): it counts, and the first of a tick raises 0x8001. -/
def refuseDatagram (e : Nat) (g : Datagram) (reason : Nat) (d : Dev) : Dev :=
  let d := bump (cServ e 3) 1 d
  let d := if (d.serv e).refusedTick then d
    else raiseEvent 0x8001 (0x7000 + e) (pack [(1, reason), (8, g.tIn.toNat)] []) (modServ e (fun x => { x with refusedTick := true }) d)
  queueReply g.port g.frame
    (replyPayload 2 g.records 0 g.requestId g.clientTime g.tIn d.time.ft 0 0 0 reason []) none d

/-- Free a datagram's frame of the receive buffer. -/
def freeFrame (g : Datagram) (d : Dev) : Dev :=
  modPort g.port (fun x => { x with rxUsed := x.rxUsed - alignUp g.frame.length 64 }) d

end Sys2Proof.Machine
end

