-- ==== Sys2Proof/Machine/Scoring.lean ====
section
/-! DEFINITION. Scoring groups: SCORE commands, admission, rotation, the finish stage, deadlines and preemption; publication and deletion of ensembles; the program's Squirrel instruction (R71, R151 to R157, R164 to R178, R257, R289, R320 to R322, R343 to R345, R454 to R462). -/

namespace Sys2Proof.Machine
open Sys2Proof

/-! ## SCORE (R320 to R322, R459) -/

/-- The service entry that a SCORE names. -/
def scoreService (b : List Byte) : Option Nat := if field b 0x34 2 = 0xFFFF then none else some (field b 0x34 2)
/-- SFLAGS bit n: 0 IN_HOST, 1 OUT_HOST, 2 WINDOW_OK, 3 PREEMPT. -/
def scoreFlag (b : List Byte) (n : Nat) : Bool := bitOf (byteAt b 0x36).toNat n
/-- RECORDS. -/
def scoreRecords (b : List Byte) : Nat := field b 0x30 4

/-- The layout a SCORE runs under: of memory, or of its entry's group 0. -/
def scoreLayout (d : Dev) (b : List Byte) : Option Layout :=
  match scoreService b with
  | none =>
    let a := field b 0x10 8
    if 0 < d.poisonedIn a 64 then none else some (parseLayout (d.bytesAt a 64))
  | some e => (d.serv e).layout

/-- Bytes of a record's results, padded (R321). -/
def Layout.resultSize (l : Layout) (e : Ensemble) : Nat := alignUp (l.resultBytes e.outputs) 8
/-- Trees whose keys are emitted. -/
def Layout.keyTrees (l : Layout) (e : Ensemble) : List Nat := (List.range e.trees.length).filter l.emits

/-- The rules of a SCORE that names an entry (R459). -/
def serviceRuleFails (d : Dev) (q : Nat) (b : List Byte) (e : Nat) : Bool :=
  let s := d.serv e
  match if e < 4096 then s.cfg else none with
  | none => true
  | some x => decide (s.state ≠ .enabled) || !bitOf x.queue.toNat 18 || decide (x.queue.toNat % 2 ^ 18 ≠ q) ||
      bitOf (byteAt b 1).toNat 1 || decide (field b 4 4 ≠ 0) || scoreFlag b 3 ||
      (decide (x.deadlineNs ≠ 0) && !(d.queue q).rtAllowed)

/-- An address range of a SCORE. -/
def rangeFails (d : Dev) (host : Bool) (a n : Nat) : Bool := if host then !d.inWindow a n else !inSoft a n

/-- Why a SCORE is refused (R322, R459): DETAIL. A layout that fails R176 is no single field. -/
def scoreFault (d : Dev) (q : Nat) (b : List Byte) : Option Nat :=
  let a := field b 0x10 8
  let n := scoreRecords b
  let fl := field b 0x36 1
  let lay := scoreLayout d b
  let ver := lay.bind (fun l => (d.currentVersion l.ensemble.toNat).map (fun v => (l, v.content)))
  let sizes : Nat × Nat × Nat := match ver with
    | some (l, e) => (e.recordBytes l.raw, l.resultSize e, 8 * (l.keyTrees e).length)
    | none => (0, 0, 0)
  let keysOff := match lay with
    | some l => decide (l.keys = 0)
    | none => false
  let svc := scoreService b
  let first := firstFault
    [(0x10, decide ((a ≠ 0) = svc.isSome) || decide (a % 64 ≠ 0) || !inSoft a 64),
     (0x18, rangeFails d (scoreFlag b 0) (field b 0x18 8) (n * sizes.1)),
     (0x20, rangeFails d (scoreFlag b 1) (field b 0x20 8) (n * sizes.2.1)),
     (0x28, if keysOff then decide (field b 0x28 8 ≠ 0) else rangeFails d (scoreFlag b 1) (field b 0x28 8) (n * sizes.2.2)),
     (0x30, decide (n = 0 ∨ 2 ^ 24 < n)),
     (0x34, match svc with
       | some e => serviceRuleFails d q b e
       | none => false),
     (0x36, decide (16 ≤ fl) || (scoreFlag b 3 && !bitOf (byteAt b 1).toNat 1) || (scoreFlag b 3 && !d.agreed 14) ||
       (scoreFlag b 2 && !d.agreed 15))]
  match first with
  | some o => some o
  | none => match reservedFault b [(0x37, 9)] with
    | some o => some o
    | none => match lay with
      | none => some 0xFFFFFFFF
      | some l => if bindFails d d.ownedBanks l then some 0xFFFFFFFF else none

/-- SCORE: checked, it waits for its batches to be admitted. -/
def scoreCmd (q : Nat) (c : Cmd) (d : Dev) : Dev :=
  match scoreFault d q c.bytes, scoreLayout d c.bytes with
  | none, some l => modCmd q c.index (fun c => { c with work := .score l 0 0 0 0 }) d
  | some o, none => badCommand q c.index o (modCmd q c.index (fun c => { c with
      poisonIn := if o = 0xFFFFFFFF then stick32 c.poisonIn 1 else c.poisonIn }) d)
  | some o, some _ => badCommand q c.index o d
  | none, none => d

/-- SCORE. -/
def execScore (q : QueueId) (s : State) : Host.Outcome State Fault Refusal :=
  lift (startKind q.toNat (isOpcode 2) 3 (scoreCmd q.toNat)) s

/-- A SCORE whose records are all admitted and whose batches have ended completes. -/
def settleScore (q : Nat) (i : U32) (d : Dev) : Dev :=
  match d.cmd q i with
  | none => d
  | some c => match c.work with
    | .score _ next 0 _ late =>
      if scoreRecords c.bytes ≤ next then (if late = 0 then finishCmd q i d else finishWith q i 0x30 late d) else d
    | _ => d

/-! ## The ends of batches and entries (R155, R460, R462) -/

/-- Whether a live SCORE names an entry. -/
def Dev.scoresOn (d : Dev) (e : Nat) : Bool :=
  d.fe.queues.any (fun u => (d.live u.1).any (fun c => isOpcode 2 c.bytes && decide (scoreService c.bytes = some e)))

/-- 0x8002 with its cause: 1 the ensemble deleted, 2 no group left (R493). -/
def serviceStopped (cause : Byte) (e : Nat) (d : Dev) : Dev := raiseEvent 0x8002 (0x7000 + e) [cause] d

/-- Whether every group of an entry is dropped. -/
def Dev.noGroups (d : Dev) (e : Nat) : Bool := (d.serviceGroups e).isEmpty

/-- An entry becomes DISABLED once its last work has ended (R460, R462). -/
def settleService (e : Nat) (d : Dev) : Dev :=
  let s := d.serv e
  let idle := decide (s.inFlight = 0) && s.openBatch.isEmpty && s.closed.isEmpty && !d.scoresOn e
  if s.state = .disabled then d
  else if d.noGroups e then
    let gone := s.closed.flatten ++ s.openBatch
    let d := forEach (fun (g : Datagram) d => refuseDatagram e g 4 (freeFrame g d)) gone d
    serviceStopped 2 e (modServ e (fun s => { s with state := .disabled, openBatch := [], closed := [], deleted := false }) d)
  else if s.state = .draining ∧ idle = true then
    let d := modServ e (fun s => { s with state := .disabled, deleted := false }) d
    if s.deleted then serviceStopped 1 e d else d
  else d

/-- n of an entry's open ends, batches or replies, have come, under a version of an ensemble. -/
def endService (e key : Nat) (v : U32) (n : Nat) (d : Dev) : Dev :=
  settleService e (modVersion key v (fun k => k - n) (modServ e (fun s => { s with inFlight := s.inFlight - n }) d))

/-- A batch ends without results (R177, R376, R462): a SCORE's command is stopped, a service's datagrams are refused
with a reason, or dropped. -/
def killBatch (reason : Option Nat) (b : Batch) (d : Dev) : Dev :=
  match b.source with
  | .score q i _ => stopCmd 0x10 0 q i d
  | .service e =>
    let d := match reason with
      | some r => forEach (fun (g : Datagram) d => refuseDatagram e g r (freeFrame g d)) b.datagrams d
      | none => forEach freeFrame b.datagrams (bump (cServ e 5) b.records.length d)
    endService e b.ensKey b.version 1 (journalFree (2 ^ 18 + e) b.number d)

/-- The batches of a group. -/
def ScoreGroup.batches (s : ScoreGroup) : List Batch := [s.finishing, s.active, s.next].filterMap id

/-- The batches of a group are killed. It keeps its layout while every core of it is present (R177). -/
def killGroup (reason : Option Nat) (g : Nat) (d : Dev) : Dev :=
  let bs := (d.sgroup g).batches
  forEach (killBatch reason) bs (modSGroup g (fun s => { s with
    active := none, next := none, finishing := none, held := none,
    layout := s.layout.filter (fun l => l.ring.all (fun c => (d.placeOf c).isSome)) }) d)

/-! ## Admission (R156, R170, R257, R343, R344, R455) -/

/-- Batches that wait for a group: a running SCORE with records left, and an entry with datagrams. -/
def Dev.waitingFor (d : Dev) (first : Nat) : List (BatchSource × Layout) :=
  let scores := (d.fe.queues.map (fun u => (d.live u.1).filterMap (fun c => match c.work with
    | .score l next _ _ _ =>
      if scoreRecords c.bytes ≤ next then none
      else match scoreService c.bytes with
        | none => if l.firstCore.toNat = first then some (BatchSource.score u.1 c.index next, l) else none
        | some e => ((d.serviceGroups e).find? (fun g => g.2.firstCore.toNat = first)).map
            (fun g => (BatchSource.score u.1 c.index next, g.2))
    | _ => none))).flatten
  let services := d.service.services.filterMap (fun s =>
    if s.2.state = .disabled ∨ s.2.deleted = true ∨ (s.2.closed.isEmpty && s.2.openBatch.isEmpty) = true then none
    else ((d.serviceGroups s.1).find? (fun g => g.2.firstCore.toNat = first)).map (fun g => (BatchSource.service s.1, g.2)))
  scores ++ services

/-- The command of a SCORE source. -/
def Dev.scoreCmdOf (d : Dev) : BatchSource → Option Cmd
  | .score q i _ => d.cmd q i
  | .service _ => none

/-- The entry that a source draws on. -/
def Dev.entryOf (d : Dev) (s : BatchSource) : Option Nat :=
  match s with
  | .service e => some e
  | .score _ _ _ => (d.scoreCmdOf s).bind (fun c => scoreService c.bytes)

/-- Flags of an entry: 0 PREEMPT, 1 WINDOW_OK. -/
def Dev.entryFlag (d : Dev) (e n : Nat) : Bool := match (d.serv e).cfg with
  | some x => bitOf x.eflags.toNat n
  | none => false

/-- WINDOW_OK of a source: of its entry or its SCORE. -/
def Dev.windowOk (d : Dev) (s : BatchSource) : Bool :=
  (match d.scoreCmdOf s with
    | some c => scoreFlag c.bytes 2
    | none => false) || (match d.entryOf s with
    | some e => d.entryFlag e 1
    | none => false)

/-- Deadline of a batch (R321, R458, R459). -/
def Dev.deadlineOf (d : Dev) (s : BatchSource) (gs : List Datagram) : Option U64 :=
  let ns : Nat := match d.entryOf s with
    | some e => ((d.serv e).cfg.map (fun x => x.deadlineNs.toNat)).getD 0
    | none => match d.scoreCmdOf s with
      | some c => field c.bytes 4 4
      | none => 0
  let rt := match d.entryOf s, d.scoreCmdOf s with
    | none, some c => bitOf (byteAt c.bytes 1).toNat 1
    | _, _ => decide (ns ≠ 0)
  let start : U64 := match d.scoreCmdOf s with
    | some c => c.tDoorbell
    | none => match gs with
      | [] => d.time.ft
      | g :: rest => rest.foldl (fun t x => if x.tIn.toNat < t.toNat then x.tIn else t) g.tIn
  if rt then some (start + BitVec.ofNat 64 (16 * ns)) else none

/-- Whether a source may preempt: real-time with PREEMPT (R343, R457). -/
def Dev.mayPreempt (d : Dev) (s : BatchSource) : Bool :=
  d.agreed 14 && (match d.entryOf s with
    | some e => d.entryFlag e 0 && decide (((d.serv e).cfg.map (fun x => x.deadlineNs.toNat)).getD 0 ≠ 0)
    | none => match d.scoreCmdOf s with
      | some c => scoreFlag c.bytes 3 && bitOf (byteAt c.bytes 1).toNat 1
      | none => false)

/-- Finish-stage cycles of one lane group (R173). -/
def Ensemble.finishCycles (e : Ensemble) (g : Nat) : Nat :=
  32 + 8 * e.outputs + (if e.fixedPoint then 0 else g * e.outputs) + ([0, 6, 12, 8].getD e.transform.toNat 0) * e.outputs +
    (match e.decision with
      | some t => t.count
      | none => 0)

/-- ⌈log₂ n⌉ (fuel: the bits). -/
def ceilLog2 (n : Nat) : Nat := ((List.range 17).find? (fun k => decide (n ≤ 2 ^ k))).getD 17

/-- Binning cycles Z of a batch (R164). -/
def Ensemble.binCycles (e : Ensemble) (l : Layout) : Nat :=
  if l.raw then
    (e.features.map (fun f =>
      let n := f.bounds.length
      let m := l.laneGroups.toNat
      if n = 0 then 0 else if n = 1 then 1
      else if n ≤ 8192 then ceilDiv n 64 + m * ceilLog2 n else m * 4 * ceilLog2 n)).sum
  else 0

/-- The cycle that fills line n of a half, once the port is free at cycle next and the trees not walked, with that line,
fit 32 KiB (R163). walks: offset and end of the walks so far (log entry 19). -/
def fillCycle (total : Nat) (walks : List (Nat × Nat)) (next n : Nat) : Nat :=
  let need := min (256 * (n + 1)) total - 32768
  (walks.filter (fun w => w.1 < need)).foldl (fun c w => max c w.2) next

/-- The walks of a shard's later trees, each with its offset, size and cycles: the cycle after the last walk, the cycle
after the last fill, and the cycles that walks waited (R163). line: the next line; busy: the end of the walk before. -/
def fillWalks (total : Nat) : List (Nat × Nat × Nat) → List (Nat × Nat) → Nat → Nat → Nat → Nat → Nat × Nat × Nat
  | [], _, _, next, busy, stall => (busy, next, stall)
  | (o, size, c) :: ts, walks, line, next, busy, stall =>
    let last := (o + size + 255) / 256
    let next := (List.range (last - line)).foldl (fun n k => fillCycle total walks n (line + k) + 1) next
    let start := max busy next
    fillWalks total ts (walks ++ [(o, start + c)]) (max line last) next (start + c) (stall + (start - busy))

/-- Offsets of blocks that lie one after another. -/
def offsetsOf : List (Nat × Nat) → Nat → List (Nat × Nat × Nat)
  | [], _ => []
  | (size, c) :: ts, o => (o, size, c) :: offsetsOf ts (o + size)

/-- One step on shard i: the cycle after its last walk, the cycles that its walks waited, and the cycle after its last line
reaches a successor so many physical hops away (R72, R163, R169). -/
def Ensemble.shardStep (e : Ensemble) (l : Layout) (hops i : Nat) : Nat × Nat × Nat :=
  let blocks := (e.shard l.g i).map (fun t =>
    match e.trees[t]? with
    | some x => (x.block e.outputs, l.laneGroups.toNat * x.cost)
    | none => (0, 0))
  let total := (blocks.map (·.1)).sum
  match offsetsOf blocks 0 with
  | [] => (0, 0, 0)
  | (_, _, c) :: [] => (c, 0, (total + 255) / 256 + hops + 1)
  | (_, _, c) :: (o, t) :: ts =>
    let r := fillWalks total ((o, t) :: ts) [] (o / 256) 0 c 0
    (r.1, r.2.2, r.2.1 + o / 256 + hops + 1)

/-- The step length S (R169). -/
def Ensemble.stepCycles (e : Ensemble) (l : Layout) (hops : Nat) : Nat :=
  (List.range l.g).foldl (fun s i =>
    let r := e.shardStep l hops i
    max s (if l.g = 1 then r.1 else max r.1 r.2.2)) 0

/-- Cycles of a batch: binning, G steps, and the finish (R164, R169, R173, R174). -/
def Ensemble.batchCycles (e : Ensemble) (l : Layout) (hops : Nat) : Nat :=
  e.binCycles l + l.g * e.stepCycles l hops + l.laneGroups.toNat * e.finishCycles l.g

/-- Physical hops of the longest way between ring neighbours at the current core map (R72, R80). -/
def Dev.ringHops (d : Dev) (l : Layout) : Nat :=
  let at_ := l.ring.filterMap d.placeOf
  let gap (a b : Nat) : Nat := (a - b) + (b - a)
  (at_.zip (at_.drop 1 ++ at_.take 1)).foldl (fun h p => max h (gap (p.1 % 42) (p.2 % 42) + gap (p.1 / 42) (p.2 / 42))) 0

/-- Whether a core is free of every other job: its own group aside. -/
def Dev.freeFor (d : Dev) (first core : Nat) : Bool :=
  !d.mesh.jobs.any (fun j => j.cores.contains core) && !d.fe.tasks.any (fun t => (d.taskCores t.2).contains core) &&
    !d.scoring.groups.any (fun g => decide (g.1 ≠ first) && g.2.busy && (match g.2.layout with
      | some l => l.ring.contains core
      | none => false)) &&
    (match d.placeOf core with
      | some p => (rangeFrom (8 * p) 8).all (fun s => (d.slotRun s).owner.isNone)
      | none => false)

/-- The job that holds all of a layout's cores, with its image. -/
def Dev.jobUnder (d : Dev) (l : Layout) : Option (Job × ImageVersion) :=
  match l.ring with
  | [] => none
  | c :: _ => match d.jobAt c with
    | none => none
    | some j => if l.ring.all (fun c => j.cores.contains c) then (d.jobImage j).map (fun v => (j, v)) else none

/-- Whether a layout's banks are all lent by an image (R62, R123, R257). -/
def lends (im : LoadImage) (l : Layout) : Bool :=
  ((l.masks.map (fun m => maskBanks m.toNat)).flatten).all (fun b => im.lendBanks.any (fun x => x.toNat = b))

/-- Where a batch may run now: free cores, a bubble window, or by preemption of a job. -/
inductive Berth where
  | free
  | window
  | preempt (queue : Nat) (index : U32)
deriving DecidableEq, Repr

/-- Whether preempting a job now keeps PREEMPT_GAP, or stays within PREEMPT_LIMIT when it is preempted already (R345). -/
def Dev.preemptFits (d : Dev) (j : Job) (v : ImageVersion) (cycles : Nat) : Bool :=
  if j.preempted then
    !j.killed && decide (cyclesOf ((d.time.ft - j.preemptedAt).toNat) + cycles ≤ v.image.preemptLimit)
  else
    !j.held && (decide (j.restoredAt = 0) || decide (v.image.preemptGap ≤ cyclesOf ((d.time.ft - j.restoredAt).toNat)))

/-- The cycles that are left of an open bubble window around a layout's cores, at a cycle of the job's schedule (R256, R257). -/
def windowLeft (im : LoadImage) (cycle : Nat) (l : Layout) : Option Nat :=
  (im.bubbles.find? (fun w => l.ring.all (fun c => w.1.contains (BitVec.ofNat 11 c)) &&
    decide (w.2.1 ≤ cycle ∧ cycle < w.2.1 + w.2.2))).map (fun w => w.2.1 + w.2.2 - cycle)

/-- Whether a batch of n cycles is admitted into an open bubble window (R257). -/
def windowTakes (j : Job) (im : LoadImage) (l : Layout) (n : Nat) : Bool :=
  lends im l && !j.preempted && (match windowLeft im j.cycle l with
    | some m => decide (n ≤ m)
    | none => false)

/-- The berth of a source in a group, if any. -/
def findBerth (first : Nat) (s : BatchSource) (l : Layout) (e : Ensemble) (d : Dev) : Option Berth :=
  if l.ring.all (d.freeFor first) then some .free
  else match d.jobUnder l with
    | none => none
    | some (j, v) =>
      let n := e.batchCycles l (d.ringHops l)
      if d.agreed 15 && d.windowOk s && windowTakes j v.image l n then some .window
      else if d.mayPreempt s && v.image.preemptible && lends v.image l && d.preemptFits j v n then
        some (.preempt j.queue j.index)
      else none

/-- n bytes of a held frame from byte k on, as they lie in its port's receive buffer, with the poison of their granules
(R136, R454). -/
def Dev.heldBytes (d : Dev) (c : PortCfg) (g : Datagram) (k n : Nat) : List (Byte × Bool) :=
  (rangeFrom (g.pos + k) n).map (fun x =>
    let a := c.rxAddr.toNat + x % c.rxBytes.toNat
    (look 0 d.mem.cells a, look false d.mem.poison (a / 64)))

/-- The records of a datagram in the receive buffer, each rb bytes, with their poison marks. -/
def Dev.datagramRecords (d : Dev) (rb : Nat) (g : Datagram) : List (List Byte × Bool) :=
  match (d.port g.port).cfg with
  | none => []
  | some c => match requestUdp c g.frame with
    | none => []
    | some (u, p) =>
      let at_ := g.frame.length - p.body.length + (if u.v6 then 40 else 20) + 8 + 32
      (List.range g.records).map (fun k =>
        let b := d.heldBytes c g (at_ + rb * k) rb
        (b.map (·.1), b.any (·.2)))

/-- The records of a batch: their bytes and poison marks, and its datagrams. given: the records of host memory; a batch of
which not every record has come is not complete (R170). -/
def sourceRecords (s : BatchSource) (l : Layout) (e : Ensemble) (given : List (List Byte × Bool)) (d : Dev) :
    List (List Byte × Bool) × List Datagram :=
  let rb := e.recordBytes l.raw
  match s with
  | .score q i next => match d.cmd q i with
    | none => ([], [])
    | some c =>
      let n := min l.capacity (scoreRecords c.bytes - next)
      if scoreFlag c.bytes 0 then
        (if n ≤ given.length ∧ (given.take n).all (fun r => decide (r.1.length = rb)) = true then (given.take n, []) else ([], []))
      else
        let a := field c.bytes 0x18 8
        ((rangeFrom next n).map (fun k => (d.bytesAt (a + rb * k) rb, decide (0 < d.poisonedIn (a + rb * k) rb))), [])
  | .service x =>
    let sv := d.serv x
    let gs := if sv.closed.isEmpty then sv.openBatch else sv.closed.headD []
    ((gs.map (d.datagramRecords rb)).flatten, gs)

/-- Take a batch from its source: the records it has taken, and its count, which a SCORE through a service entry shares
(R459). -/
def takeBatch (s : BatchSource) (v : U32) (n : Nat) (d : Dev) : Dev :=
  match s with
  | .score q i _ =>
    let d := match (d.cmd q i).bind (fun c => scoreService c.bytes) with
      | some e => bump (cServ e 1) 1 d
      | none => d
    progress q i (modCmd q i (fun c => match c.work with
    | .score l next fl _ late => { c with
        work := .score l (next + n) (fl + 1) v late, version := if c.version = 0 then v else c.version }
    | _ => c) d)
  | .service e => modServ e (fun x =>
      { x with closed := x.closed.drop 1, openBatch := if x.closed.isEmpty then [] else x.openBatch,
               inFlight := x.inFlight + 1, admitted := x.admitted + 1 }) (bump (cServ e 1) 1 d)

/-- The format of a weight block as a byte of the position record. -/
def fmtByte (f : Fmt) : Nat := ([Fmt.lf32, .lf16, .lf8r, .lf8p, .int8].findIdx (fun g => g = f))

/-- The position record of 64 bytes (R124): program position, schedule cycle, barrier arrivals by channel, and for the active
and the staged block its format and length (the layout is a DESIGN CHOICE, log entry 105). -/
def positionRecord (c : Core) (cycle : Nat) : List Byte :=
  pack [(8, c.issued), (8, cycle), (4, (c.waiting.map (fun ch => 2 ^ ch)).sum), (1, fmtByte c.active.fmt), (1, fmtByte c.staged.fmt),
    (2, c.active.bytes.length), (2, c.staged.bytes.length)] (zeros 38)

/-- The flag record of 8 bytes (R124): the command's flag summary, and the flags whose event this core has raised for it. -/
def flagRecord (c : Cmd) (p : Nat) : List Byte :=
  leBytes 8 (c.flags.toNat + 256 * ((List.range 6).map (fun n => if c.raised.contains (p, n) then 2 ^ n else 0)).sum)

/-- Accumulator memory written to a save bank, as its 65,536 bytes: entry e of tile row r at 128 × r + 4 × e. -/
def Core.saveAcc (a : Nat) (c : Core) : Core :=
  let outside (x : Nat) : Bool := !decide (a ≤ x ∧ x < a + 65536)
  { c with
    lm := c.acc.foldl (fun m e => putAll 0 m (a + 4 * e.1) (leBytes 4 e.2.toNat)) (c.lm.filter (fun x => outside x.1)),
    lmPoison := c.lmPoison.filter (fun g => outside (64 * g.1)) }

/-- The save of one core (R124): accumulator memory to save bank 0; blocks, position and flags to save bank 1. -/
def saveToBanks (im : LoadImage) (cmd : Cmd) (cycle core : Nat) (d : Dev) : Dev :=
  match d.placeOf core, im.saveBanks with
  | some p, b0 :: b1 :: _ =>
    let c := d.core p
    let at_ := 65536 * b1.toNat
    modCore p (fun x => ((((x.saveAcc (65536 * b0.toNat)).write at_ c.active.bytes false).write (at_ + 4096)
      c.staged.bytes false).write (at_ + 8192) (positionRecord c cycle) false).write (at_ + 8256) (flagRecord cmd p) false) d
  | _, _ => d

/-- Preempt a job (R344): the hold line, and the save of every core into its save banks. The poison marks that go with entries
and weights are kept beside (log entry 105). A job already preempted is joined. -/
def preemptJob (q : Nat) (i : U32) (d : Dev) : Dev :=
  match d.job q i with
  | none => d
  | some j =>
    if j.preempted then d
    else
      let saved := j.cores.map (saveCore d [])
      let d := match d.jobImage j, d.cmd q i with
        | some v, some c => forEach (saveToBanks v.image c j.cycle) j.cores d
        | _, _ => d
      modJob q i (fun j => { j with preempted := true, preemptedAt := d.time.ft, saved := saved }) (bump (cFront 9) 1 d)

/-- Each ring core counts n in its counter k. -/
def countRing (l : Layout) (k n : Nat) (d : Dev) : Dev :=
  forEach (fun c d => match d.placeOf c with
    | some p => bump (cCore p k) n d
    | none => d) l.ring d

/-- The rows of a gated group wake (R449). -/
def wakeRing (l : Layout) (d : Dev) : Dev := wakeCores l.ring d

/-! ## The unit's banks (R158, R159, R164, R166, R168, R170; their order inside the banks: log entry 106) -/

/-- Each core of a layout that is present, with its ring position. -/
def Dev.ringCores (d : Dev) (l : Layout) : List (Nat × Nat) :=
  (l.ring.zip (List.range l.g)).filterMap (fun x => (d.placeOf x.1).map (fun p => (p, x.2)))

/-- The boundary tables of the raw features, one after another. -/
def Ensemble.boundaryBytes (e : Ensemble) : List Byte :=
  ((e.features.filter (fun f => f.rawFmt.toNat < 2)).map (fun f => (f.bounds.map (fun b => leBytes 4 b.toNat)).flatten)).flatten

/-- A shard of a batch's version as the stacks hold it, with the marks of its poisoned granules (R175). -/
def Batch.shardData (b : Batch) (e : Ensemble) (sh : Nat) : List (Byte × Bool) :=
  let data := e.shardBytes (e.shard b.layout.g sh)
  data.zip ((List.range data.length).map (fun k => b.bad.contains (sh, k / 64)))

/-- Bytes of the first tree block of a shard. -/
def Ensemble.firstBlock (e : Ensemble) (g sh : Nat) : Nat :=
  match (e.shard g sh).head?.bind (fun t => e.trees[t]?) with
  | some t => t.block e.outputs
  | none => 0

/-- A core takes an arriving shard into a half of its node store, and its first tree block into the reserve region. -/
def Core.takeShard (banks : List Nat) (first : Nat) (data : List (Byte × Bool)) (c : Core) : Core :=
  { c.landBanks banks 0 data with reserve := data.take first }

/-- A version load (R170): each core takes shard j of the new version into a half, and the boundary tables that raw records
need into the boundary banks. half: 0 node-store half A, 1 half B. -/
def loadShards (b : Batch) (e : Ensemble) (half : Nat) (d : Dev) : Dev :=
  let l := b.layout
  let tables := if l.raw then e.boundaryBytes.map (fun x => (x, false)) else []
  forEach (fun x => modCore x.1 (fun c =>
    (c.takeShard (l.banks half) (e.firstBlock l.g x.2) (b.shardData e x.2)).landBanks (l.banks 4) 0 tables)) (d.ringCores l) d

/-- Whether the active halves still hold shard j of a version on each core. -/
def Dev.holdsShards (d : Dev) (g : ScoreGroup) (l : Layout) (e : Ensemble) : Bool :=
  (d.ringCores l).all (fun x =>
    let data := e.shardBytes (e.shard l.g x.2)
    decide (((d.core x.1).banksMarked (l.banks (b2n g.nodeB)) data.length).map (·.1) = data))

/-- The poisoned granules of the first n bytes of a core's half. -/
def badIn (c : Core) (banks : List Nat) (n : Nat) : List Nat :=
  let marks := c.banksMarked banks n
  (List.range (ceilDiv n 64)).filter (fun k => (marks.drop (64 * k)).head?.elim false (·.2))

/-- The records of a batch as they land in a record half of each core; of raw records the codes are then written back over
them where the layout asks for it (R164). half: 2 RECORD_A, 3 RECORD_B. -/
def landRecords (l : Layout) (e : Ensemble) (half : Nat) (recs : List (List Byte × Bool)) (d : Dev) : Dev :=
  let mark (r : List Byte × Bool) : List (Byte × Bool) := r.1.map (fun x => (x, r.2))
  forEach (fun x =>
    let mine := (recs.drop (l.perCore * x.2)).take l.perCore
    let codes := mine.map (fun r => mark (binnedBytes e.features (e.codesOf l.raw r.1) [], r.2))
    modCore x.1 (fun c =>
      let c := c.landBanks (l.banks half) 0 (mine.map mark).flatten
      if l.raw && bitOf l.results.toNat 3 then c.landBanks (l.banks half) 0 codes.flatten else c)) (d.ringCores l) d

/-- Admit a batch of a source into a group in a berth: it takes the current version (R156, R170). poisoned: the granules
of the version's shards that a version load finds poisoned (R175). -/
def admitBatch (first : Nat) (s : BatchSource) (l : Layout) (v : EnsVersion) (berth : Berth)
    (recs : List (List Byte × Bool)) (gs : List Datagram) (poisoned : List (Nat × Nat)) (d : Dev) : Dev :=
  let e := v.content
  let ens := l.ensemble.toNat
  let g := d.sgroup first
  let number := match s with
    | .service x => (d.serv x).admitted
    | .score _ _ _ => 0
  let pre := match berth with
    | .preempt q i => some (q, i)
    | _ => none
  let load := decide (g.held ≠ some (v.number, v.era)) ||
    decide (g.layout.map (fun x => (x.ensemble, x.group, x.masks.take 2)) ≠ some (l.ensemble, l.group, l.masks.take 2)) ||
    (g.active.isNone && !d.holdsShards g l e)
  let bad := if load then poisoned else g.bad
  let b : Batch :=
    { source := s, layout := l, version := v.number,
      records := recs.map (fun r => { codes := e.codesOf l.raw r.1, poisoned := r.2, spoilt := false, reached := [], sums := [], partials := [] }),
      datagrams := gs, step := 0, deadline := d.deadlineOf s gs, missed := false, flags := 0, replays := 0,
      admitted := d.time.ft, preempts := pre, window := decide (berth = .window), number := number,
      bad := bad, era := v.era, load := load, due := [] }
  let d := match pre with
    | some (q, i) => preemptJob q i d
    | none => d
  let adm := leBytes 4 ens ++ leBytes 4 v.number.toNat
  let d := match s with
    | .score q i _ => traceAdd 7 0x17 q i 0 adm d
    | .service x => traceAdd 7 0x17 (2 ^ 18 + x) number 0 adm d
  let d := noteOrder 0x17 ens d
  let d := journalPoint b.segment.1 b.segment.2 false (match s with
    | .score _ _ first => first
    | .service _ => 0) d
  let d := takeBatch s v.number recs.length (modVersion (ensKey ens v.era) v.number (· + 1) (wakeRing l d))
  let d := if load then countRing l 13 1 d else d
  let compares := 32 * l.laneGroups.toNat * (e.features.map (fun f => ceilLog2 f.bounds.length)).sum
  let d := if l.raw then countRing l 10 compares d else d
  let d := match s with
    | .score q i next => (match d.cmd q i with
      | some c =>
        let a := field c.bytes 0x18 8 + e.recordBytes l.raw * next
        let n := e.recordBytes l.raw * recs.length
        if scoreFlag c.bytes 0 then d
        else countAccess 0 false a n <| countPoisonReads a n (modCmd q i (fun c => { c with poisonIn := stick32 c.poisonIn (d.poisonedIn a n) }) d)
      | none => d)
    | .service x => forEach (fun (g : Datagram) d =>
        journalAdd 0x05 (2 ^ 18 + x) number g.port (crc32c (leBytes 8 g.pos)) (leBytes 8 g.pos) d) gs d
  let d := if load && g.active.isNone then loadShards b e (b2n g.nodeB) d else d
  let d := landRecords l e (2 + b2n g.recordB) recs d
  modSGroup first (fun g =>
    { g with layout := some l, held := some (v.number, v.era), bad := bad, recordB := !g.recordB,
             active := if g.active.isNone then some b else g.active, next := if g.active.isNone then g.next else some b }) d

/-- Whether a group can take a batch of a layout now: idle, or in its last step (R170). -/
def ScoreGroup.canTake (g : ScoreGroup) (l : Layout) : Bool :=
  match g.active with
  | none => true
  | some b => decide (b.step + 1 = b.layout.g) && g.next.isNone && decide (b.layout.ring = l.ring)

/-- A lower-numbered group of the source's entry that can take the batch on free cores (R455). -/
def Dev.lowerTakes (d : Dev) (s : BatchSource) (first : Nat) : Bool :=
  match d.entryOf s with
  | none => false
  | some e =>
    ((d.serviceGroups e).takeWhile (fun g => g.2.firstCore.toNat ≠ first)).any (fun g =>
      (d.sgroup g.2.firstCore.toNat).canTake g.2 && g.2.ring.all (d.freeFor g.2.firstCore.toNat))

/-- BATCH_ADMIT: a group admits one waiting batch whose records are complete. Among several sources the manual gives no
order (log entry 12). -/
def batchAdmits (first : Nat) (given : List (List Byte × Bool)) (poisoned : List (Nat × Nat)) (d : Dev) : Dev :=
  let g := d.sgroup first
  let cands := (d.waitingFor first).filter (fun c => g.canTake c.2 && !d.lowerTakes c.1 first &&
    d.inOrder 0x17 c.2.ensemble.toNat && c.2.ring.all (fun x => (d.placeOf x).isSome))
  let (pick, d) := pickOne cands d
  match pick with
  | none => d
  | some (s, l) => match d.currentVersion l.ensemble.toNat with
    | none => d
    | some v =>
      let (recs, gs) := sourceRecords s l v.content given d
      if recs.isEmpty then d
      else
        match findBerth first s l v.content d with
        | none => d
        | some b => admitBatch first s l v b recs gs poisoned d

/-! ## Steps (R160, R168, R171, R172) -/

/-- The owner of a batch's flags: a SCORE's command. -/
def Batch.owner (b : Batch) : Option (Nat × U32) :=
  match b.source with
  | .score q i _ => some (q, i)
  | .service _ => none

/-- Record the flags of a batch's records by core, K and lane group, one cycle each (R120, R147). -/
def recordBatchFlags (b : Batch) (ks : Nat → List Nat) (flags : List (List (BitVec 6 × BitVec 6 × Nat))) (d : Dev) : Dev :=
  if flags.all (·.isEmpty) then d
  else
    let m := b.layout.laneGroups.toNat
    forEach (fun (x : Nat × Nat) d =>
      match d.placeOf x.1 with
      | none => d
      | some p =>
        forEach (fun k d => forEach (fun lg d =>
          let occs := ((List.range 32).map (fun lane =>
            ((flags.getD (b.layout.perCore * x.2 + 32 * lg + lane) []).filter (fun f => f.2.2 = k)).map
              (fun f => occsOf f.1 f.2.1.toNat 0 lane k))).flatten
          recordOccs b.owner p 4 0 occs.flatten d) (List.range m) d) (ks x.2) d)
      (b.layout.ring.zip (List.range b.layout.g)) d

/-- The flags of records as a summary. -/
def flagSum (flags : List (List (BitVec 6 × BitVec 6 × Nat))) : BitVec 6 :=
  flags.foldl (fun s r => r.foldl (fun s f => s ||| f.1) s) 0

/-- Whether a record's outputs are poisoned (R146, R175). -/
def Record.spoiled (r : Record) : Bool := r.poisoned || r.spoilt

/-- Walk one record through a shard: the leaves reached, the score registers, and with LF32 leaves the shard's partials (R144,
R171). bad: the shard's poisoned granules (R175). -/
def walkShard (e : Ensemble) (core sh : Nat) (ts bad : List Nat) (r : Record) : Record × List (BitVec 6 × BitVec 6 × Nat) :=
  let new := ts.filterMap (fun t => e.trees[t]?.map (fun x => let w := e.walk r.codes x; (t, w.1, w.2)))
  let sums := if e.fixedPoint then [] else
    (List.range e.outputs).map (fun i => e.partialOf core i (new.map (fun x => (x.1, x.2.1))))
  let r := { r with spoilt := r.spoilt || e.spoils r.codes ts bad }
  let regs : List Xs := if e.fixedPoint then
      (List.range e.outputs).map (fun i => e.addLeaves i (new.map (fun x => x.2.1)) (r.sums.getD i (xsOfInt 0)))
    else sums.map (fun s => { reg := BitVec.ofNat 128 s.value, tag := 0 })
  ({ r with reached := r.reached ++ new, sums := regs,
            partials := if e.fixedPoint then r.partials else r.partials ++ [(sh, sums.map (fun s => BitVec.ofNat 32 s.value))] },
   if r.spoiled then [] else (sums.map (·.flags)).flatten)

/-- The NaN core field of record i's core. -/
def Dev.batchCore (d : Dev) (l : Layout) (i : Nat) : Nat :=
  match l.ring[i / l.perCore]?.bind d.placeOf with
  | some p => d.nanCore p
  | none => 0xFFFF

/-- The shard that record i's core walks in step s (R168). -/
def Layout.shardAt (l : Layout) (s i : Nat) : Nat := (i / l.perCore + l.g - s % l.g) % l.g

/-- Store marked bytes at an address of the host or the stacks. -/
def landFar (host : Bool) (a : Nat) (data : List (Byte × Bool)) (d : Dev) : Dev :=
  if host then
    forEach (fun (g : Nat × List Byte × Bool) => hostWrite g.1 g.2.1 g.2.2) (byGranule data.length a data) d
  else countAccess 0 true a data.length (memLand 0 a data d)

/-- A command's POISON_OUT counts n poisoned granules (R292). -/
def countOut (q : Nat) (i : U32) (n : Nat) (d : Dev) : Dev := modCmd q i (fun c => { c with poisonOut := stick32 c.poisonOut n }) d

/-- Store marked bytes of a SCORE's results, and count the poisoned granules in its POISON_OUT (R292). -/
def landOut (q : Nat) (i : U32) (host : Bool) (a : Nat) (data : List (Byte × Bool)) (d : Dev) : Dev :=
  landFar host a data (countOut q i (markedGranules a data) d)

/-- A row of bytes under one mark. -/
def markAll (p : Bool) (b : List Byte) : List (Byte × Bool) := b.map (fun x => (x, p))

/-- A leaf key (R152). -/
def leafKey (t o : Nat) : List Byte := leBytes 8 (t * 65536 + o)

/-- The keys that a step emitted, record by record and in increasing tree: the record and its new leaves. -/
def Batch.newKeys (b : Batch) (new : List (Nat × Record)) : List (Nat × Nat × List Byte × Bool) :=
  (new.map (fun x => (x.2.reached.filter (fun k => b.layout.emits k.1)).map (fun k =>
    (x.1, k.1, leafKey k.1 k.2.2, x.2.spoiled)))).flatten

/-- Keys that lie one after another, joined. -/
def joinKeys : List (Nat × List Byte × Bool) → List (Nat × List (Byte × Bool))
  | [] => []
  | (a, b, m) :: ks =>
    match joinKeys ks with
    | [] => [(a, markAll m b)]
    | (c, data) :: rs => if c = a + b.length then (a, markAll m b ++ data) :: rs else (a, markAll m b) :: (c, data) :: rs

/-- Keys of a step as offsets in their command's key area: slot (record × E + e) × 8 of the batch's part of it (R172, R321). -/
def Batch.keysDue (b : Batch) (e : Ensemble) (keys : List (Nat × Nat × List Byte × Bool)) : List (Nat × List Byte × Bool) :=
  let ts := b.layout.keyTrees e
  match b.source with
  | .service _ => []
  | .score _ _ first => keys.map (fun k => (8 * ((first + k.1) * ts.length + ts.findIdx (fun t => t = k.2.1)), k.2.2))

/-- Drain a key half to the key area of its SCORE (R172): a granule that carries a marked key counts once (R146, R292). -/
def drainKeys (b : Batch) (d : Dev) : Dev :=
  match b.source with
  | .service _ => d
  | .score q i _ => match d.cmd q i with
    | none => d
    | some c =>
      if b.due.isEmpty then d
      else
        let base := field c.bytes 0x28 8
        let marked := (((b.due.filter (·.2.2)).map (fun k => granulesOf (base + k.1) 8)).flatten).eraseDups
        forEach (fun (r : Nat × List (Byte × Bool)) => landFar (scoreFlag c.bytes 1) (base + r.1) r.2) (joinKeys b.due)
          (countOut q i marked.length d)

/-- The keys of a step as they are written to a key half of each core, and its partials to the partial plane (R171, R172).
half: 7 KEY_A, 8 KEY_B. -/
def landStep (b : Batch) (e : Ensemble) (half : Nat) (keys : List (Nat × Nat × List Byte × Bool)) (recs : List Record) (d : Dev) :
    Dev :=
  let l := b.layout
  forEach (fun x =>
    let sh := l.shardAt b.step (x.2 * l.perCore)
    let mine := (keys.filter (fun k => decide (k.1 / l.perCore = x.2))).map (fun k => markAll k.2.2.2 k.2.2.1)
    let parts := if e.fixedPoint then [] else ((recs.drop (l.perCore * x.2)).take l.perCore).map (fun r =>
      markAll r.spoiled ((r.sums.map (fun s => leBytes 4 s.reg.toNat)).flatten))
    modCore x.1 (fun c => (c.landBanks (l.banks half) 0 mine.flatten).landBanks (l.banks 6) (4 * e.outputs * l.perCore * sh)
      parts.flatten)) (d.ringCores l) d

/-- Counters of a step: node steps, symmetric evaluations and fill stalls of each core's shard (R178). -/
def countStep (b : Batch) (e : Ensemble) (d : Dev) : Dev :=
  let l := b.layout
  let m := l.laneGroups.toNat
  forEach (fun (x : Nat × Nat) d => match d.placeOf x.1 with
    | none => d
    | some p =>
      let sh := l.shardAt b.step (x.2 * l.perCore)
      let ts := (e.shard l.g sh).filterMap (fun t => e.trees[t]?)
      let gen := ((ts.filter (fun t => !t.symmetric)).map (fun t => 32 * t.cost * m)).sum
      bump (cCore p 9) (32 * m * (ts.filter (fun t => t.symmetric)).length) (bump (cCore p 8) gen
        (bump (cCore p 11) (e.shardStep l 0 sh).2.1 d)))
    (l.ring.zip (List.range l.g)) d

/-- One step of a batch: every record walks its core's shard in the active half; the keys of the step before leave their
half. -/
def stepBatch (g : ScoreGroup) (b : Batch) (e : Ensemble) (d : Dev) : Batch × Dev :=
  let l := b.layout
  let bad := (List.range l.g).map (fun j => match l.ring[j]?.bind d.placeOf with
    | some p => badIn (d.core p) (l.banks (b2n g.nodeB)) (e.shardBytes (e.shard l.g (l.shardAt b.step (j * l.perCore)))).length
    | none => [])
  let walked := (b.records.zip (List.range b.records.length)).map (fun x =>
    let sh := l.shardAt b.step x.2
    walkShard e (d.batchCore l x.2) sh (e.shard l.g sh) (bad.getD (x.2 / l.perCore) []) x.1)
  let flags := walked.map (·.2)
  let new := ((walked.map (·.1)).zip (b.records.zip (List.range b.records.length))).map (fun x =>
    (x.2.2, { x.1 with reached := x.1.reached.drop x.2.1.reached.length }))
  let d := countStep b e d
  let d := recordBatchFlags b (fun j => e.shard l.g (l.shardAt b.step (j * l.perCore))) flags d
  let keys := b.newKeys new
  let d := landStep b e (7 + b2n g.keyB) keys (walked.map (·.1)) (drainKeys b d)
  ({ b with records := walked.map (·.1), step := b.step + 1, flags := b.flags ||| flagSum flags, due := b.keysDue e keys }, d)

/-- The shards move on (R168): each core takes its predecessor's shard into its other half. A group of one core has no
rotation. -/
def turnShards (g : ScoreGroup) (b : Batch) (e : Ensemble) (d : Dev) : Dev :=
  let l := b.layout
  if l.g = 1 then d
  else
    forEach (fun x d' =>
      let sh := l.shardAt (b.step + 1) (x.2 * l.perCore)
      let n := (e.shardBytes (e.shard l.g sh)).length
      match l.ring[(x.2 + l.g - 1) % l.g]?.bind d.placeOf with
      | none => d'
      | some p =>
        modCore x.1 (fun c => c.takeShard (l.banks (b2n (!g.nodeB))) (e.firstBlock l.g sh)
          ((d.core p).banksMarked (l.banks (b2n g.nodeB)) n)) d') (d.ringCores l) d

/-- The contents of the version a batch runs under. -/
def Dev.versionOf (d : Dev) (b : Batch) : Option Ensemble :=
  ((d.ens b.layout.ensemble.toNat).versions.find? (fun v => v.number = b.version ∧ v.era = b.era)).map (·.content)

/-- Progress of a batch's command. -/
def batchProgress (b : Batch) (d : Dev) : Dev :=
  match b.owner with
  | some (q, i) => progress q i d
  | none => d

/-- The next batch of a group whose version is to be streamed in as the last step ends (R170). -/
def ScoreGroup.loading (g : ScoreGroup) (b : Batch) : Option Batch :=
  if b.step + 1 = b.layout.g then g.next.filter (·.load) else none

/-- SHARD_STEP_END: the active batch's step ends and the halves swap; after its last step it goes to the finish stage once that
is free. -/
def shardStepEnds (first : Nat) (d : Dev) : Dev :=
  let g := d.sgroup first
  match g.active with
  | none => d
  | some b => match d.versionOf b with
    | none => d
    | some e =>
      if b.step + 1 = b.layout.g ∧ g.finishing.isSome = true then d
      else
        let (n, d) := stepBatch g b e d
        let d := match (g.loading b).bind (fun x => (d.versionOf x).map (fun y => (x, y))) with
          | some (x, y) => loadShards x y (b2n (!g.nodeB)) d
          | none => turnShards g b e d
        let d := batchProgress n d
        let swaps := decide (b.layout.g ≠ 1) || (g.loading b).isSome
        modSGroup first (fun g =>
          let g := { g with nodeB := if swaps then !g.nodeB else g.nodeB, keyB := !g.keyB }
          if n.step < n.layout.g then { g with active := some n }
          else { g with active := g.next, next := none, finishing := some n }) d

/-! ## The finish stage (R143, R144, R151, R173, R289, R458) -/

/-- The raw scores of a record whose walks are done. -/
def rawScores (e : Ensemble) (core g : Nat) (r : Record) : List Sum :=
  (List.range e.outputs).map (fun i =>
    if e.fixedPoint then e.fixedScoreOf i (r.sums.getD i (xsOfInt 0))
    else e.floatScore core i ((List.range g).filterMap (fun sh =>
      (r.partials.find? (fun p => p.1 = sh)).map (fun p => ((e.shardStarts g).getD sh 0, (p.2.getD i 0).toNat)))))

/-- The selected results of a record: final scores, raw scores, decision code, padded to 8 bytes (R321). -/
def Layout.resultsOf (l : Layout) (o : Outcome) : List Byte :=
  let sel (n : Nat) (b : List Byte) : List Byte := if bitOf l.results.toNat n then b else []
  let x := sel 0 ((o.finals.map (leBytes 4)).flatten) ++ sel 1 ((o.raw.map (leBytes 4)).flatten) ++ sel 2 [o.decision]
  x ++ zeros (alignUp x.length 8 - x.length)

/-- Whether the last result comes after the deadline: reached in that cycle is on time (R461). -/
def Dev.lateFor (d : Dev) (b : Batch) : Bool :=
  match b.deadline with
  | some t => decide (t.toNat < d.time.ft.toNat)
  | none => false

/-- 0x2001 DEADLINE_MISS of a batch, once (R289): no stream half of it can be late in the model. -/
def missEvent (b : Batch) (d : Dev) : Dev :=
  let src := match b.layout.ring.head?.bind d.placeOf with
    | some p => p
    | none => 0
  raiseEvent 0x2001 src (pack [(4, 0x0FFFFFFF), (8, (b.deadline.getD 0).toNat), (8, d.time.ft.toNat)] []) d

/-- Results of a SCORE's batch: written, counted, and the batch ends. -/
def finishScore (q : Nat) (i : U32) (first : Nat) (b : Batch) (late : Bool) (rs : List (List Byte × Bool)) (d : Dev) : Dev :=
  match d.cmd q i with
  | none => d
  | some c =>
    let size := (rs.headD ([], false)).1.length
    let data := (rs.map (fun r => markAll r.2 r.1)).flatten
    let d := landOut q i (scoreFlag c.bytes 1) (field c.bytes 0x20 8 + size * first) data d
    let d := modCmd q i (fun c => match c.work with
      | .score l n fl v lt => { c with work := .score l n (fl - 1) v (lt + b2n late), count := stick32 c.count rs.length }
      | _ => c) d
    let d := match scoreService c.bytes with
      | some e => if late then bump (cServ e 4) 1 d else d
      | none => d
    let d := if late then addNote q i 2 d else d
    settleScore q i (progress q i (modVersion b.ensKey b.version (fun n => n - 1) d))

/-- STATUS of a reply (R458). -/
def replyStatus (b : Batch) (late poisoned : Bool) : Nat :=
  if poisoned then 0x02 else if late then 0x30 else if b.replays ≠ 0 then 0x03 else if b.flags ≠ 0 then 0x01 else 0x00

/-- Replies of a service's batch, datagram by datagram, each taking its records' results. -/
def sendReplies (e : Nat) (b : Batch) (late : Bool) : List Datagram → Nat → List (List Byte × Bool) → Dev → Dev
  | [], _, _, d => d
  | g :: gs, r0, rs, d =>
    let mine := rs.take g.records
    let size := (mine.headD ([], false)).1.length
    let st := replyStatus b late (mine.any (·.2))
    let p := replyPayload 1 g.records size g.requestId g.clientTime g.tIn d.time.ft b.version.toNat st
      (b.flags.toNat + 64 * b2n (decide (b.replays ≠ 0))) 0 (mine.map (·.1)).flatten
    let d := queueReply g.port g.frame p (some (e, b.ensKey, b.version)) d
    let pay := leBytes 4 r0 ++ leBytes 4 g.records
    let d := journalAdd 0x06 (2 ^ 18 + e) b.number g.port (crc32c pay) pay (freeFrame g d)
    sendReplies e b late gs (r0 + g.records) (rs.drop g.records) d

/-- Results of a service's batch: its replies are queued, and its ends follow them (R155, R460). -/
def finishService (e : Nat) (b : Batch) (late : Bool) (rs : List (List Byte × Bool)) (d : Dev) : Dev :=
  let k := b.datagrams.length
  let d := modServ e (fun s => { s with inFlight := s.inFlight + k }) (modVersion b.ensKey b.version (· + k) d)
  let d := bump (cServ e 2) rs.length (if late then bump (cServ e 4) 1 d else d)
  let d := sendReplies e b late b.datagrams 0 rs d
  endService e b.ensKey b.version 1 (journalFree (2 ^ 18 + e) b.number d)

/-- Counters of the finish stage on each core: records written, poisoned ones, and cycles in a window. -/
def countFinish (b : Batch) (e : Ensemble) (d : Dev) : Dev :=
  let l := b.layout
  let d := if b.window then countRing l 22 (e.batchCycles l (d.ringHops l)) d else d
  forEach (fun (x : Nat × Nat) d => match d.placeOf x.1 with
    | none => d
    | some p =>
      let mine := (b.records.drop (x.2 * l.perCore)).take l.perCore
      bump (cCore p 15) (mine.filter (·.spoiled)).length (bump (cCore p 14) mine.length d))
    (l.ring.zip (List.range l.g)) d

/-- The selected results in the RESULT banks of each core (R166). -/
def landResults (b : Batch) (rs : List (List Byte × Bool)) (d : Dev) : Dev :=
  let l := b.layout
  forEach (fun x => modCore x.1 (fun c => c.landBanks (l.banks 5) 0
    ((((rs.drop (l.perCore * x.2)).take l.perCore).map (fun r => markAll r.2 r.1)).flatten))) (d.ringCores l) d

/-- BATCH_FINISH: raw scores, final scores and decisions of the batch in the finish stage. -/
def batchFinishes (first : Nat) (d : Dev) : Dev :=
  match (d.sgroup first).finishing with
  | none => d
  | some b => match d.versionOf b with
    | none => d
    | some e =>
      let l := b.layout
      let outs := (b.records.zip (List.range b.records.length)).map (fun x =>
        let core := d.batchCore l x.2
        e.finish core x.1.spoiled (rawScores e core l.g x.1))
      let flags := outs.map (·.flags)
      let d := recordBatchFlags b (fun _ => (if e.fixedPoint then [] else e.shardStarts l.g) ++ [0xFFFFFFFF]) flags d
      let b := { b with flags := b.flags ||| flagSum flags }
      let rs := (outs.zip b.records).map (fun x => (l.resultsOf x.1, x.2.spoiled))
      let late := d.lateFor b
      let d := if late && !b.missed then missEvent b d else d
      let d := landResults b rs (drainKeys b d)
      let d := modSGroup first (fun g => { g with finishing := none }) (countFinish b e d)
      match b.source with
      | .score q i r0 => finishScore q i r0 b late rs d
      | .service x => finishService x b late rs d

/-- BATCH_FINISH. -/
def execBatchFinish (first : BitVec 11) (s : State) : Host.Outcome State Fault Refusal := lift (batchFinishes first.toNat) s

/-- DEADLINE_MISS: fabric time has reached a batch's deadline and its last result is not written. -/
def deadlineMisses (first : Nat) (d : Dev) : Dev :=
  let due (b : Batch) : Bool := !b.missed && (match b.deadline with
    | some t => decide (t.toNat ≤ d.time.ft.toNat)
    | none => false)
  let g := d.sgroup first
  let mark (b : Option Batch) : Option Batch := b.map (fun b => if due b then { b with missed := true } else b)
  forEach missEvent (g.batches.filter due)
    (modSGroup first (fun g => { g with active := mark g.active, next := mark g.next, finishing := mark g.finishing }) d)

/-- DEADLINE_MISS. -/
def execDeadlineMiss (first : BitVec 11) (s : State) : Host.Outcome State Fault Refusal := lift (deadlineMisses first.toNat) s

/-! ## The end of a preemption (R125, R344, R345) -/

/-- Accumulator memory from the bytes of a save bank. -/
def accFrom (m : Sparse Byte) (a : Nat) : Sparse U32 :=
  ((m.filter (fun x => decide (a ≤ x.1 ∧ x.1 < a + 65536))).map (fun x => (x.1 - a) / 4)).eraseDups.foldl (fun acc e =>
    put 0 acc e (BitVec.ofNat 32 (leNat (lookAll 0 m (a + 4 * e) 4)))) []

/-- A weight block from a save bank: its bytes at a, its format and length from the position record. -/
def blockFrom (c : Core) (a fmt len : Nat) (poisoned : List Nat) : WeightBlock :=
  { fmt := [Fmt.lf32, .lf16, .lf8r, .lf8p, .int8].getD fmt .lf16, bytes := c.bytesAt a len, poisoned := poisoned }

/-- Put a preempted core's state back from its save banks (R125). -/
def unpreemptCore (im : LoadImage) (s : SavedCore) (d : Dev) : Dev :=
  match im.saveBanks with
  | b0 :: b1 :: _ =>
    onCore s.pos (fun c =>
      let at_ := 65536 * b1.toNat
      let r := c.bytesAt (at_ + 8192) 64
      { c with
        acc := accFrom c.lm (65536 * b0.toNat), accPoison := s.accPoison,
        active := blockFrom c at_ (field r 20 1) (field r 22 2) s.active.poisoned,
        staged := blockFrom c (at_ + 4096) (field r 21 1) (field r 24 2) s.staged.poisoned,
        issued := field r 0 8, waiting := (List.range 32).filter (fun ch => bitOf (field r 16 4) ch) }) d
  | _ => onCore s.pos (fun c => { c with acc := s.acc, accPoison := s.accPoison, active := s.active, staged := s.staged }) d

/-- Restore a preempted job, or end it when a KILL came meanwhile. -/
def restoreJob (q : Nat) (i : U32) (d : Dev) : Dev :=
  match d.job q i with
  | none => d
  | some j =>
    if j.killed then stopCmd 0x10 0 q i (modJob q i (fun j => { j with preempted := false, killed := false }) d)
    else
      let d := match d.jobImage j with
        | some v => forEach (unpreemptCore v.image) j.saved d
        | none => d
      let lost := (d.time.ft - j.preemptedAt).toNat
      let d := modJob q i (fun j => { j with preempted := false, saved := [], latched := [], restoredAt := d.time.ft }) d
      let d := addNote q i 1 (modCmd q i (fun c => { c with
        preemptions := c.preemptions + 1, excluded := c.excluded + lost }) d)
      forEach (fun ch d => releaseChannel q i ch d) j.latched d

/-- PREEMPT_RESTORE: the job that a group's batches preempted, once none of them is left in any group. -/
def preemptRestores (first : Nat) (d : Dev) : Dev :=
  let cores := match (d.sgroup first).layout with
    | some l => l.ring
    | none => []
  match d.mesh.jobs.find? (fun j => j.preempted && cores.any (fun c => j.cores.contains c)) with
  | none => d
  | some j =>
    if d.scoring.groups.any (fun g => g.2.batches.any (fun b => decide (b.preempts = some (j.queue, j.index)))) then d
    else restoreJob j.queue j.index d

/-- PREEMPT_RESTORE. -/
def execPreemptRestore (first : BitVec 11) (s : State) : Host.Outcome State Fault Refusal :=
  lift (preemptRestores first.toNat) s

/-! ## Publication and deletion (R153 to R157, R462) -/

/-- Whether the publication that is in service may take place: while REPLAY is set it keeps the recorded order of admissions
and publications, and waits for its turn (R382). -/
def Dev.publishDue (d : Dev) : Bool :=
  match d.owl.current with
  | none => true
  | some r => d.inOrder 0x18 (field r.bytes 0x20 4)

/-- A SCORE with records not admitted at the deletion of its ensemble: it ends KILLED with INCOMPLETE once its admitted
batches have ended (R157). -/
def orphanScore (ens q : Nat) (c : Cmd) (d : Dev) : Dev :=
  match c.work with
  | .score l next fl v late =>
    if l.ensemble.toNat = ens ∧ next < scoreRecords c.bytes then
      let d := modCmd q c.index (fun c => { c with work := .score l (scoreRecords c.bytes) fl v late }) d
      settleScore q c.index (addNote q c.index 4 (addFact q c.index 0x10 0 d))
    else d
  | _ => d

/-- An enabled entry on an ensemble that is deleted (R462). -/
def orphanService (e : Nat) (d : Dev) : Dev :=
  let s := d.serv e
  let gone := s.closed.flatten ++ s.openBatch
  let d := modServ e (fun s => { s with
    state := .draining, deleted := true, closed := [], openBatch := [],
    drainAt := if s.state = .draining then s.drainAt else d.time.ft }) d
  settleService e (forEach (fun (g : Datagram) d => refuseDatagram e g 5 (freeFrame g d)) gone d)

/-- Delete an ensemble. -/
def deleteEnsemble (ens : Nat) (d : Dev) : Dev :=
  let d := modEns ens (fun o => pruneVersions { o with present := false, current := 0, era := o.era + 1 }) d
  let d := forEach (fun q d => forEach (fun c d => orphanScore ens q c d) (d.live q) d) (d.fe.queues.map (·.1)) d
  forEach (fun e d =>
    if (d.serv e).state ≠ .disabled ∧ ((d.serv e).layout.map (fun l => l.ensemble.toNat)) = some ens then orphanService e d else d)
    (d.service.services.map (·.1)) d

/-- ENSEMBLE_DELETE. -/
def execEnsembleDelete (s : State) : Host.Outcome State Fault Refusal :=
  lift (servePcie 0x42 3 [u 4] (fun b d => onEnsemble b d (fun e => .ok ([], deleteEnsemble e d)))) s

/-- ENSEMBLE_READ: CURRENT and LIVE, on every path and while REPLAY is set. -/
def execEnsembleRead (s : State) : Host.Outcome State Fault Refusal :=
  lift (fun d => (serveReq (isOp 0x43) true false 3 true (fun _ => [u 4]) (fun b d => onEnsemble b d (fun e =>
    .ok (leBytes 4 (d.ens e).current.toNat ++ leBytes 4 (d.ens e).live.length, d))) d).1) s

end Sys2Proof.Machine
end

