-- ==== Sys2Proof/Machine/Replay.lean ====
section
/-! DEFINITION. Fault replay, and the core map: fences and changes of placement (R80 to R88, R177, R365, R373 to R378, R462). -/

namespace Sys2Proof.Machine
open Sys2Proof

/-! ## Fault replay (R373 to R378) -/

/-- The collective group that carries a job's channel-0 barrier (R427). -/
def Dev.jobGroup (d : Dev) (j : Job) : Option Nat :=
  match d.jobImage j with
  | some v => v.image.group.map (·.toNat)
  | none => none

/-- The other modules that a job's streams and group name. -/
def Dev.jobModules (d : Dev) (j : Job) : List Nat :=
  let far := (d.slotsOf j.queue j.index).filterMap (fun s => match (d.slot s).desc with
    | some x => if d.overLinks x then some (if x.farKind = 5 then bits x.farAddr.toNat 27 14 else x.farAddr.toNat / 2 ^ 40)
                else none
    | none => none)
  let mates := match d.jobGroup j with
    | some g => ((d.memberBox g).map Box.members).getD []
    | none => []
  ((far ++ mates).filter (fun m => m ≠ d.fabric.cfg.moduleId.toNat)).eraseDups

/-- Why a replay of a job fails (R376, R425). -/
def Dev.replayFails (d : Dev) (q : Nat) (i : U32) : Bool :=
  match d.job q i with
  | none => false
  | some j => d.unreplayable q i || j.cores.any (fun c => (d.placeOf c).isNone) || decide (3 ≤ j.attempts) ||
      d.embed.tables.any (fun t => t.2.unlogged.contains (q, i)) || (d.jobModules j).any (fun m => !d.reachable m)

/-- Tables whose step the job cannot replay lose it (R222), at other modules too. -/
def loseSteps (q : Nat) (i : U32) (d : Dev) : Dev :=
  forEach (fun t d => if (d.table t).unlogged.contains (q, i) then loseStep t (tellAway 3 t (q, i) d) else d)
    (d.embed.tables.map (·.1)) d

/-- Undo a job's scatters of every table, at other modules too (R222). -/
def undoJob (q : Nat) (i : U32) (d : Dev) : Dev :=
  forEach (fun t d => tellAway 3 t (q, i) (undoTable t (q, i) d)) (d.embed.tables.map (·.1)) d

/-- Put a core back to its checkpoint (R374 steps 4 and 5): retained banks restored, accumulator memory cleared, slots
idle with the generations of the checkpoint. -/
def restoreCore (banks : List Nat) (s : SavedCore) (d : Dev) : Dev :=
  match d.placeOf s.pos with
  | none => d
  | some p =>
    let d := modCore p (fun c => { c with
      lm := putBanks banks s.memory c.lm, lmPoison := c.lmPoison.filter (fun g => !banks.contains (g.1 / 1024)), acc := [], accPoison := [],
      waiting := [], issued := s.issued, dense := { c.dense with array := s.array, vector := s.vector, arrayBusy := 0, vectorBusy := 0, rotations := [] } }) d
    forEach (fun (x : Nat × U16) d => modSlot (8 * p + x.1) (fun y => { y with gen := x.2 }) (idleSlot (8 * p + x.1) d))
      ((List.range 8).zip s.gens) d

/-- Restart a job at its restart point: from its checkpoint, or from its start. -/
def rollBack (q : Nat) (i : U32) (j : Job) (v : ImageVersion) (d : Dev) : Dev :=
  let d := forEach killSlot (d.slotsOf q i) d
  let saved := if j.slot then j.checkpoint1 else j.checkpoint0
  if j.segment = 0 then
    let d := forEach idleSlot (d.slotsOf q i) d
    let d := forEach (fun c d => onCore c (fun x => { x with acc := [], accPoison := [], waiting := [], issued := 0 }) d) j.cores d
    let consts := match d.cmd q i with
      | some c => slice c.bytes 0x40 256
      | none => zeros 256
    armImage v.image (q, i) (deliverConstants v.image consts (loadOntoCores v.image d))
  else forEach (fun (s : SavedCore) d => restoreCore (retainedBanks v.image s.pos) s d) saved d

/-- Mark a command replayed (R378); the time of the replay does not count toward its window. -/
def markReplayed (q : Nat) (i : U32) (d : Dev) : Dev :=
  let d := addNote q i 0 (bump (cOwl 0) 1 d)
  modCmd q i (fun c => { c with replays := c.replays + 1, lastProgress := d.time.ft, poisonIn := 0, poisonOut := 0 }) d

/-- Put a job back to its restart point (R374 steps 4 to 6): its cores, and the schedule cycle that followed the release. -/
def restartJob (q : Nat) (i : U32) (j : Job) (v : ImageVersion) (d : Dev) : Dev :=
  modJob q i (fun j => { j with
    held := false, lateSlots := [], lateDense := [], overruns := [], arrivals := [], latched := [], groupArr := none,
    cycle := j.restartCycle, flits := [] })
    (rollBack q i j v (forgetPassed q i (undoJob q i d)))

/-- Replay this module's part of a job (R373, R374), or kill its command where REPLAY is not agreed or the replay fails. -/
def replayHere (q : Nat) (i : U32) (d : Dev) : Dev :=
  match d.job q i with
  | none => d
  | some j =>
    if !d.agreed 13 then stopCmd 0x10 0 q i d
    else if d.replayFails q i then stopCmd 0x10 0 q i (loseSteps q i (bump (cOwl 1) 1 d))
    else match d.jobImage j with
      | none => d
      | some v => markReplayed q i (modJob q i (fun j => { j with attempts := j.attempts + 1 }) (restartJob q i j v d))

/-- STOP flits to the other modules of a job that spans modules (R374 step 1): its group and its segment. -/
def sendStops (q : Nat) (i : U32) (d : Dev) : Dev :=
  match d.job q i with
  | none => d
  | some j =>
    if !d.agreed 13 || d.replayFails q i then d
    else match d.jobGroup j with
      | none => d
      | some g =>
        forEach (fun m d => sendFlit m 0xB true 0 0 (pack [(4, g), (4, j.segment)] []) 0 d)
          ((((d.memberBox g).map Box.members).getD []).filter (fun m => m ≠ d.fabric.cfg.moduleId.toNat)) d

/-- Replay a job that a fault of this module touches: its other modules are stopped and replay as well. -/
def replayJob (q : Nat) (i : U32) (d : Dev) : Dev := replayHere q i (sendStops q i d)

/-- A batch in the walks runs again from its admission; one in the finish stage keeps its walks, whose bits a second run
would give again (R374). -/
def Batch.again (walks : Bool) (b : Batch) : Batch :=
  let rs := if walks then b.records.map (fun r => { r with spoilt := false, reached := [], sums := [], partials := [] }) else b.records
  { b with step := if walks then 0 else b.step, replays := b.replays + 1, records := rs, due := if walks then [] else b.due }

/-- The commands and entries that own batches, each once. -/
def sourcesOf (bs : List Batch) : List (Option (Nat × U32)) := (bs.map Batch.owner).eraseDups

/-- A batch whose replay fails (R371, R376): its segment is marked, or it has been replayed three times already. -/
def Dev.batchFails (d : Dev) (b : Batch) : Bool := decide (3 ≤ b.replays) || d.unreplayable b.segment.1 b.segment.2

/-- The batches whose replay fails leave their group and end without results (R376). -/
def failBatches (g : Nat) (d : Dev) : Dev :=
  let lost := (d.sgroup g).batches.filter d.batchFails
  let keep (b : Option Batch) : Option Batch := b.filter (fun b => !d.batchFails b)
  if lost.isEmpty then d
  else
    let s := d.sgroup g
    let act := keep s.active
    forEach (killBatch none) lost (modSGroup g (fun s => { s with
      active := if act.isSome then act else keep s.next, next := if act.isSome then keep s.next else none,
      finishing := keep s.finishing }) (bump (cOwl 1) lost.length d))

/-- Replay the batches of a group under their versions (R177, R365), but those whose replay fails. -/
def replayBatch (g : Nat) (d : Dev) : Dev :=
  let d := failBatches g d
  let bs := (d.sgroup g).batches
  if bs.isEmpty then d
  else
    let d := forEach (fun o d => match o with
      | some (q, i) => markReplayed q i d
      | none => bump (cOwl 0) 1 d) (sourcesOf bs) d
    let s := d.sgroup g
    let d := match s.active.bind (fun b => (d.versionOf b).map (fun e => (b, e))) with
      | some (b, e) => loadShards b e (b2n s.nodeB) d
      | none => d
    modSGroup g (fun s => { s with
      active := s.active.map (Batch.again true), next := s.next.map (Batch.again true),
      finishing := s.finishing.map (Batch.again false) }) d

/-- Whether the replay of a command without a job or batch fails (R376). -/
def Dev.cmdFails (d : Dev) (q : Nat) (c : Cmd) : Bool := d.unreplayable q c.index || decide (3 ≤ c.replays)

/-- Replay a command without a job or batch, or end it where that fails. -/
def replayCmd (q : Nat) (c : Cmd) (f : Dev → Dev) (d : Dev) : Dev :=
  if d.cmdFails q c then stopCmd 0x10 0 q c.index (bump (cOwl 1) 1 d) else f d

/-- A COPY is replayed from its start (R365). -/
def replayCopy (q : Nat) (c : Cmd) (d : Dev) : Dev :=
  let d := forEach idleSlot (d.slotsOf q c.index) (forgetPassed q c.index d)
  let d := markReplayed q c.index (modCmd q c.index (fun c => { c with work := .plain, count := 0 }) d)
  match d.cmd q c.index with
  | some c => tryCopy q c d
  | none => d

/-- FAULT_REPLAY: a fault touches the job of a command. A WAIT or BARRIER is judged again where it stands; a GROW or EMB_STEP
under way has nothing to take back, for the rows it has updated keep their updates (R365, R377). -/
def faultReplays (q : Nat) (i : U32) (d : Dev) : Dev :=
  match d.cmd q i with
  | none => d
  | some c =>
    if c.completed ∨ c.committed then d
    else if (d.job q i).isSome then replayJob q i d
    else if !d.agreed 13 then (if isOpcode 6 c.bytes ∨ isOpcode 8 c.bytes then d else stopCmd 0x10 0 q i d)
    else if isOpcode 5 c.bytes then replayCmd q c (replayCopy q c) d
    else if isOpcode 3 c.bytes ∨ isOpcode 4 c.bytes then replayCmd q c (markReplayed q c.index) d
    else forEach (fun g d =>
      if (d.sgroup g).batches.any (Batch.forCmd q i) then replayBatch g d else d)
      (d.scoring.groups.map (·.1)) d

/-- FAULT_REPLAY. -/
def execFaultReplay (q : QueueId) (index : U32) (s : State) : Host.Outcome State Fault Refusal :=
  lift (faultReplays q.toNat index) s

/-! ## The core map (R80 to R88) -/

/-- The core entry register (R86). -/
def CoreEntry.bits (e : CoreEntry) : Nat :=
  let st := match e.state with
    | .active => 0
    | .spare => 1
    | .fenced => 2
  e.logical.toNat + 2 ^ 11 * st + 2 ^ 13 * b2n e.thread + 2 ^ 16 * e.cause.toNat + 2 ^ 32 * e.epoch.toNat

/-- What the entry of a position becomes under a placement: its number and state; EPOCH follows a change (R86). -/
def relabel (d : Dev) (place : List Nat) (p : Nat) (old e : CoreEntry) : CoreEntry :=
  let k := place.findIdx (fun x => x = p)
  let e' : CoreEntry :=
    if e.state = .fenced then { e with logical := 0x7FF }
    else if k < place.length then { e with logical := BitVec.ofNat 11 (40 * (p / 42) + k), state := .active }
    else { e with logical := 0x7FF, state := .spare }
  if e' = old then old else { e' with epoch := d.mesh.epoch.setWidth 32 }

/-- Relabel the positions of a row, against what their entries were before the change. -/
def relabelRow (old : Dev) (r : Nat) (d : Dev) : Dev :=
  let place := d.rowPlaces r
  forEach (fun p d => modCore p (fun c => { c with entry := relabel d place p (old.core p).entry c.entry }) d) (rowPositions r) d

/-- What moves with a logical core: local memory, accumulator memory and the core's work (R83 step 3). -/
def moveCore (src dst : Core) : Core :=
  { src with sticky := dst.sticky, capture := dst.capture, entry := dst.entry, ueTimes := dst.ueTimes }

/-- Move the logical cores of a row to their new positions, each from what the old map held. -/
def moveRow (r : Nat) (old : Dev) (d : Dev) : Dev :=
  forEach (fun c d => match old.placeOf c, d.placeOf c with
    | some a, some b => if a = b then d else modCore b (moveCore (old.core a)) d
    | _, _ => d) (rangeFrom (40 * r) 40) d

/-- Jobs whose cores lie in rows. -/
def Dev.jobsInRows (d : Dev) (rows : List Nat) : List (Nat × U32) :=
  (d.mesh.jobs.filter (fun j => j.cores.any (fun c => rows.contains (c / 40)))).map (fun j => (j.queue, j.index))

/-- Scoring groups whose cores lie in rows. -/
def Dev.groupsInRows (d : Dev) (rows : List Nat) : List Nat :=
  (d.scoring.groups.filter (fun g => match g.2.layout with
    | some l => l.ring.any (fun c => rows.contains (c / 40))
    | none => false)).map (·.1)

/-- Whether a layout's cores are not all present. -/
def Dev.layoutLost (d : Dev) (l : Layout) : Bool := l.ring.any (fun c => (d.placeOf c).isNone)

/-- A fault touches a scoring group: its batches are replayed, or killed where REPLAY is not agreed (R373, R485). -/
def groupFault (g : Nat) (d : Dev) : Dev := if d.agreed 13 then replayBatch g d else killGroup none g d

/-- A scoring group of rows: replayed while its cores are present, else ended (R177). -/
def resumeScoring (g : Nat) (d : Dev) : Dev :=
  match (d.sgroup g).layout with
  | none => d
  | some l => if d.layoutLost l then killGroup (some 4) g d else groupFault g d

/-- Groups with a core absent are dropped from an entry (R462). -/
def dropGroups (e : Nat) (d : Dev) : Dev :=
  if (d.serv e).state = .disabled then d
  else
    let lost := ((d.serviceGroups e).filter (fun g => d.layoutLost g.2)).map (·.1)
    if lost.isEmpty then d else settleService e (modServ e (fun s => { s with dropped := s.dropped ++ lost }) d)

/-- A SCORE that has lost its group, between batches too, completes with 0x10 (R177). -/
def endLostScore (q : Nat) (c : Cmd) (d : Dev) : Dev :=
  match c.work with
  | .score l _ _ _ _ =>
    let lost := match scoreService c.bytes with
      | none => d.layoutLost l
      | some e => (d.serviceGroups e).isEmpty
    if lost then stopCmd 0x10 0 q c.index d else d
  | _ => d

/-- The route programs of a job for the map in force (R83 step 4). -/
def retimeJob (q : Nat) (i : U32) (d : Dev) : Dev :=
  match d.job q i with
  | none => d
  | some j => match d.jobImage j with
    | none => d
    | some v =>
      let r := routesOf d v.image
      modJob q i (fun j => { j with route := r.1, sinks := r.2 }) d

/-- A stopped job goes on after a change of placement (R83 steps 4 and 6). joined: the change joins one of the same Den cycle,
whose replay counts already. -/
def resumeJob (joined : Bool) (q : Nat) (i : U32) (d : Dev) : Dev :=
  match d.job q i with
  | none => d
  | some j =>
    if j.cores.any (fun c => (d.placeOf c).isNone) then stopCmd 0x10 0 q i d
    else
      let d := retimeJob q i (addNote q i 3 d)
      if joined && decide (0 < j.attempts) then match d.jobImage j with
        | none => d
        | some v => restartJob q i j v d
      else replayJob q i d

/-- Jobs of cores that are no longer all present complete with 0x10; the others are replayed (R81, R83, R177). -/
def resumeRows (joined : Bool) (rows : List Nat) (d : Dev) : Dev :=
  let d := forEach (fun (k : Nat × U32) d => resumeJob joined k.1 k.2 d) (d.jobsInRows rows) d
  let d := forEach (fun g d => if joined && !(match (d.sgroup g).layout with
    | some l => d.layoutLost l
    | none => false) then d else resumeScoring g d) (d.groupsInRows rows) d
  let d := forEach dropGroups (d.service.services.map (·.1)) d
  forEach (fun q d => forEach (endLostScore q) (d.live q) d) (d.fe.queues.map (·.1)) d

/-- Every command that runs as the map epoch changes reports it (R314, R357). -/
def noteEpoch (d : Dev) : Dev :=
  forEach (fun q d => forEach (fun (c : Cmd) d => addNote q c.index 3 d) (d.live q) d) (d.fe.queues.map (·.1)) d

/-- A change of fenced positions in rows, handled as one (R83): entries, contents, the map epoch, jobs. A change of rows that
have changed in the same Den cycle joins that change: the epoch has risen for it. -/
def changeMap (rows : List Nat) (f : Dev → Dev) (d : Dev) : Dev :=
  let d' := f d
  let moved := rows.filter (fun r => !(rangeFrom (40 * r) 40).all (fun c => decide (d.placeOf c = d'.placeOf c)))
  if moved.isEmpty then forEach (relabelRow d) rows d'
  else
    let joined := moved.all d.cycle.rows.contains
    let d' := { d' with cycle := { d'.cycle with rows := d'.cycle.rows ++ moved } }
    let d' := if joined then d' else noteEpoch { d' with mesh := { d'.mesh with epoch := d'.mesh.epoch + 1 } }
    let d' := forEach (fun r x => moveRow r d x) rows d'
    let d' := forEach (relabelRow d) rows d'
    let d' := if joined then d' else raiseEvent 0x7003 0x8001 (leBytes 8 d'.mesh.epoch.toNat) d'
    resumeRows joined rows d'

/-- Fence a position with a cause (R83, R86). -/
def fencePos (cause : BitVec 4) (p : Nat) (d : Dev) : Dev :=
  modCore p (fun c => { c with entry := { c.entry with state := .fenced, cause := cause } }) d

/-- Fence positions at once (R83): every one that was healthy raises 0x7001 with its entry as the change leaves it, and the
map changes after. every: positions fenced already take the cause too (R82). -/
def fenceSet (every : Bool) (cause : BitVec 4) (ps : List Nat) (d : Dev) : Dev :=
  let new := ps.filter (fun p => !d.fenced p)
  let set := if every then ps else new
  let rows := (set.map (· / 42)).eraseDups
  let change := changeMap rows (fun d => forEach (fencePos cause) set d)
  let after := change d
  change (forEach (fun p d => raiseEvent 0x7001 p (leBytes 8 (after.core p).entry.bits) d) new d)

/-- Fence the healthy ones of some positions. -/
def fenceAll (cause : BitVec 4) (ps : List Nat) (d : Dev) : Dev := fenceSet false cause ps d

/-- Unfence positions at once (R83, R521). -/
def unfenceAll (ps : List Nat) (d : Dev) : Dev :=
  let old := ps.filter d.fenced
  changeMap ((old.map (· / 42)).eraseDups) (fun d => forEach (fun p d => modCore p (fun c =>
    { c with entry := { c.entry with state := .spare, cause := 0 } }) d) old d) d

/-- CORE_FAULT_FENCE (R83, R520): a fault in service fences a position; CAUSE 3 and 4 fence its whole row, each position of
which then reads the cause (R82). -/
def faultFence (p : Nat) (cause : BitVec 4) (d : Dev) : Dev :=
  if !d.mesh.mapBuilt then d
  else if cause = 3 ∨ cause = 4 then
    fenceSet true cause (rowPositions (p / 42)) (modRow (p / 42) (fun r => { r with fenced := true }) d)
  else fenceAll cause [p] d

/-- CORE_FAULT_FENCE. -/
def execCoreFaultFence (p : PosId) (cause : BitVec 4) (s : State) : Host.Outcome State Fault Refusal :=
  lift (faultFence p.val cause) s


end Sys2Proof.Machine
end

