-- ==== Sys2Proof/Machine/Cores.lean ====
section
/-! DEFINITION. The units of a core: matrix array, promotion, preload, vector unit and output stage (R64 to R70, R89 to R112, R258, R259). -/

namespace Sys2Proof.Machine
open Sys2Proof

/-! ## Reading and writing a core's elements -/

/-- An instruction of a core's program: it issues only where R74, R75 and R345 let it, and the program moves on. -/
def coreRun (p : Nat) (f : Dev → Dev) (d : Dev) : Dev :=
  if d.issues p then f (modCore p (fun c => { c with issued := c.issued + 1 }) (coreProgress p d)) else d

/-- Fabric-time units of 24 hours. -/
def dayUnits : Nat := 86400 * 16000000000

/-- An uncorrectable error in local memory (R63): its granule is poisoned and 0x4003 raised with the local address and
the bank. -/
def lmUncorrectable (p : Nat) (a : BitVec 20) (d : Dev) : Dev :=
  let d := modCore p (fun c => { c with
    lmPoison := put false c.lmPoison (a.toNat / 64) true, ueTimes := c.ueTimes ++ [d.time.ft] }) d
  raiseEvent 0x4003 p (pack [(4, a.toNat), (1, a.toNat / 65536)] []) d

/-- Whether a position has found three uncorrectable errors within 24 hours (R520). -/
def Dev.ueFences (d : Dev) (p : Nat) : Bool :=
  decide (3 ≤ ((d.core p).ueTimes.filter (fun t => decide ((d.time.ft - t).toNat ≤ dayUnits))).length)

/-- Errors that a core's local memory finds as an instruction reads its operands (R63, R373, R520): a corrected one counts;
an uncorrectable one replays the core's job in place of the instruction, and the third within 24 hours fences the
position. -/
def withLmErrors (p : Nat) (errors : LmErrors) (f : Dev → Dev) (d : Dev) : Dev :=
  let d := bump (cCore p 6) (errors.filter (fun e => !e.2)).length d
  match (errors.filter (·.2)).map (·.1) with
  | [] => f d
  | bad =>
    let d := forEach (lmUncorrectable p) bad d
    if d.ueFences p then faultFence p 2 d
    else match d.ownerOf p with
      | some (q, i) => replayJob q i d
      | none => d

/-- Positions of a scoring group's cores. -/
def Dev.ringPlaces (d : Dev) (first : Nat) : List Nat :=
  match (d.sgroup first).layout with
  | none => []
  | some l => l.ring.filterMap d.placeOf

/-- Errors that local memory finds as a group's cores read their node stores and records in a step (R63, R71, R373, R520):
a corrected one counts. An uncorrectable one replays the group's batches, and the job that they preempt, in place of the
step's end, and the halves are filled anew; the third within 24 hours fences the position. -/
def withStepErrors (first : Nat) (errors : List (PosId × BitVec 20 × Bool)) (f : Dev → Dev) (d : Dev) : Dev :=
  let mine := errors.filter (fun e => (d.ringPlaces first).contains e.1.val)
  let d := forEach (fun e d => if e.2.2 then d else bump (cCore e.1.val 6) 1 d) mine d
  let bad := (mine.filter (·.2.2)).map (fun e => (e.1.val, e.2.1))
  if bad.isEmpty ∨ (d.sgroup first).active = none then f d
  else
    let d := forEach (fun e d => lmUncorrectable e.1 e.2 d) bad d
    match (bad.map (·.1)).filter d.ueFences with
    | p :: _ => faultFence p 2 d
    | [] =>
      let held := ((d.sgroup first).batches.filterMap (·.preempts)).eraseDups
      let d := forEach (fun k d => replayJob k.1 k.2 d) held (groupFault first d)
      if d.agreed 13 then
        forEach (fun e d => modCore e.1 (fun c => { c with lmPoison := put false c.lmPoison (e.2.toNat / 64) false }) d) bad d
      else d

/-- SHARD_STEP_END. -/
def execShardStepEnd (first : BitVec 11) (lmErrors : List (PosId × BitVec 20 × Bool)) (s : State) :
    Host.Outcome State Fault Refusal :=
  lift (withStepErrors first.toNat lmErrors (shardStepEnds first.toNat)) s

/-- Whether n bytes lie in local memory. -/
def inLm (a n : Nat) : Bool := decide (a + n ≤ 2 ^ 20)

/-- Whether n bytes of elements of a size can be one access at a local address (R29, R61): aligned to the element, and within one
aligned 256-byte line. -/
def inLine (size a n : Nat) : Bool := decide (a % size = 0 ∧ a % 256 + n ≤ 256) && inLm a n

/-- Whether n bytes at a local address are whole accesses of 256-byte lines from the start of one (R61). -/
def inLines (a n : Nat) : Bool := decide (a % 256 = 0) && inLm a n

/-- An element of local memory and the poison of its granule. -/
def Core.elemAt (c : Core) (f : Fmt) (a : Nat) : Nat × Bool :=
  (leNat (c.bytesAt a f.size), look false c.lmPoison (a / 64))

/-- Entry e of a tile row and its poison (R66). -/
def Core.entryAt (c : Core) (row e : Nat) : Nat × Bool :=
  ((look 0 c.acc (32 * row + e)).toNat, look false c.accPoison (32 * row + e))

/-- Write an entry of a tile row. -/
def Core.setEntry (row e : Nat) (v : Nat × Bool) (c : Core) : Core :=
  { c with acc := put 0 c.acc (32 * row + e) (BitVec.ofNat 32 v.1), accPoison := put false c.accPoison (32 * row + e) v.2 }

/-- Write a list of entries from entry e on; none leaves an entry as it is. -/
def setEntries (row : Nat) : Nat → List (Option (Nat × Bool)) → Core → Core
  | _, [], c => c
  | e, v :: vs, c => setEntries row (e + 1) vs (match v with
    | some x => c.setEntry row e x
    | none => c)

/-- An element as marked bytes. -/
def elemBytes (f : Fmt) (v : Nat × Bool) : List (Byte × Bool) := (leBytes f.size v.1).map (fun b => (b, v.2))

/-- Write consecutive elements at a local address. -/
def Core.setElems (f : Fmt) (a : Nat) (vs : List (Nat × Bool)) (c : Core) : Core := c.land a (vs.map (elemBytes f)).flatten

/-- Size of an XS element's value. -/
def xsSize (wide : Bool) : Nat := if wide then 16 else 8

/-- XS element i of the planes at two local addresses, and its poison. -/
def Core.xsAt (c : Core) (wide : Bool) (values tags i : Nat) : Xs × Bool :=
  let a := values + xsSize wide * i
  ({ reg := xsReg wide (leNat (c.bytesAt a (xsSize wide))), tag := look 0 c.lm (tags + i) },
   look false c.lmPoison (a / 64) || look false c.lmPoison ((tags + i) / 64))

/-- Write consecutive XS elements to the planes at two local addresses. -/
def Core.setXs (wide : Bool) (values tags : Nat) (vs : List (Xs × Bool)) (c : Core) : Core :=
  (c.land values (vs.map (fun v => (leBytes (xsSize wide) v.1.reg.toNat).map (fun b => (b, v.2)))).flatten).land tags
    (vs.map (fun v => (v.1.tag, v.2)))

/-! ## The matrix array (R64, R65, R89 to R96) -/

/-- Weight (k, n) of a block and its poison. -/
def WeightBlock.weight (b : WeightBlock) (w : Fmt) (ks k n : Nat) : Nat × Bool :=
  (leNat (slice b.bytes (weightAt w ks k n) w.size), b.poisoned.contains (32 * k + n))

/-- A partial sum: its LF32 bits, whether it derives from poison, the k position of its first term and the flags that
forming it set. -/
structure Part where
  bits   : Nat
  poison : Bool
  k      : Nat
  occs   : List Occ
deriving DecidableEq, Repr

/-- Where a sum takes place: its rounding, the NaN core field, the tile row and the column. -/
structure SumAt where
  rnd  : Rnd
  core : Nat
  row  : Nat
  col  : Nat
deriving DecidableEq, Repr

/-- A result derived from poison, in LF32 (R59). -/
def poison32 (core : Nat) : Nat := poisonElem .lf32 core 0

/-- One LF32 addition of two partial sums (R93, R94, R105); the added part gives the k position of its flags
(log entry 23). An intermediate sum has no element index, so under stochastic rounding, which a vector sum may name, its random
bits are 0 (DESIGN CHOICE, log entry 98). -/
def addParts (s : SumAt) (a c : Part) : Part :=
  if a.poison || c.poison then { bits := poison32 s.core, poison := true, k := a.k, occs := a.occs ++ c.occs }
  else
    let r := addElem .lf32 s.rnd 0 s.core a.bits c.bits
    { bits := r.bits, poison := false, k := a.k, occs := a.occs ++ c.occs ++ occsOf r.flags r.origin.toNat s.row s.col c.k }

/-- The pairwise tree of R94 over 2^n places. -/
def treeSum {α : Type} (add : α → α → α) : Nat → List (Option α) → Option α
  | 0, l => l.headD none
  | n + 1, l =>
    match treeSum add n (l.take (2 ^ n)), treeSum add n (l.drop (2 ^ n)) with
    | some a, some c => some (add a c)
    | some a, none => some a
    | none, c => c

/-- Add a part to an entry that may be empty: the first term is written unchanged (R92). -/
def addTo (s : SumAt) (entry : Option Part) (t : Part) : Option Part :=
  match entry with
  | none => some t
  | some a => some (addParts s a t)

/-- The product of a left element and a weight as one term (R89). -/
def productPart (s : SumAt) (l w : Fmt) (x y : Nat × Bool) (k : Nat) : Part :=
  if x.2 || y.2 then { bits := poison32 s.core, poison := true, k := k, occs := [] }
  else
    let wide (f : Fmt) (v : Nat) : Nat := (convElem f .lf32 false false .nearestEven 0 v).bits
    let r := mulElem .lf32 s.rnd 0 s.core (wide l x.1) (wide w y.1)
    { bits := r.bits, poison := false, k := k, occs := occsOf r.flags r.origin.toNat s.row s.col k }

/-- One floating-point step into an entry: terms by place, absent ones none (R93 to R95, R237). -/
def floatStep (s : SumAt) (tile : Bool) (entry : Option Part) (terms : List (Option Part)) : Option Part :=
  if tile then
    let lo := treeSum (addParts s) 5 (terms.take 32)
    let hi := treeSum (addParts s) 5 (terms.drop 32)
    [lo, hi].foldl (fun e t => match t with
      | some t => addTo s e t
      | none => e) entry
  else terms.foldl (fun e t => match t with
    | some t => addTo s e t
    | none => e) entry

/-- The INT32 entry after a step sum is added (R96), and whether INT_SAT is set. -/
def accInt (iov : Bool) (n : Int) : Nat × Bool :=
  let r := clampInt 32 iov n
  (r.bits, decide (r.flags ≠ 0))

/-- The fields of an accumulation control field (R90); a nonzero reserved bit, and a rounding that is not offered in the array
(R91), make none. -/
def accCtl (c : BitVec 16) : Option AccCtl :=
  let c := c.toNat
  if 2 ^ 7 ≤ c ∨ 2 ≤ bits c 6 5 then none
  else some { order := if bitOf c 0 then .tile else .seq, chunk := BitVec.ofNat 2 (bits c 2 1), first := bitOf c 3, iov := bitOf c 4,
              rnd := if bitOf c 5 then .towardZero else .nearestEven }

/-- The integer step of one column: the new entry and its occurrences. -/
def intStep (op : ArrayOp) (ctl : AccCtl) (col : Nat) (old : Nat × Bool) (terms : List ((Nat × Bool) × (Nat × Bool))) :
    Option (Nat × Bool) × List Occ :=
  let p := terms.any (fun t => t.1.2 || t.2.2) || (!ctl.first && old.2)
  if p then (some (2 ^ 31, true), [])
  else
    let sum : Int := (terms.map (fun t => toSigned 8 t.1.1 * toSigned 8 t.2.1)).sum
    let r := accInt ctl.iov (sum + (if ctl.first then 0 else toSigned 32 old.1))
    (some (r.1, false),
     if r.2 then [{ flag := 2, origin := 0, tileRow := op.row.toNat, column := col, k := op.k0.toNat }] else [])

/-- One column of an array step: the entry, or none when it is left as it is, and its occurrences. -/
def arrayColumn (op : ArrayOp) (ctl : AccCtl) (ks core : Nat) (c : Core) (col : Nat) : Option (Nat × Bool) × List Occ :=
  let present (i : Nat) : Bool := decide (op.k0.toNat + i < op.kEnd.toNat)
  let left (i : Nat) : Nat × Bool := c.elemAt op.left (op.addr.toNat + op.left.size * i)
  let weight (i : Nat) : Nat × Bool := c.active.weight op.weight ks i col
  let old := c.entryAt op.row.toNat col
  if op.left = .int8 then
    intStep op ctl col old (((List.range ks).filter present).map (fun i => (left i, weight i)))
  else
    let s : SumAt := { rnd := ctl.rnd, core := core, row := op.row.toNat, col := col }
    let terms := (List.range ks).map (fun i =>
      if present i then some (productPart s op.left op.weight (left i) (weight i) (op.k0.toNat + i)) else none)
    let entry : Option Part := if ctl.first then none else some { bits := old.1, poison := old.2, k := op.k0.toNat, occs := [] }
    match floatStep s (decide (ctl.order = .tile ∧ op.left ≠ .lf32)) entry terms with
    | none => (none, [])
    | some r => (some (r.bits, r.poison), r.occs)

/-- An array step of shape k_s on the core at p (R64). -/
def arrayStepOn (p : Nat) (op : ArrayOp) (ctl : AccCtl) (ks : Nat) (d : Dev) : Dev :=
  let c := d.core p
  let cols := (List.range op.columns.val).map (arrayColumn op ctl ks (d.nanCore p) c)
  let d := modCore p (setEntries op.row.toNat 0 (cols.map (·.1))) d
  recordOccs (d.ownerOf p) p 0 op.instr.toNat (cols.map (·.2)).flatten d

/-- A control field with a reserved encoding completes the job's command with BAD_COMMAND (R5, R90, R113). -/
def badControl (p : Nat) (d : Dev) : Dev :=
  match d.ownerOf p with
  | some (q, i) => stopCmd 0x22 0xFFFFFFFF q i d
  | none => d

/-- An array step: its control field is read, and its left row lies in one line (R61, R64). -/
def arrayStepRuns (p : Nat) (op : ArrayOp) (d : Dev) : Dev :=
  match accCtl op.ctl, stepShape op.left op.weight with
  | none, _ => badControl p d
  | some ctl, some ks =>
    if inLine op.left.size op.addr.toNat (ks * op.left.size) then withLmErrors p op.lmErrors (arrayStepOn p op ctl ks) d else d
  | some _, none => d

/-- ARRAY_STEP (R64, R89 to R96); a format pair that does not enter the array does nothing. -/
def execArrayStep (p : PosId) (op : ArrayOp) (s : State) : Host.Outcome State Fault Refusal :=
  lift (coreRun p.val (arrayStepRuns p.val op)) s

/-- The block at a local address: weights of a poisoned granule are marked. -/
def Core.blockAt (c : Core) (w : Fmt) (ks a : Nat) : WeightBlock :=
  { fmt := w, bytes := c.bytesAt a (blockBytes w),
    poisoned := (List.range (32 * ks)).filter (fun i =>
      look false c.lmPoison ((a + weightAt w ks (i / 32) (i % 32)) / 64)) }

/-- A weight block is staged, a line of local memory a cycle (R65). -/
def weightLoads (p : Nat) (fmt : Fmt) (a : Nat) (errors : LmErrors) (d : Dev) : Dev :=
  match stepShape fmt fmt with
  | none => d
  | some ks =>
    if inLines a (blockBytes fmt) then withLmErrors p errors (modCore p (fun c => { c with staged := c.blockAt fmt ks a })) d else d

/-- WEIGHT_LOAD (R65): the staged block from local memory. -/
def execWeightLoad (p : PosId) (fmt : Fmt) (addr : BlockOp) (s : State) : Host.Outcome State Fault Refusal :=
  lift (coreRun p.val (weightLoads p.val fmt addr.addr.toNat addr.lmErrors)) s

/-- The staged block becomes active; the other block is then the staged one (R65). -/
def weightSwaps (p : Nat) (d : Dev) : Dev := modCore p (fun c => { c with active := c.staged, staged := c.active }) d

/-- WEIGHT_SWAP (R65). -/
def execWeightSwap (p : PosId) (s : State) : Host.Outcome State Fault Refusal := lift (coreRun p.val (weightSwaps p.val)) s

/-! ## Traced LF32 steps -/

/-- A value with the results that forming it gave, so that each one's flags count (R114). -/
abbrev Traced := Nat × List Res

/-- A value formed by nothing. -/
def given (x : Nat) : Traced := (x, [])

/-- A step of one operand. -/
def step1 (f : Nat → Res) (x : Traced) : Traced := ((f x.1).bits, x.2 ++ [f x.1])

/-- A step of two operands. -/
def step2 (f : Nat → Nat → Res) (x y : Traced) : Traced := ((f x.1 y.1).bits, x.2 ++ y.2 ++ [f x.1 y.1])

/-- The occurrences of a traced value. -/
def occsOfTrace (rs : List Res) (row col k : Nat) : List Occ :=
  (rs.map (fun r => occsOf r.flags r.origin.toNat row col k)).flatten

/-! ## Promotion and preload (R70, R97, R103) -/

/-- An entry of a tile row as an addend of an XS total (R43, R97), with its flags. -/
def promoAddend (op : PromoOp) (st : U32) (i : Nat) (v : Nat × Bool) : Xs × BitVec 6 :=
  if v.2 then (xsNan 2, 0)
  else if op.ints then xsAddend false 0 op.rnd 0 .lf32 (intNum (toSigned 32 v.1))
  else xsAddend op.wide op.base.toInt op.rnd (srBits op.tensor (op.index + BitVec.ofNat 48 i) st) .lf32
    (readFloat .lf32 v.1)

/-- INT32 chunk sums go into XS64 totals (R97). -/
def promoWide (op : PromoOp) : Bool := op.wide && !op.ints

/-- An addend with its flags added to a total (R44, R55): the new element and the results that set flags. -/
def addToTotal (wide : Bool) (t a : Xs) (flags : BitVec 6) : Xs × List Res :=
  (xsAdd wide t a, [{ bits := 0, flags := flags, origin := 0 }, xsAddFlag t a])

/-- Entry i promoted: the new element of the total and the results that set flags. -/
def promoteEntry (c : Core) (op : PromoOp) (st : U32) (i : Nat) : (Xs × Bool) × List Res :=
  let v := c.entryAt op.row.toNat i
  let t := c.xsAt (promoWide op) op.values.toNat op.tags.toNat i
  let a := promoAddend op st i v
  let r := addToTotal (promoWide op) t.1 a.1 a.2
  ((r.1, t.2 || v.2), r.2)

/-- A promotion on the core at p. -/
def promoteRow (p : Nat) (op : PromoOp) (d : Dev) : Dev :=
  let c := d.core p
  let es := (List.range op.columns.val).map (promoteEntry c op (d.coreStep p))
  let d := modCore p (fun c => c.setXs (promoWide op) op.values.toNat op.tags.toNat (es.map (·.1))) d
  recordOccs (d.ownerOf p) p 3 op.instr.toNat
    ((es.zip (List.range es.length)).map (fun e => occsOfTrace e.1.2 op.row.toNat e.2 0xFFFFFFFF)).flatten d

/-- Whether the planes of a promotion are whole value lines and a part of one tag line, in different banks (R61, R70). -/
def promoFits (op : PromoOp) : Bool :=
  inLines op.values.toNat (xsSize (promoWide op) * 32) && inLine 1 op.tags.toNat 32 &&
    decide (op.values.toNat / 65536 ≠ op.tags.toNat / 65536)

/-- PROMOTION. -/
def promotes (p : Nat) (op : PromoOp) (d : Dev) : Dev :=
  if promoFits op then withLmErrors p op.lmErrors (promoteRow p op) d else d

/-- PROMOTION (R70, R97, R101, R104). -/
def execPromotion (p : PosId) (op : PromoOp) (s : State) : Host.Outcome State Fault Refusal :=
  lift (coreRun p.val (promotes p.val op)) s

/-- The entry format of a preload. -/
def preloadFmt (op : PreloadOp) : Fmt := if op.ints then .int32 else .lf32

/-- Random bits of value e of a preload (R51). -/
def preloadSr (op : PreloadOp) (st : U32) (e : Nat) : Nat := srBits op.tensor (op.index + BitVec.ofNat 48 e) st

/-- Value e of a preload, at place i of the line at a, converted to the entry's format under R52 with the instruction's
rounding, SAT and IOV (R103): the entry, its poison and the results that set flags. -/
def preloadElem (op : PreloadOp) (core : Nat) (st : U32) (c : Core) (a tags i e : Nat) : (Nat × Bool) × List Res :=
  let t := preloadFmt op
  let v : Res × Bool :=
    if op.fmt.isXs then
      let w := decide (op.fmt = .xs128)
      let x := c.xsAt w a tags i
      (xsOut w op.base.toInt t op.sat op.iov op.rnd (preloadSr op st e) x.1, x.2)
    else
      let x := c.elemAt op.fmt (a + op.fmt.size * i)
      (convElem op.fmt t op.sat op.iov op.rnd (preloadSr op st e) x.1, x.2)
  if v.2 then ((poisonElem t core v.1.bits, true), []) else ((v.1.bits, false), [v.1])

/-- One tile row of a preload (R103): a row per cycle. -/
def preloadRow (p : Nat) (op : PreloadOp) (i : Nat) (d : Dev) : Dev :=
  let row := op.firstRow.toNat + i
  let at_ := if op.residual then 32 * i else 0
  let a := op.src.toNat + op.fmt.size * at_
  let es := (List.range 32).map (fun e => preloadElem op (d.nanCore p) (d.coreStep p) (d.core p) a (op.tags.toNat + at_) e (at_ + e))
  if row < 512 then
    let d := modCore p (setEntries row 0 (es.map (fun e => some e.1))) d
    recordOccs (d.ownerOf p) p 1 op.instr.toNat
      ((es.zip (List.range 32)).map (fun e => occsOfTrace e.1.2 row e.2 0xFFFFFFFF)).flatten d
  else d

/-- Whether each line of a preload is one access, or for XS128 two whole ones, and its conversion is offered (R52, R61). -/
def preloadFits (op : PreloadOp) : Bool :=
  let n := 32 * op.fmt.size
  let lines := if op.residual then op.rows.val else 1
  convOffered op.fmt (preloadFmt op) && inLm op.src.toNat (n * lines) &&
    (if n ≤ 256 then inLine op.fmt.size op.src.toNat n && (decide (lines ≤ 1) || decide (op.src.toNat % n = 0))
     else decide (op.src.toNat % 256 = 0)) && (!op.fmt.isXs || inLm op.tags.toNat (32 * lines))

/-- A preload. -/
def preloads (p : Nat) (op : PreloadOp) (d : Dev) : Dev :=
  if preloadFits op then withLmErrors p op.lmErrors (forEach (preloadRow p op) (List.range op.rows.val)) d else d

/-- PRELOAD (R103, R104). -/
def execPreload (p : PosId) (op : PreloadOp) (s : State) : Host.Outcome State Fault Refusal :=
  lift (coreRun p.val (preloads p.val op)) s

/-! ## Activations (R111, R259) -/

/-- A function of R68 in LF32, nearest-even. -/
def fun32 (fn : VFun) (core x : Nat) : Res := funElem fn .lf32 .nearestEven 0 core x

/-- 1/√2 in LF32. -/
def halfRoot : Nat := 0x3F3504F3
/-- 1.0 in LF32. -/
def one32 : Nat := 0x3F800000
/-- 0.5 in LF32. -/
def half32 : Nat := 0x3F000000
/-- 20.0 in LF32. -/
def twenty32 : Nat := 0x41A00000

/-- The activations of R111 by code; reserved codes leave x. -/
def activation (code core : Nat) (p x : Nat) : Traced :=
  let t := given x
  match code with
  | 1 => given (minMaxElem .lf32 true x 0)
  | 2 => if cmpElem .lf32 .ge x 0 then t else step2 (mul32 core) (given p) t
  | 3 => given (minMaxElem .lf32 false (minMaxElem .lf32 true x 0) p)
  | 4 => step1 (fun32 .logistic core) t
  | 5 => step1 (fun32 .tanh core) t
  | 6 =>
    let v := step1 (add32 core one32) (step1 (fun32 .erf core) (step1 (fun x => mul32 core x halfRoot) t))
    step2 (mul32 core) (step1 (mul32 core half32) t) v
  | 7 => step2 (mul32 core) t (step1 (fun32 .logistic core) t)
  | 8 =>
    if cmpElem .lf32 .gt x twenty32 then t
    else step1 (fun32 .log core) (step1 (add32 core one32) (step1 (fun32 .exp core) t))
  | 9 => step1 (fun32 .exp core) t
  | 10 => step2 (mul32 core) t t
  | 11 => step1 (fun32 .abs core) t
  | _ => t

/-- The NaN that R35 gives for a NaN saved value beside dy. -/
def nanOf32 (a b : Nat) : Traced :=
  given (nanBits .lf32 ((nansOf [readFloat .lf32 a, readFloat .lf32 b]).foldl max 0))

/-- The gradient through an activation (R259): dy and the saved value. -/
def actGradient (code core : Nat) (p dy z : Nat) : Traced :=
  let t := given z
  let times (f : Traced) : Traced := step2 (mul32 core) (given dy) f
  let sel (c : Bool) : Traced := if isNan32 z then nanOf32 z dy else if c then given dy else given 0
  match code with
  | 1 => sel (cmpElem .lf32 .gt z 0)
  | 2 =>
    if isNan32 z then nanOf32 z dy
    else if cmpElem .lf32 .ge z 0 then given dy else times (given p)
  | 3 => sel (cmpElem .lf32 .lt 0 z && cmpElem .lf32 .lt z p)
  | 4 => times (step2 (mul32 core) t (step1 (sub32 core one32) t))
  | 5 => times (step1 (sub32 core one32) (step2 (mul32 core) t t))
  | 6 =>
    let c := step1 (mul32 core half32)
      (step1 (add32 core one32) (step1 (fun32 .erf core) (step1 (fun x => mul32 core x halfRoot) t)))
    let q := step1 (fun x => mul32 core 0xBF000000 x) (step2 (mul32 core) t t)
    let e := step1 (fun x => mul32 core x 0x3ECC422A) (step1 (fun32 .exp core) q)
    times (step2 (add32 core) c (step2 (mul32 core) t e))
  | 7 =>
    let g := step1 (fun32 .logistic core) t
    let u := step1 (add32 core one32) (step2 (mul32 core) t (step1 (sub32 core one32) g))
    times (step2 (mul32 core) (given g.1) u)
  | 8 => if cmpElem .lf32 .gt z twenty32 then given dy else times (step1 (fun32 .logistic core) t)
  | 9 => times t
  | 10 => times (step1 (mul32 core 0x40000000) t)
  | 11 =>
    if isNan32 z then nanOf32 z dy
    else if cmpElem .lf32 .gt z 0 then given dy
    else if cmpElem .lf32 .lt z 0 then given (neg32 dy) else given 0
  | _ => given dy

/-! ## The output stage (R109 to R113) -/

/-- Target format of OUT_FMT; reserved codes have none. -/
def outFmt (c : Nat) : Option Fmt := [some Fmt.lf32, some .lf16, some .lf8r, some .lf8p, some .int8, some .int16, some .int32].getD c none

/-- Whether an output-stage control field holds a reserved encoding (R109, R113). -/
def outControlBad (c : Nat) : Bool :=
  (outFmt (bits c 3 0)).isNone || decide (bits c 7 6 = 3 ∨ 12 ≤ bits c 11 8 ∨ bits c 13 12 = 3 ∨ bits c 31 18 ≠ 0)

/-- The integer path of R112. -/
def integerPath (op : OutOp) : Bool :=
  let c := op.control.toNat
  op.ints && !bitOf c 17 && !bitOf c 14 && !bitOf c 16 && decide (bits c 13 12 = 0 ∧ bits c 11 8 ≤ 1 ∧ 4 ≤ bits c 3 0)

/-- Random bits of column i of an output-stage instruction (R51). -/
def outSr (op : OutOp) (st : U32) (i : Nat) : Nat := srBits op.tensor (op.index + BitVec.ofNat 48 i) st

/-- The last stage: conversion to the target format (R110). -/
def outConvert (op : OutOp) (st : U32) (f : Fmt) (src : Fmt) (i x : Nat) : Res :=
  let c := op.control.toNat
  convElem src f (bitOf c 4) (bitOf c 5) ((Rnd.ofCode (bits c 7 6)).getD .nearestEven) (outSr op st i) x

/-- Stage 1 (R110): the source as LF32 and its poison. -/
def outRead (op : OutOp) (c : Core) (i : Nat) : Traced × Bool :=
  if bitOf op.control.toNat 17 then
    let t := c.xsAt op.wide op.values.toNat op.tags.toNat i
    let r := xsOut op.wide op.base.toInt .lf32 false false .nearestEven 0 t.1
    ((r.bits, [r]), t.2)
  else
    let v := c.entryAt op.row.toNat i
    if op.ints then
      let r := convElem .int32 .lf32 false false .nearestEven 0 v.1
      ((r.bits, [r]), v.2)
    else (given v.1, v.2)

/-- Stage 2 (R110): scale and bias, one fused multiply-add; nothing when both are off. -/
def outScale (op : OutOp) (c : Core) (core i : Nat) (x : Traced × Bool) : Traced × Bool :=
  let k := op.control.toNat
  if !bitOf k 14 && !bitOf k 16 then x
  else
    let scale : Nat × Bool :=
      if !bitOf k 14 then (one32, false)
      else if bitOf k 15 then c.elemAt .lf32 (op.scaleAt.toNat + 4 * i) else (op.scale.toNat, false)
    let bias : Nat × Bool := if bitOf k 16 then c.elemAt .lf32 (op.biasAt.toNat + 4 * i) else (0, false)
    (step1 (fun v => fma32 core scale.1 v bias.1) x.1, x.2 || scale.2 || bias.2)

/-- Stage 3 (R110): a second tensor added or multiplied. -/
def outWise (op : OutOp) (c : Core) (core i : Nat) (x : Traced × Bool) : Traced × Bool :=
  let k := bits op.control.toNat 13 12
  if k = 0 then x
  else
    let f : Fmt := if op.secondLf16 then .lf16 else .lf32
    let e := c.elemAt f (op.second.toNat + f.size * i)
    let v := (convElem f .lf32 false false .nearestEven 0 e.1).bits
    (step1 (fun y => if k = 1 then add32 core y v else mul32 core y v) x.1, x.2 || e.2)

/-- Column i of an output-stage instruction: the element written, its poison and the results that set its flags. -/
def outColumn (op : OutOp) (st : U32) (f : Fmt) (c : Core) (core i : Nat) : (Nat × Bool) × List Res :=
  let k := op.control.toNat
  if integerPath op then
    let v := c.entryAt op.row.toNat i
    let x := if bits k 11 8 = 1 ∧ toSigned 32 v.1 < 0 then 0 else v.1
    let r := outConvert op st f .int32 i x
    if v.2 then ((poisonElem f core r.bits, true), []) else ((r.bits, false), [r])
  else
    let x := outWise op c core i (outScale op c core i (outRead op c i))
    let a := activation (bits k 11 8) core (bits k 63 32) x.1.1
    let r := outConvert op st f .lf32 i a.1
    if x.2 then ((poisonElem f core r.bits, true), []) else ((r.bits, false), x.1.2 ++ a.2 ++ [r])

/-- The output stage on the core at p: finished elements to local memory. -/
def outStageOn (p : Nat) (op : OutOp) (f : Fmt) (d : Dev) : Dev :=
  let c := d.core p
  let row := if bitOf op.control.toNat 17 then 0 else op.row.toNat
  let es := (List.range op.columns.val).map (outColumn op (d.coreStep p) f c (d.nanCore p))
  let d := modCore p (Core.setElems f op.dst.toNat (es.map (·.1))) d
  recordOccs (d.ownerOf p) p 2 op.instr.toNat
    ((es.zip (List.range es.length)).map (fun e => occsOfTrace e.1.2 row e.2 0xFFFFFFFF)).flatten d

/-- Whether an output-stage instruction's lines can each be one access (R61, R109); a line of XS128 totals is two whole ones. -/
def outFits (op : OutOp) (f : Fmt) : Bool :=
  let k := op.control.toNat
  let n := op.columns.val
  let second : Fmt := if op.secondLf16 then .lf16 else .lf32
  inLine f.size op.dst.toNat (f.size * n) &&
    (!bitOf k 17 || (inLine 1 op.tags.toNat n && (if op.wide then inLines op.values.toNat (16 * n) else inLine 8 op.values.toNat (8 * n)))) &&
    (!(bitOf k 14 && bitOf k 15) || inLine 4 op.scaleAt.toNat (4 * n)) && (!bitOf k 16 || inLine 4 op.biasAt.toNat (4 * n)) &&
    (decide (bits k 13 12 = 0) || inLine second.size op.second.toNat (second.size * n))

/-- An output-stage instruction: a reserved encoding in its control field is a bad command (R113). -/
def outStageRuns (p : Nat) (op : OutOp) (d : Dev) : Dev :=
  if outControlBad op.control.toNat then badControl p d
  else match outFmt (bits op.control.toNat 3 0) with
    | none => d
    | some f => if outFits op f then withLmErrors p op.lmErrors (outStageOn p op f) d else d

/-- OUTPUT_STAGE. -/
def execOutputStage (p : PosId) (op : OutOp) (s : State) : Host.Outcome State Fault Refusal :=
  lift (coreRun p.val (outStageRuns p.val op)) s

/-! ## The vector unit (R67, R68, R106) -/

/-- The local address of a source. -/
def srcLocal : VSrc → Nat
  | .lm a => a.toNat
  | .acc _ => 0
  | .scalar a => a.toNat

/-- Lane i of an operand line and its poison; a scalar is every lane's (R260 to R262). -/
def Core.laneAt (c : Core) (f : Fmt) (src : VSrc) (i : Nat) : Nat × Bool :=
  match src with
  | .lm a => c.elemAt f (a.toNat + f.size * i)
  | .acc r => c.entryAt r.toNat i
  | .scalar a => c.elemAt f a.toNat

/-- The operands that an operation reads lane by lane. -/
def vecSrcs (op : VecOp) : List VSrc :=
  match op.op with
  | .add | .sub | .mul | .div | .min | .max | .cmp _ | .mulBackward _ => [op.a, op.b]
  | .fma => [op.a, op.b, op.c]
  | .actBackward code _ _ => if code = 0 then [op.a] else [op.a, op.b]
  | .fn _ => [op.a]
  | .convert _ _ _ _ _ => if op.fmt.isXs then [op.a, op.b] else [op.a]
  | .reduceSum chunked =>
    if op.fmt.isInt ∨ op.index = 0 ∨ (chunked ∧ op.index.toNat % 256 = 0) then [op.a] else [op.a, op.b]
  | .reduceMin | .reduceMax => if op.index = 0 then [op.a] else [op.a, op.b]
  | .row _ => []

/-- The tile row that a source names. -/
def srcRow : VSrc → Option Nat
  | .acc r => some r.toNat
  | _ => none

/-- The tile row that a vector operation uses, or 0 (R119). -/
def vecRow (op : VecOp) : Nat := ((vecSrcs op).filterMap srcRow).headD 0

/-- Lanes that a source offers in a format (R61, R66, R67). -/
def srcLanes (f : Fmt) (src : VSrc) : Nat :=
  match src with
  | .lm _ => 256 / f.size
  | .acc _ => if f = .lf32 ∨ f = .int32 then 32 else 0
  | .scalar _ => 128

/-- Whether a source can be read for n lanes of a format: one access of one line (R29, R61). -/
def srcFits (f : Fmt) (n : Nat) (src : VSrc) : Bool :=
  decide (n ≤ srcLanes f src) && (match src with
    | .lm a => inLine f.size a.toNat (f.size * n)
    | .acc _ => true
    | .scalar a => inLine f.size a.toNat f.size)

/-- The line that a source names, as a number: a line of local memory, or a tile row. -/
def srcLine : VSrc → Nat
  | .acc r => 4096 + r.toNat
  | s => srcLocal s / 256

/-- R67: at most two operand lines, of which at most one is a tile row. -/
def twoLines (srcs : List VSrc) : Bool :=
  decide ((srcs.map srcLine).eraseDups.length ≤ 2 ∧ (srcs.filterMap srcRow).eraseDups.length ≤ 1)

/-- Random bits of lane i (R51). -/
def vecSr (op : VecOp) (st : U32) (i : Nat) : Nat := srBits op.tensor (op.index + BitVec.ofNat 48 i) st

/-- An element operation of two integers, none where it is not an integer operation. -/
def intOp (op : VOp) (x y : Int) : Option Int :=
  match op with
  | .add => some (x + y)
  | .sub => some (x - y)
  | .mul => some (x * y)
  | .fn .abs => some x.natAbs
  | .fn .neg => some (-x)
  | _ => none

/-- An element operation on LF32 or LF16 with the random bits sr, none where it is not one (R68). -/
def floatOp (op : VecOp) (core sr x y z : Nat) : Option Res :=
  let f := op.fmt
  match op.op with
  | .add => some (addElem f op.rnd sr core x y)
  | .sub => some (subElem f op.rnd sr core x y)
  | .mul => some (mulElem f op.rnd sr core x y)
  | .fma => some (fmaElem f op.rnd sr core x y z)
  | .div => some (divElem f op.rnd sr core x y)
  | .fn fn => some (funElem fn f op.rnd sr core x)
  | _ => none

/-- A lane element as LF32, exactly (R46). -/
def wide32 (f : Fmt) (v : Nat) : Nat := (convElem f .lf32 false false .nearestEven 0 v).bits

/-- A gradient formed in LF32 becomes an element of the lane format: the last step of R258. -/
def gradientOut (op : VecOp) (sat : Bool) (sr : Nat) (x : Traced) : Traced :=
  step1 (fun v => convElem .lf32 op.fmt sat false op.rnd sr v) x

/-- The gradient of an activation in one lane (R258, R259). -/
def gradientOp (op : VecOp) (code : Nat) (param : Nat) (sat : Bool) (core sr x y : Nat) : Traced :=
  gradientOut op sat sr (actGradient code core param (wide32 op.fmt x) (wide32 op.fmt y))

/-- A multiplication of R258 in one lane: dz × e, dz × scale or dz × a saved value, to nearest-even. -/
def productOp (op : VecOp) (sat : Bool) (core sr x y : Nat) : Traced :=
  gradientOut op sat sr (step2 (mul32 core) (given (wide32 op.fmt x)) (given (wide32 op.fmt y)))

/-- One lane: the element, its poison and the results that set flags; none where the operation is not offered in the
format. free: the value of an integer result that the format cannot hold (log entry 9). -/
def vecLane (op : VecOp) (st : U32) (c : Core) (core : Nat) (free : U64) (i : Nat) : Option ((Nat × Bool) × List Res) :=
  let f := op.fmt
  let srcs := vecSrcs op
  let at_ (n : Nat) : Nat × Bool := match srcs[n]? with
    | some s => c.laneAt f s i
    | none => (0, false)
  let x := at_ 0
  let y := at_ 1
  let z := at_ 2
  let sr := vecSr op st i
  let sealed (v : Nat) (rs : List Res) : Option ((Nat × Bool) × List Res) :=
    if x.2 || y.2 || z.2 then some ((poisonElem f core v, true), []) else some ((v, false), rs)
  match op.op with
  | .min => sealed (minMaxElem f false x.1 y.1) []
  | .max => sealed (minMaxElem f true x.1 y.1) []
  | .cmp k => sealed ((Config.compareBits (cmpElem f k x.1 y.1) f.width).toNat % 2 ^ f.width) []
  | .actBackward code param sat =>
    if f = .lf32 ∨ f = .lf16 then
      let t := gradientOp op code.toNat param.toNat sat core sr x.1 y.1
      sealed t.1 t.2
    else none
  | .mulBackward sat =>
    if f = .lf32 ∨ f = .lf16 then
      let t := productOp op sat core sr x.1 y.1
      sealed t.1 t.2
    else none
  | o =>
    if f.isInt then (intOp o (toSigned f.width x.1) (toSigned f.width y.1)).bind (fun v => sealed (intElem f v free) [])
    else if f = .lf32 ∨ f = .lf16 then (floatOp op core sr x.1 y.1 z.1).bind (fun r => sealed r.bits [r])
    else none

/-- The occurrences of lanes 0, 1, … of a vector operation. -/
def laneOccs (op : VecOp) (rs : List (List Res)) : List Occ :=
  ((rs.zip (List.range rs.length)).map (fun e => occsOfTrace e.1 (vecRow op) e.2 0xFFFFFFFF)).flatten

/-- Write the lanes of an element operation and record their flags. -/
def vecElements (p : Nat) (op : VecOp) (d : Dev) : Dev :=
  let free := d.free
  let d := if op.fmt.isInt then { d with free := d.free + op.lanes.val } else d
  let c := d.core p
  let es := (List.range op.lanes.val).map (fun i =>
    vecLane op (d.coreStep p) c (d.nanCore p) (Config.freeValue (free + i)) i)
  if es.all (·.isSome) then
    let vs := es.filterMap id
    let d := modCore p (Core.setElems op.fmt op.dst.toNat (vs.map (·.1))) d
    recordOccs (d.ownerOf p) p 1 op.instr.toNat (laneOccs op (vs.map (·.2))) d
  else d

/-- A conversion between plain formats in one lane. -/
def convLane (op : VecOp) (st : U32) (t : Fmt) (sat iov : Bool) (c : Core) (core i : Nat) : (Nat × Bool) × List Res :=
  let x := c.laneAt op.fmt op.a i
  let r := convElem op.fmt t sat iov op.rnd (vecSr op st i) x.1
  if x.2 then ((poisonElem t core r.bits, true), []) else ((r.bits, false), [r])

/-- A conversion out of XS in one lane (R46). -/
def xsOutLane (op : VecOp) (st : U32) (t : Fmt) (sat iov : Bool) (base : U16) (c : Core) (core i : Nat) :
    (Nat × Bool) × List Res :=
  let wide := decide (op.fmt = .xs128)
  let x := c.xsAt wide (srcLocal op.a) (srcLocal op.b) i
  let r := xsOut wide base.toInt t sat iov op.rnd (vecSr op st i) x.1
  if x.2 then ((poisonElem t core r.bits, true), []) else ((r.bits, false), [r])

/-- A conversion into XS in one lane: from a plain format (R43) or from XS (R47). -/
def xsInLane (op : VecOp) (st : U32) (t : Fmt) (base base2 : U16) (c : Core) (i : Nat) : (Xs × Bool) × List Res :=
  let wide := decide (t = .xs128)
  let src : Bool × (Xs × BitVec 6) :=
    if op.fmt.isXs then
      let w := decide (op.fmt = .xs128)
      let x := c.xsAt w (srcLocal op.a) (srcLocal op.b) i
      (x.2, xsToXs w wide base.toInt base2.toInt op.rnd (vecSr op st i) x.1)
    else
      let x := c.laneAt op.fmt op.a i
      (x.2, xsAddend wide base2.toInt op.rnd (vecSr op st i) op.fmt (readElem op.fmt x.1))
  if src.1 then ((xsNan 2, true), []) else ((src.2.1, false), [{ bits := 0, flags := src.2.2, origin := 0 }])

/-- A conversion of the vector unit (R52). -/
def vecConvert (p : Nat) (op : VecOp) (t : Fmt) (sat iov : Bool) (base base2 : U16) (d : Dev) : Dev :=
  let c := d.core p
  let core := d.nanCore p
  let st := d.coreStep p
  let ls := List.range op.lanes.val
  if t.isXs then
    let es := ls.map (xsInLane op st t base base2 c)
    let d := modCore p (Core.setXs (decide (t = .xs128)) op.dst.toNat (srcLocal op.c) (es.map (·.1))) d
    recordOccs (d.ownerOf p) p 1 op.instr.toNat (laneOccs op (es.map (·.2))) d
  else
    let es := ls.map (if op.fmt.isXs then xsOutLane op st t sat iov base c core else convLane op st t sat iov c core)
    let d := modCore p (Core.setElems t op.dst.toNat (es.map (·.1))) d
    recordOccs (d.ownerOf p) p 1 op.instr.toNat (laneOccs op (es.map (·.2))) d

/-! ## Sums along a tensor (R106) -/

/-- Sums of the groups of 64 element positions, for parts from position first on (R106 steps 1 and 2; fuel: the groups). -/
def groupParts (s : SumAt) : Nat → Nat → List Part → List Part
  | 0, _, _ => []
  | n + 1, first, parts =>
    if parts.isEmpty then []
    else
      let here := parts.take (64 - first % 64)
      let places : List (Option Part) := List.replicate (first % 64) none ++ here.map some
      (treeSum (addParts s) 6 places).toList ++ groupParts s n (first + here.length) (parts.drop here.length)

/-- The sum of parts from an element position on, after that of the positions before (R106 step 3). -/
def tensorSum (s : SumAt) (before : Option Part) (first : Nat) (parts : List Part) : Option Part :=
  (groupParts s (parts.length / 64 + 2) first parts).foldl (addTo s) before

/-- A lane widened to LF32 as a part of a reduction (R106). -/
def lanePart (op : VecOp) (c : Core) (core i : Nat) : Part :=
  let x := c.laneAt op.fmt op.a i
  { bits := if x.2 then poison32 core else wide32 op.fmt x.1, poison := x.2, k := op.index.toNat + i, occs := [] }

/-- What earlier lines of the same sum, or chunk of it, gave (R106 steps 3 and 4). -/
def sumBefore (op : VecOp) (c : Core) : Option Part :=
  match (vecSrcs op)[1]? with
  | none => none
  | some b =>
    let x := c.laneAt .lf32 b 0
    some { bits := x.1, poison := x.2, k := op.index.toNat, occs := [] }

/-- A floating-point sum along a tensor (R106). The LF32 sum goes to lane 0 of the destination. A flag of an addition across
lanes has no lane of its own: its COLUMN is 0 (DESIGN CHOICE, log entry 99). -/
def vecSum (p : Nat) (op : VecOp) (d : Dev) : Dev :=
  let c := d.core p
  let s : SumAt := { rnd := op.rnd, core := d.nanCore p, row := vecRow op, col := 0 }
  match tensorSum s (sumBefore op c) op.index.toNat ((List.range op.lanes.val).map (lanePart op c s.core)) with
  | none => d
  | some r =>
    let d := modCore p (Core.setElems .lf32 op.dst.toNat [(r.bits, r.poison)]) d
    recordOccs (d.ownerOf p) p 1 op.instr.toNat r.occs d

/-- An integer sum along a tensor (R106 step 5): one addend per element into the XS64 total with base 0 whose value is at
the destination. -/
def vecIntSum (p : Nat) (op : VecOp) (d : Dev) : Dev :=
  let c := d.core p
  let t := c.xsAt false op.dst.toNat (srcLocal op.c) 0
  let xs := (List.range op.lanes.val).map (c.laneAt op.fmt op.a)
  let add (a : Xs × Bool) (x : Nat × Bool) : Xs × Bool :=
    (xsAdd false a.1 (if x.2 then xsNan 2 else (xsAddend false 0 .towardZero 0 .lf32 (intNum (toSigned op.fmt.width x.1))).1),
     a.2 || x.2)
  modCore p (Core.setXs false op.dst.toNat (srcLocal op.c) [xs.foldl add t]) d

/-- A minimum or maximum along a tensor (R58, R106). A NaN is written as R32 says, also where one lane is the whole tensor. -/
def vecExtreme (p : Nat) (isMax : Bool) (op : VecOp) (d : Dev) : Dev :=
  let c := d.core p
  let xs := (List.range op.lanes.val).map (c.laneAt op.fmt op.a)
  let xs := if op.index = 0 then xs else c.laneAt op.fmt op.b 0 :: xs
  match xs with
  | [] => d
  | x :: _ =>
    let v := xs.foldl (fun a x => minMaxElem op.fmt isMax a x.1) x.1
    let p' := xs.any (·.2)
    modCore p (Core.setElems op.fmt op.dst.toNat [(if p' then poisonElem op.fmt (d.nanCore p) v else v, p')]) d

/-! ## Row programs (R260 to R262) -/

/-- A row of LF32 elements with their poison. -/
abbrev RowVals := List (Nat × Bool)

/-- What the steps of a row program share: rounding, the NaN core field, and the random bits of element i (R51). -/
structure RowAt where
  rnd    : Rnd
  core   : Nat
  tensor : U32
  index  : BitVec 48
  step   : U32

/-- One assignment of a row program for element i, from operands that may be poisoned. -/
def rowStep (s : RowAt) (f : Nat → Nat → Nat → Nat → Res) (i : Nat) (x y z : Nat × Bool) : (Nat × Bool) × List Occ :=
  if x.2 || y.2 || z.2 then ((poison32 s.core, true), [])
  else
    let r := f (srBits s.tensor (s.index + BitVec.ofNat 48 i) s.step) x.1 y.1 z.1
    ((r.bits, false), occsOf r.flags r.origin.toNat 0 (i % 64) 0xFFFFFFFF)

/-- An assignment for every element of a row: its values and the occurrences. -/
def rowMap (s : RowAt) (f : Nat → Nat → Nat → Nat → Res) (x y z : Nat → Nat × Bool) (n : Nat) : RowVals × List Occ :=
  let rs := (List.range n).map (fun i => rowStep s f i (x i) (y i) (z i))
  (rs.map (·.1), (rs.map (·.2)).flatten)

/-- Element i of a row. -/
def RowVals.get (r : RowVals) (i : Nat) : Nat × Bool := r.getD i (0, false)

/-- The sum of a row under R106. -/
def rowSum (s : RowAt) (xs : RowVals) : (Nat × Bool) × List Occ :=
  let parts := (xs.zip (List.range xs.length)).map (fun x =>
    { bits := x.1.1, poison := x.1.2, k := s.index.toNat + x.2, occs := [] : Part })
  match tensorSum { rnd := s.rnd, core := s.core, row := 0, col := 0 } none 0 parts with
  | none => ((0, false), [])
  | some r => ((r.bits, r.poison), r.occs)

/-- The maximum of a row (R58). -/
def rowMax (core : Nat) (xs : RowVals) : Nat × Bool :=
  match xs with
  | [] => (0, false)
  | x :: _ =>
    if xs.any (·.2) then (poison32 core, true) else (xs.foldl (fun a x => minMaxElem .lf32 true a x.1) x.1, false)

/-- LF32 steps of a row program, under its rounding. -/
def rowAdd (s : RowAt) (sr x y _ : Nat) : Res := addElem .lf32 s.rnd sr s.core x y
/-- x − y. -/
def rowSub (s : RowAt) (sr x y _ : Nat) : Res := subElem .lf32 s.rnd sr s.core x y
/-- x × y. -/
def rowMul (s : RowAt) (sr x y _ : Nat) : Res := mulElem .lf32 s.rnd sr s.core x y
/-- x / y. -/
def rowDiv (s : RowAt) (sr x y _ : Nat) : Res := divElem .lf32 s.rnd sr s.core x y
/-- x × y + z, one rounding. -/
def rowFma (s : RowAt) (sr x y z : Nat) : Res := fmaElem .lf32 s.rnd sr s.core x y z
/-- A function of x. -/
def rowFun (fn : VFun) (s : RowAt) (sr x _ _ : Nat) : Res := funElem fn .lf32 s.rnd sr s.core x

/-- The forward softmax (R148, R260): the row written and the occurrences, in the order of the steps. Each step takes the
instruction's rounding field, as R260 says of every assignment (DEDUCED, log entry 100). -/
def softmaxRow (s : RowAt) (x : RowVals) : RowVals × List Occ :=
  let n := x.length
  let m := rowMax s.core x
  let u := rowMap s (rowSub s) x.get (fun _ => m) (fun _ => (0, false)) n
  let e := rowMap s (rowFun .exp s) u.1.get (fun _ => (0, false)) (fun _ => (0, false)) n
  let t := rowSum s e.1
  let y := rowMap s (rowDiv s) e.1.get (fun _ => t.1) (fun _ => (0, false)) n
  (y.1, u.2 ++ e.2 ++ t.2 ++ y.2)

/-- The backward softmax (R260). -/
def softmaxBackRow (s : RowAt) (y dy : RowVals) : RowVals × List Occ :=
  let n := y.length
  let zero : Nat → Nat × Bool := fun _ => (0, false)
  let p := rowMap s (rowMul s) dy.get y.get zero n
  let c := rowSum s p.1
  let t := rowMap s (rowSub s) dy.get (fun _ => c.1) zero n
  let dx := rowMap s (rowMul s) y.get t.1.get zero n
  (dx.1, p.2 ++ c.2 ++ t.2 ++ dx.2)

/-- The forward normalisation (R261): y, xh and r. -/
def normRow (s : RowAt) (mean variance eps : Nat × Bool) (x gamma beta : RowVals) :
    (RowVals × RowVals × (Nat × Bool)) × List Occ :=
  let n := x.length
  let zero : Nat → Nat × Bool := fun _ => (0, false)
  let dv := rowStep s (rowAdd s) 0 variance eps (0, false)
  let sq := rowStep s (rowFun .sqrt s) 0 dv.1 (0, false) (0, false)
  let r := rowStep s (rowDiv s) 0 (one32, false) sq.1 (0, false)
  let c := rowMap s (rowSub s) x.get (fun _ => mean) zero n
  let xh := rowMap s (rowMul s) c.1.get (fun _ => r.1) zero n
  let y := rowMap s (rowFma s) gamma.get xh.1.get beta.get n
  ((y.1, xh.1, r.1), dv.2 ++ sq.2 ++ r.2 ++ c.2 ++ xh.2 ++ y.2)

/-- The backward normalisation (R262). -/
def normBackRow (s : RowAt) (r : Nat × Bool) (dy gamma xh : RowVals) : RowVals × List Occ :=
  let n := dy.length
  let zero : Nat → Nat × Bool := fun _ => (0, false)
  let count : Nat × Bool := ((roundArith .lf32 .nearestEven 0 false n 1 0).bits, false)
  let g := rowMap s (rowMul s) dy.get gamma.get zero n
  let q := rowMap s (rowMul s) g.1.get xh.get zero n
  let a := rowSum s g.1
  let b := rowSum s q.1
  let ab := rowStep s (rowDiv s) 0 a.1 count (0, false)
  let bb := rowStep s (rowDiv s) 0 b.1 count (0, false)
  let t := rowMap s (rowMul s) xh.get (fun _ => bb.1) zero n
  let u := rowMap s (rowSub s) g.1.get (fun _ => ab.1) zero n
  let u2 := rowMap s (rowSub s) u.1.get t.1.get zero n
  let dx := rowMap s (rowMul s) (fun _ => r) u2.1.get zero n
  (dx.1, g.2 ++ q.2 ++ a.2 ++ b.2 ++ ab.2 ++ bb.2 ++ t.2 ++ u.2 ++ u2.2 ++ dx.2)

/-- n LF32 elements at a local address. -/
def Core.rowAt (c : Core) (a n : Nat) : RowVals := (List.range n).map (fun i => c.elemAt .lf32 (a + 4 * i))

/-- Local addresses of the rows and scalars that a row program reads and writes. -/
def rowAddrs (r : RowOp) : List (BitVec 20) × List (BitVec 20) :=
  match r.kind with
  | .softmax => ([r.a, r.out], [])
  | .softmaxBack => ([r.a, r.b, r.out], [])
  | .norm => ([r.a, r.b, r.c, r.out, r.out2], [r.mean, r.variance, r.rOut])
  | .normBack => ([r.a, r.b, r.c, r.out], [r.rOut])

/-- Whether the rows of a row program lie in local memory (R29, R260). -/
def rowFits (r : RowOp) : Bool :=
  decide (0 < r.n) && (rowAddrs r).1.all (fun a => decide (a.toNat % 4 = 0) && inLm a.toNat (4 * r.n)) &&
    (rowAddrs r).2.all (fun a => inLine 4 a.toNat 4)

/-- A row program on the core at p. -/
def vecRowProgram (p : Nat) (op : VecOp) (r : RowOp) (d : Dev) : Dev :=
  let c := d.core p
  let s : RowAt := { rnd := op.rnd, core := d.nanCore p, tensor := op.tensor, index := op.index, step := d.coreStep p }
  let row (a : BitVec 20) : RowVals := c.rowAt a.toNat r.n
  let scalar (a : BitVec 20) : Nat × Bool := c.elemAt .lf32 a.toNat
  let done (f : Core → Core) (occs : List Occ) : Dev := recordOccs (d.ownerOf p) p 1 op.instr.toNat occs (modCore p f d)
  match r.kind with
  | .softmax =>
    let y := softmaxRow s (row r.a)
    done (Core.setElems .lf32 r.out.toNat y.1) y.2
  | .softmaxBack =>
    let y := softmaxBackRow s (row r.a) (row r.b)
    done (Core.setElems .lf32 r.out.toNat y.1) y.2
  | .norm =>
    let y := normRow s (scalar r.mean) (scalar r.variance) (r.eps.toNat, false) (row r.a) (row r.b) (row r.c)
    done (fun c => ((c.setElems .lf32 r.out.toNat y.1.1).setElems .lf32 r.out2.toNat y.1.2.1).setElems .lf32 r.rOut.toNat
      [y.1.2.2]) y.2
  | .normBack =>
    let y := normBackRow s (scalar r.rOut) (row r.a) (row r.b) (row r.c)
    done (Core.setElems .lf32 r.out.toNat y.1) y.2

/-! ## One vector operation -/

/-- Whether a line of XS values and its tags can be accessed: whole lines of values, or a part of one (R61). -/
def xsLineFits (f : Fmt) (values tags n : Nat) : Bool :=
  decide (values % f.size = 0) && (inLine f.size values (f.size * n) || inLines values (f.size * n)) && inLm tags n

/-- Whether a vector operation's lines lie where they can (R29, R61, R67). A chunked sum reaches into one chunk (log entry
99). -/
def vecFits (op : VecOp) : Bool :=
  let n := op.lanes.val
  let line (f : Fmt) : Bool := inLine f.size op.dst.toNat (f.size * n)
  let plain (srcs : List VSrc) : Bool := !op.fmt.isXs && decide (op.fmt.size * n ≤ 256) && srcs.all (srcFits op.fmt n) && twoLines srcs
  match op.op with
  | .convert t _ _ _ _ =>
    convOffered op.fmt t &&
      (if op.fmt.isXs then xsLineFits op.fmt (srcLocal op.a) (srcLocal op.b) n else plain [op.a]) &&
      (if t.isXs then xsLineFits t op.dst.toNat (srcLocal op.c) n else line t)
  | .reduceSum chunked =>
    (op.fmt = .lf32 || op.fmt = .lf16 || op.fmt.isInt) && plain [op.a] && twoLines (vecSrcs op) &&
      (if op.fmt.isInt then xsLineFits .xs64 op.dst.toNat (srcLocal op.c) 1
       else inLine 4 op.dst.toNat 4 && (vecSrcs op).all (fun s => s = op.a || srcFits .lf32 1 s) &&
         (!chunked || decide (op.index.toNat % 256 + n ≤ 256)))
  | .reduceMin | .reduceMax =>
    plain [op.a] && (vecSrcs op).all (fun s => s = op.a || srcFits op.fmt 1 s) && twoLines (vecSrcs op) &&
      inLine op.fmt.size op.dst.toNat op.fmt.size
  | .row r => rowFits r
  | _ => plain (vecSrcs op) && line op.fmt

/-- One vector operation on the core at p. -/
def vecOn (p : Nat) (op : VecOp) (d : Dev) : Dev :=
  match op.op with
  | .convert t sat iov base base2 => vecConvert p op t sat iov base base2 d
  | .reduceSum _ => if op.fmt.isInt then vecIntSum p op d else vecSum p op d
  | .reduceMin => vecExtreme p false op d
  | .reduceMax => vecExtreme p true op d
  | .row r => vecRowProgram p op r d
  | _ => vecElements p op d

/-- A vector operation; one whose lines cannot lie so, or that is not offered, does nothing. -/
def vecRuns (p : Nat) (op : VecOp) (d : Dev) : Dev := if vecFits op then withLmErrors p op.lmErrors (vecOn p op) d else d

/-- VECTOR_OP (R67, R68, R106, R258 to R262). -/
def execVectorOp (p : PosId) (op : VecOp) (s : State) : Host.Outcome State Fault Refusal :=
  lift (coreRun p.val (vecRuns p.val op)) s

/-! ## Moments (R107, R108) -/

/-- The square of a value, exactly. -/
def squareNum : Num → Num
  | .nan p => .nan p
  | .inf _ => .inf false
  | .fin _ n d e => .fin false (n * n) (d * d) (2 * e)

/-- Format of MOMENTS elements. -/
def momFmt (op : MomOp) : Fmt := if op.lf16 then .lf16 else .lf32

/-- One addend of a total, from an element or its square. Under stochastic rounding both totals draw with the instruction's
tensor ID and the element's position (DESIGN CHOICE, log entry 101). -/
def momAdd (op : MomOp) (st : U32) (square : Bool) (c : Core) (acc : (Xs × Bool) × List Occ) (i : Nat) :
    (Xs × Bool) × List Occ :=
  let x := c.elemAt (momFmt op) (op.src.toNat + (momFmt op).size * i)
  let v := readFloat (momFmt op) x.1
  let b := if square then op.base2 else op.base1
  let a := if x.2 then (xsNan 2, 0)
    else xsAddend op.wide b.toInt op.rnd (srBits op.tensor (op.index + BitVec.ofNat 48 i) st) (momFmt op)
      (if square then squareNum v else v)
  let r := addToTotal op.wide acc.1.1 a.1 a.2
  ((r.1, acc.1.2 || x.2), acc.2 ++ occsOfTrace r.2 0 i ((op.index.toNat + i) % 2 ^ 32))

/-- A line of elements into one XS total. -/
def momTotal (op : MomOp) (square : Bool) (p : Nat) (d : Dev) : List Occ × Dev :=
  let c := d.core p
  let (v, t) := if square then (op.t2.toNat, op.t2Tag.toNat) else (op.t1.toNat, op.t1Tag.toNat)
  let r := (List.range op.lanes.val).foldl (momAdd op (d.coreStep p) square c) (c.xsAt op.wide v t 0, [])
  (r.2, modCore p (Core.setXs op.wide v t [r.1]) d)

/-- Whether the operands of MOMENTS lie in local memory, its elements in one line (R29, R61). -/
def momFits (op : MomOp) : Bool :=
  inLine (momFmt op).size op.src.toNat ((momFmt op).size * op.lanes.val) &&
    inLine (xsSize op.wide) op.t1.toNat (xsSize op.wide) && inLine (xsSize op.wide) op.t2.toNat (xsSize op.wide)

/-- MOMENTS on the core at p: T1 takes each element and T2 its square. -/
def momentsOn (p : Nat) (op : MomOp) (d : Dev) : Dev :=
  let (o1, d1) := momTotal op false p d
  let (o2, d2) := momTotal op true p d1
  recordOccs (d2.ownerOf p) p 1 op.instr.toNat (o1 ++ o2) d2

/-- MOMENTS. -/
def momentsRuns (p : Nat) (op : MomOp) (d : Dev) : Dev :=
  if momFits op then withLmErrors p op.lmErrors (momentsOn p op) d else d

/-- MOMENTS (R107). -/
def execMoments (p : PosId) (op : MomOp) (s : State) : Host.Outcome State Fault Refusal :=
  lift (coreRun p.val (momentsRuns p.val op)) s

/-- SUMSQ on the core at p: T2 alone. -/
def sumsqOn (p : Nat) (op : MomOp) (d : Dev) : Dev :=
  let (o, d2) := momTotal op true p d
  recordOccs (d2.ownerOf p) p 1 op.instr.toNat o d2

/-- SUMSQ. -/
def sumsqRuns (p : Nat) (op : MomOp) (d : Dev) : Dev :=
  if momFits op then withLmErrors p op.lmErrors (sumsqOn p op) d else d

/-- SUMSQ (R107). -/
def execSumsq (p : PosId) (op : MomOp) (s : State) : Host.Outcome State Fault Refusal :=
  lift (coreRun p.val (sumsqRuns p.val op)) s

/-- Whether an XS element fails steps 1 to 3 of R46. -/
def xsFails (wide : Bool) (x : Xs) : Bool := decide (tagKind x.tag ≠ 0) || !xsInRange wide (xsInt wide x)

/-- The mean (R108). Its random bits come from the instruction's element index (DESIGN CHOICE, log entry 102). -/
def momMean (op : MomFinOp) (st : U32) (x : Xs) (free : U64) : Res :=
  let n := xsInt op.wide x
  if xsFails op.wide x then xsOut op.wide op.base1.toInt .lf32 false false op.rnd 0 x
  else if op.count = 0 then { bits := free.toNat % 2 ^ 32, flags := xsLowFlag x, origin := 0 }
  else
    let r := roundArith .lf32 op.rnd (srBits op.tensor op.index st) (decide (n < 0)) n.natAbs op.count.toNat op.base1.toInt
    { r with flags := r.flags ||| xsLowFlag x }

/-- The exact numerator of the variance at exponent e: N × n2 × 2^b2 − n1² × 2^(2 × b1). -/
def varTop (op : MomFinOp) (x y : Xs) : Int × Int :=
  let n1 := xsInt op.wide x
  let n2 := xsInt op.wide y
  let b2 := op.base2.toInt
  let b1 := 2 * op.base1.toInt
  let e := min b1 b2
  ((op.count.toNat : Int) * n2 * 2 ^ (b2 - e).toNat - n1 * n1 * 2 ^ (b1 - e).toNat, e)

/-- The variance (R108). Its random bits come from the element index after the mean's (DESIGN CHOICE, log entry 102). -/
def momVar (op : MomFinOp) (st : U32) (x y : Xs) (free : U64) : Res :=
  let den := op.count.toNat * (op.count.toNat - b2n op.sample)
  if xsFails op.wide y then xsOut op.wide op.base2.toInt .lf32 false false op.rnd 0 y
  else if den = 0 then { bits := free.toNat % 2 ^ 32, flags := xsLowFlag y, origin := 0 }
  else
    let v := varTop op x y
    let r := if v.1 < 0 then Res.plain 0
      else roundArith .lf32 op.rnd (srBits op.tensor (op.index + 1) st) false v.1.natAbs den v.2
    { r with flags := r.flags ||| xsLowFlag y }

/-- The MOMENTS finish on the core at p. -/
def momFinishOn (p : Nat) (op : MomFinOp) (d : Dev) : Dev :=
  let (free, d) := drawFree d
  let (free2, d) := drawFree d
  let c := d.core p
  let core := d.nanCore p
  let t1 := c.xsAt op.wide op.t1.toNat op.t1Tag.toNat 0
  let t2 := c.xsAt op.wide op.t2.toNat op.t2Tag.toNat 0
  let m := momMean op (d.coreStep p) t1.1 free
  let v := momVar op (d.coreStep p) t1.1 t2.1 free2
  let pv := t1.2 || t2.2
  let d := modCore p (fun c =>
    (c.setElems .lf32 op.mean.toNat [(if t1.2 then poison32 core else m.bits, t1.2)]).setElems .lf32 op.variance.toNat
      [(if pv then poison32 core else v.bits, pv)]) d
  recordOccs (d.ownerOf p) p 1 op.instr.toNat
    ((if t1.2 then [] else occsOf m.flags m.origin.toNat 0 0 0xFFFFFFFF) ++
      (if pv then [] else occsOf v.flags v.origin.toNat 0 0 0xFFFFFFFF)) d

/-- Whether the operands of the finish can be accessed (R29, R61). -/
def momFinFits (op : MomFinOp) : Bool :=
  inLine (xsSize op.wide) op.t1.toNat (xsSize op.wide) && inLine (xsSize op.wide) op.t2.toNat (xsSize op.wide) &&
    inLine 4 op.mean.toNat 4 && inLine 4 op.variance.toNat 4

/-- The MOMENTS finish. -/
def momFinishRuns (p : Nat) (op : MomFinOp) (d : Dev) : Dev :=
  if momFinFits op then withLmErrors p op.lmErrors (momFinishOn p op) d else d

/-- MOMENTS_FINISH (R108). -/
def execMomentsFinish (p : PosId) (op : MomFinOp) (s : State) : Host.Outcome State Fault Refusal :=
  lift (coreRun p.val (momFinishRuns p.val op)) s

end Sys2Proof.Machine
end

