-- ==== Sys2Proof/Machine/Dense.lean ====
section
/-! DEFINITION. Deferred sums, contributions to owners, weight updates, the stash and the half swaps of dense groups (R237 to R264). -/

namespace Sys2Proof.Machine
open Sys2Proof

/-! ## Deferred items (R244, R245) -/

/-- The deferred-work list of a unit. -/
def Dense.list (x : Dense) (array : Bool) : List DeferItem := if array then x.array else x.vector

/-- The schedule cycle at which a unit would begin its next item: now, or when the item before it ends. -/
def itemStart (j : Job) (x : Dense) (array : Bool) : Nat := max j.cycle (if array then x.arrayBusy else x.vectorBusy)

/-- Whether an item may begin at a cycle (R245): its results are there and it fits in what is left of a gap slot, or the main
schedule has ended and the tail runs. -/
def itemFits (im : LoadImage) (core : Nat) (array : Bool) (at_ : Nat) (i : DeferItem) : Bool :=
  decide (im.scheduleEnd ≤ at_) ||
    (decide (i.ready ≤ at_) && im.gaps.any (fun g =>
      decide (g.core.toNat = core ∧ g.array = array ∧ g.first ≤ at_ ∧ at_ + i.cycles.toNat ≤ g.first + g.cycles)))

/-- The next item of a list on the core at p and the cycle at which it begins, where it is of the given kind and may run. -/
def nextItem (d : Dev) (p : Nat) (array : Bool) (kind : Byte) : Option (DeferItem × Nat) :=
  match d.jobAt (d.logicalOf p) with
  | none => none
  | some j => match d.jobImage j, ((d.core p).dense.list array).head? with
    | some v, some i =>
      let at_ := itemStart j (d.core p).dense array
      if i.kind = kind ∧ itemFits v.image (d.logicalOf p) array at_ i = true then some (i, at_) else none
    | _, _ => none

/-- An item runs: it leaves its list, occupies its unit for its cycles and is counted (R245, R264). -/
def runItem (p : Nat) (array : Bool) (i : DeferItem × Nat) (d : Dev) : Dev :=
  let n := i.2 + i.1.cycles.toNat
  let d := modCore p (fun c => { c with dense :=
    (if array then { c.dense with array := c.dense.array.drop 1, arrayBusy := n }
     else { c.dense with vector := c.dense.vector.drop 1, vectorBusy := n }) }) d
  bump (cCore p 17) i.1.cycles.toNat (bump (cCore p 16) 1 d)

/-- The tensor that takes the sums of a layer and kind on the core at p. -/
def Dev.sumTensor (d : Dev) (p : Nat) (layer : Byte) (kind : Nat) : Option (TowerDecl × StageDecl × TensorDecl) :=
  (d.coreImage (d.logicalOf p)).bind (fun im => Machine.sumTensor im layer kind)

/-- Global record positions of a chunk's first record and of the end of the records that an item sums (R242). -/
def Dev.chunkFirst (d : Dev) (p : Nat) (i : DeferItem) : Nat :=
  match d.coreImage (d.logicalOf p) with
  | some im => i.chunk.toNat * im.chunkRecords
  | none => 0

/-- The total set of an update: in MICRO mode the two sets take turns (R249). -/
def updateSet (micro : Bool) (n : Nat) : Bool := micro && decide (n % 2 = 0)

/-- The number of a micro-batch counted from load. -/
def Stash.microAt (t : Stash) (w : TowerDecl) (m : Nat) : Nat := w.perStep * t.steps + m

/-- The total set that an item's sums belong to. -/
def itemSet (d : Dev) (w : TowerDecl) (i : DeferItem) : Bool :=
  updateSet w.micro ((d.stash w.header.toNat).microAt w i.micro.toNat / max 1 w.u.toNat + 1)

/-- What an item's contribution is a chunk of. -/
def itemKey (i : DeferItem) (second : Bool) : ChunkKey :=
  { kind := i.kind.toNat, layer := i.layer.toNat, kTile := i.kTile.toNat, nTile := i.nTile.toNat, chunk := i.chunk.toNat,
    second := second }

/-- A contribution lands in its owner core (R244). -/
def sendContribution (owner : Nat) (c : Contribution) (d : Dev) : Dev :=
  onCore owner (fun x => { x with dense := { x.dense with arrived := x.dense.arrived ++ [c] } }) d

/-- One XS64 element of a contribution: its place in the planes, its owner's key, its value and its poison. -/
structure SumElem where
  place  : Nat
  key    : Nat
  value  : Xs
  poison : Bool
deriving DecidableEq, Repr

/-- The elements as they arrive (R246): a granule holds 8 values or 64 tags, and its poison bit marks every element that has its
value or tag there. -/
def spreadPoison (es : List SumElem) : List (Nat × Xs × Bool) :=
  let bad := (es.filter (·.poison)).map (fun e => e.place / 64)
  es.map (fun e => (e.key, e.value, bad.contains (e.place / 64)))

/-! ## WGRAD_TILE (R238, R244) -/

/-- The columns of a tile of a tensor that are not masked (R237). -/
def tileColumns (t : TensorDecl) (i : DeferItem) : Nat := min 32 (t.n - 32 * i.nTile.toNat)
/-- The rows of a tile of a tensor that are not masked. -/
def tileRows (t : TensorDecl) (i : DeferItem) : Nat := min 32 (t.k - 32 * i.kTile.toNat)

/-- One array step of a WGRAD_TILE: transposed row r of X over k_s records, against the block b of dZ. -/
def wgradRow (p : Nat) (op : DeferOp) (ctl : AccCtl) (ks first cols b r : Nat) (d : Dev) : Dev :=
  arrayStepOn p
    { left := op.fmt, weight := op.fmt, addr := BitVec.ofNat 20 (op.leftAt.toNat + op.leftStride * r + op.fmt.size * ks * b),
      row := op.row + BitVec.ofNat 9 r, k0 := BitVec.ofNat 32 (first + ks * b), kEnd := BitVec.ofNat 32 (first + op.records),
      columns := Fin.ofNat 33 cols, ctl := op.control, instr := op.instr, lmErrors := [] }
    { ctl with first := decide (b = 0) } ks d

/-- The block b of dZ of a WGRAD_TILE: it becomes the active block, and every row of the tile steps against it. -/
def wgradBlock (p : Nat) (op : DeferOp) (ctl : AccCtl) (ks first rows cols b : Nat) (d : Dev) : Dev :=
  let a := op.rightAt.toNat + blockBytes op.fmt * b
  forEach (fun r d => wgradRow p op ctl ks first cols b r d) (List.range rows)
    (weightSwaps p (modCore p (fun c => { c with staged := c.blockAt op.fmt ks a }) d))

/-- The promotion of row r of a tile into a zeroed XS tile (R70, R97). -/
def wgradPromo (op : DeferOp) (t : TensorDecl) (i : DeferItem) (cols r : Nat) : PromoOp :=
  { row := op.row + BitVec.ofNat 9 r, wide := false, base := t.base, rnd := op.rnd, ints := false, values := 0, tags := 0,
    columns := Fin.ofNat 33 cols, tensor := t.id, index := BitVec.ofNat 48 ((32 * i.kTile.toNat + r) * t.n + 32 * i.nTile.toNat),
    instr := op.instr, lmErrors := [] }

/-- Entry col of row r of a tile as an element of the contribution, with the results that set flags. -/
def wgradElem (p : Nat) (op : DeferOp) (t : TensorDecl) (i : DeferItem) (r : Nat) (d : Dev) (col : Nat) : SumElem × List Res :=
  let q := wgradPromo op t i (tileColumns t i) r
  let v := (d.core p).entryAt q.row.toNat col
  let a := promoAddend q (d.coreStep p) col v
  let x := addToTotal false Xs.zero a.1 a.2
  ({ place := 32 * r + col, key := elemKey t.id (q.index.toNat + col), value := x.1, poison := v.2 }, x.2)

/-- Row r of a tile is promoted; its flags are of one cycle (R120). -/
def wgradPromote (p : Nat) (op : DeferOp) (t : TensorDecl) (i : DeferItem) (acc : List SumElem × Dev) (r : Nat) :
    List SumElem × Dev :=
  let d := acc.2
  let es := (List.range (tileColumns t i)).map (wgradElem p op t i r d)
  let row := (op.row + BitVec.ofNat 9 r).toNat
  (acc.1 ++ es.map (·.1), recordOccs (d.ownerOf p) p 3 op.instr.toNat
    ((es.zip (List.range es.length)).map (fun e => occsOfTrace e.1.2 row e.2 0xFFFFFFFF)).flatten d)

/-- Whether the operands of a WGRAD_TILE can be accessed (R29, R61): its rows a part of a line each, its blocks whole lines. Its
formats are those of a gradient product. -/
def wgradFits (op : DeferOp) (ks : Nat) : Bool :=
  let blocks := List.range (ceilDiv op.records ks)
  decide (op.fmt ≠ .int8) &&
    (List.range 32).all (fun r => blocks.all (fun b =>
      inLine op.fmt.size (op.leftAt.toNat + op.leftStride * r + op.fmt.size * ks * b) (ks * op.fmt.size))) &&
    inLines op.rightAt.toNat (blockBytes op.fmt * blocks.length)

/-- A WGRAD_TILE on the core at p: a tile of dW over one chunk, in reserved tile rows, promoted and sent to its owner. -/
def wgradItem (p : Nat) (op : DeferOp) (ctl : AccCtl) (ks : Nat) (i : DeferItem × Nat) (w : TowerDecl) (t : TensorDecl) (d : Dev) :
    Dev :=
  let first := d.chunkFirst p i.1
  let second := itemSet d w i.1
  let d := forEach (fun b d => wgradBlock p op ctl ks first (tileRows t i.1) (tileColumns t i.1) b d)
    (List.range (ceilDiv op.records ks)) (runItem p true i d)
  let (es, d) := (List.range (tileRows t i.1)).foldl (wgradPromote p op t i.1) ([], d)
  sendContribution i.1.owner.toNat
    { chunk := itemKey i.1 second, sender := d.logicalOf p, values := spreadPoison es } d

/-- A WGRAD_TILE: the item at the head of the array list, where it may run. -/
def wgradOn (p : Nat) (op : DeferOp) (d : Dev) : Dev :=
  match nextItem d p true 1, accCtl op.control, stepShape op.fmt op.fmt with
  | some i, some ctl, some ks => match d.sumTensor p i.1.layer 1 with
    | some (w, _, t) => if wgradFits op ks then withLmErrors p op.lmErrors (wgradItem p op ctl ks i w t) d else d
    | none => d
  | some _, none, _ => badControl p d
  | _, _, _ => d

/-- WGRAD_TILE (R244). -/
def execWgradTile (p : PosId) (op : DeferOp) (s : State) : Host.Outcome State Fault Refusal :=
  lift (coreRun p.val (wgradOn p.val op)) s

/-! ## Vector items (R242, R244, R258, R262) -/

/-- The value of column col of record r of a chunk: the left line's, or its product with the right line's, rounded to LF32 under
the rounding given (R258, R262). -/
def columnPart (op : DeferOp) (c : Core) (s : SumAt) (product : Option Rnd) (first r : Nat) : Part :=
  let x := c.elemAt .lf32 (op.leftAt.toNat + op.leftStride * r + 4 * s.col)
  match product with
  | some rnd => productPart { s with rnd := rnd } .lf32 .lf32 x (c.elemAt .lf32 (op.rightAt.toNat + op.rightStride * r + 4 * s.col)) (first + r)
  | none => { bits := if x.2 then poison32 s.core else x.1, poison := x.2, k := first + r, occs := [] }

/-- One column of a vector item: its sum in the order of R106, with record positions for element positions, promoted into a zeroed
XS64 total; with the results and the occurrences that set flags. -/
def columnSum (p : Nat) (op : DeferOp) (t : TensorDecl) (product : Option Rnd) (i : DeferItem) (d : Dev) (col : Nat) :
    Option (SumElem × List Occ) :=
  let s : SumAt := { rnd := op.rnd, core := d.nanCore p, row := 0, col := col }
  let first := d.chunkFirst p i
  match tensorSum s none first ((List.range op.records).map (columnPart op (d.core p) s product first)) with
  | none => none
  | some v =>
    let e := 32 * i.nTile.toNat + col
    let a : Xs × BitVec 6 := if v.poison then (xsNan 2, 0)
      else xsAddend false t.base.toInt op.rnd (srBits t.id (BitVec.ofNat 48 e) (d.coreStep p)) .lf32 (readFloat .lf32 v.bits)
    let x := addToTotal false Xs.zero a.1 a.2
    some ({ place := col, key := elemKey t.id e, value := x.1, poison := v.poison }, v.occs ++ occsOfTrace x.2 0 col 0xFFFFFFFF)

/-- The sums of a vector item into one tensor. -/
def columnSums (p : Nat) (op : DeferOp) (t : TensorDecl) (product : Option Rnd) (i : DeferItem) (d : Dev) : List (SumElem × List Occ) :=
  (List.range (tileColumns t i)).filterMap (columnSum p op t product i d)

/-- Whether the lines of a vector item can be accessed, each a part of a line (R29, R61). -/
def columnFits (op : DeferOp) (products : Bool) : Bool :=
  (List.range op.records).all (fun r => inLine 4 (op.leftAt.toNat + op.leftStride * r) 128 &&
    (!products || inLine 4 (op.rightAt.toNat + op.rightStride * r) 128))

/-- A vector item on the core at p: 32 columns summed over a chunk, for each tensor it reaches, and sent to its owner. The capture
record takes its occurrences as those of one cycle (DESIGN CHOICE, log entry 115). -/
def vectorItem (p : Nat) (op : DeferOp) (sums : List (TensorDecl × Option Rnd)) (i : DeferItem × Nat) (w : TowerDecl) (d : Dev) : Dev :=
  let es := sums.map (fun t => columnSums p op t.1 t.2 i.1 d)
  let second := itemSet d w i.1
  let d := runItem p false i d
  let d := recordOccs (d.ownerOf p) p 1 op.instr.toNat ((es.flatten).map (·.2)).flatten d
  sendContribution i.1.owner.toNat
    { chunk := itemKey i.1 second, sender := d.logicalOf p,
      values := (es.map (fun l => spreadPoison (l.map (·.1)))).flatten } d

/-- A vector item: that at the head of the vector list, where it is of the kind and may run. sums: the kinds of tensor that it
reaches, each with the rounding of its products. -/
def vectorOn (p : Nat) (kind : Byte) (op : DeferOp) (sums : List (Nat × Option Rnd)) (d : Dev) : Dev :=
  match nextItem d p false kind with
  | none => d
  | some i =>
    let ts := sums.filterMap (fun k => (d.sumTensor p i.1.layer k.1).map (fun t => (t.1, t.2.2, k.2)))
    match ts with
    | [] => d
    | t :: _ =>
      if columnFits op (sums.any (fun k => k.2.isSome)) then
        withLmErrors p op.lmErrors (vectorItem p op (ts.map (fun t => (t.2.1, t.2.2))) i t.1) d
      else d

/-- BIAS_SUM (R244, R258): dZ. -/
def execBiasSum (p : PosId) (op : DeferOp) (s : State) : Host.Outcome State Fault Refusal :=
  lift (coreRun p.val (vectorOn p.val 2 op [(2, none)])) s

/-- SCALE_SUM (R244, R258): dZ × the saved stage-1 value, to nearest-even. -/
def execScaleSum (p : PosId) (op : DeferOp) (s : State) : Host.Outcome State Fault Refusal :=
  lift (coreRun p.val (vectorOn p.val 3 op [(3, some .nearestEven)])) s

/-- NORM_SUM (R244, R262): dgamma sums dy × xh and dbeta sums dy. -/
def execNormSum (p : PosId) (op : DeferOp) (s : State) : Host.Outcome State Fault Refusal :=
  lift (coreRun p.val (vectorOn p.val 4 op [(4, some op.rnd), (5, none)])) s

/-! ## ADD (R246) -/

/-- An addend to one of an owned element's totals. -/
def addTotal (second : Bool) (v : Xs × Bool) (e : OwnedElem) : OwnedElem :=
  if second then { e with total1 := xsAdd false e.total1 v.1, poison1 := e.poison1 || v.2 }
  else { e with total0 := xsAdd false e.total0 v.1, poison0 := e.poison0 || v.2 }

/-- The flag that an addend raises in an owned element's total (R44, R55). -/
def addTotalFlag (second : Bool) (v : Xs × Bool) (e : OwnedElem) : Res := xsAddFlag (if second then e.total1 else e.total0) v.1

/-- A contribution added to an owner's totals. -/
def addContribution (c : Contribution) (x : Dense) : Dense :=
  { x with
    owned := c.values.foldl (fun m v => upd OwnedElem.reset m v.1 (addTotal c.chunk.second v.2)) x.owned,
    received := x.received ++ [c.chunk] }

/-- The flags of a contribution's additions, by place. -/
def contributionOccs (c : Contribution) (x : Dense) : List Occ :=
  ((c.values.zip (List.range c.values.length)).map (fun v =>
    occsOfTrace [addTotalFlag c.chunk.second v.1.2 (look OwnedElem.reset x.owned v.1.1)] 0 (v.2 % 32) 0xFFFFFFFF)).flatten

/-- The contribution that an ADD takes: the first that has arrived from its contributor for its layer and column tile, with all
its lines. -/
def Dense.taken (x : Dense) (i : DeferItem) : Option Contribution :=
  x.arrived.find? (fun c => decide (c.sender = i.chunk.toNat % 2048 ∧ c.chunk.layer = i.layer.toNat ∧ c.chunk.nTile = i.nTile.toNat))

/-- An ADD on the owner at p: it waits for its contribution; one whose bit is set is discarded. -/
def addOn (p : Nat) (d : Dev) : Dev :=
  match nextItem d p false 5 with
  | none => d
  | some i =>
    match (d.core p).dense.taken i.1 with
    | none => d
    | some c =>
      let d := modCore p (fun x => { x with dense := { x.dense with arrived := x.dense.arrived.erase c } }) (runItem p false i d)
      if (d.core p).dense.received.contains c.chunk then bump (cCore p 18) 1 d
      else
        recordOccs (d.ownerOf p) p 1 0xFFFFFFFF (contributionOccs c (d.core p).dense)
          (modCore p (fun x => { x with dense := addContribution c x.dense }) d)

/-- ADD (R244, R246). -/
def execAdd (p : PosId) (s : State) : Host.Outcome State Fault Refusal := lift (coreRun p.val (addOn p.val)) s

/-! ## Weight updates (R230, R248) -/

/-- What an update of a tensor takes: LR and GRAD_SCALE from the constant buffer, their poison, its total set, and its number. -/
structure UpdateAt where
  lr     : Nat
  scale  : Nat
  poison : Bool
  second : Bool
  number : U32

/-- What an update of a tensor takes on the core at p. -/
def Dev.updateAt (d : Dev) (p : Nat) (w : TowerDecl) (t : TensorDecl) (n : U32) : UpdateAt :=
  let at_ := match d.coreImage (d.logicalOf p) with
    | some im => im.constAt.toNat
    | none => 0
  let lr := (d.core p).elemAt .lf32 (at_ + t.lrAt.toNat)
  let sc := (d.core p).elemAt .lf32 (at_ + t.scaleAt.toNat)
  { lr := lr.1, scale := sc.1, poison := lr.2 || sc.2, second := updateSet w.micro n.toNat, number := n }

/-- The optimizer on one element (R230): master and state after the gradient g, each with what forming it set. -/
def optElem (t : TensorDecl) (lr core : Nat) (g : Traced) (w st : Nat) : Traced × Traced :=
  let down (x : Traced) : Traced := step1 (fun x => sub32 core w x) x
  if t.opt = 1 then (down (step1 (mul32 core lr) g), given st)
  else if t.opt = 2 then
    let v := step2 (add32 core) (given (mul32 core t.mu.toNat st).bits) g
    let v : Traced := (v.1, mul32 core t.mu.toNat st :: v.2)
    (down (step1 (mul32 core lr) (given v.1)), v)
  else
    let a := step1 (add32 core st) (step1 (fun g => mul32 core g g) g)
    let dn := step1 (fun r => add32 core r t.eps.toNat) (step1 (sqrt32 core) (given a.1))
    (down (step2 (div32 core) (step1 (mul32 core lr) (given g.1)) dn), a)

/-- An owned element's total of a set with those of the owners in other modules (R247), and its poison. -/
def updateTotal (x : OwnedElem) (second : Bool) (e : Nat) (others : List (Nat × BitVec 128 × Byte × Bool)) : Xs × Bool :=
  (others.filter (fun o => o.1 = e)).foldl
    (fun t o => (xsAdd false t.1 { reg := o.2.1, tag := o.2.2.1 }, t.2 || o.2.2.2))
    (if second then (x.total1, x.poison1) else (x.total0, x.poison0))

/-- What an update makes of one element: the element, the results that set flags, and the case that skips it: 20 for its
tag or range, 21 for poison. -/
def updateElem (t : TensorDecl) (u : UpdateAt) (others : List (Nat × BitVec 128 × Byte × Bool)) (core e : Nat) (x : OwnedElem) :
    OwnedElem × List Res × Option Nat :=
  let (v, poison) := updateTotal x u.second e others
  let cleared : OwnedElem :=
    if u.second then { x with total1 := Xs.zero, poison1 := false, done := u.number }
    else { x with total0 := Xs.zero, poison0 := false, done := u.number }
  let r := xsOut false t.base.toInt .lf32 false false .nearestEven 0 v
  if poison || u.poison then (cleared, [], some 21)
  else if tagKind v.tag ≠ 0 then
    (cleared, [{ bits := 0, flags := fInvalid ||| xsLowFlag v, origin := BitVec.ofNat 6 (8 * tagClass v.tag) }], some 20)
  else if !xsInRange false (xsInt false v) then (cleared, [r], some 20)
  else
    let g := step1 (fun g => mul32 core g u.scale) (given r.bits)
    let (w, st) := optElem t u.lr core g x.master.toNat x.state.toNat
    let out := convElem .lf32 t.fmt t.sat false t.rnd (srBits t.id (BitVec.ofNat 48 e) u.number) w.1
    ({ cleared with master := BitVec.ofNat 32 w.1, state := BitVec.ofNat 32 st.1, working := BitVec.ofNat 32 out.bits },
     r :: st.2 ++ w.2 ++ [out], none)

/-- Write an element's working value into a stash slot, in both layouts, on every core that holds a part with the element
(R239, R248). -/
def writeWorking (s : StageDecl) (t : TensorDecl) (slot e : Nat) (v : U32) (d : Dev) : Dev :=
  let g := (stageRing s).length
  let one (back : Bool) (d : Dev) : Dev :=
    forEach (fun (c : Nat × Nat) d => match shardPlace t back g c.2 (e / t.n) (e % t.n) with
      | some o => onCore c.1 (fun x => x.write (((stashSlotsOf t back).getD slot 0).toNat + o) (leBytes t.fmt.size v.toNat) false) d
      | none => d) ((stageRing s).zip (List.range g)) d
  one true (one false d)

/-- Update one element of the owner at p, in lane n mod 64 of the vector unit, and write it into a stash slot. -/
def updateOne (p : Nat) (op : UpdateOp) (s : StageDecl) (t : TensorDecl) (u : UpdateAt) (slot n e : Nat) (d : Dev) : Dev :=
  let key := elemKey t.id e
  let x := look OwnedElem.reset (d.core p).dense.owned key
  if op.update.toNat ≠ x.done.toNat + 1 then d
  else
    let r := updateElem t u op.others (d.nanCore p) e x
    let d := modCore p (fun c => { c with dense := { c.dense with owned := put OwnedElem.reset c.dense.owned key r.1 } }) d
    let d := writeWorking s t slot e r.1.working d
    let d := recordOccs (d.ownerOf p) p 1 op.instr.toNat (occsOfTrace r.2.1 0 (n % 64) 0xFFFFFFFF) d
    match r.2.2 with
    | none => d
    | some k =>
      let d := bump (cCore p k) 1 d
      match if k = 21 then d.ownerOf p else none with
      | some (q, i) => addFact q i 0x02 0 d
      | none => d

/-- The elements of a tensor that the core at p owns. -/
def Dev.ownedOf (d : Dev) (p : Nat) (tensor : U32) : List Nat :=
  ((d.core p).dense.owned.filter (fun o => o.1 / 2 ^ 48 = tensor.toNat)).map (fun o => o.1 % 2 ^ 48)

/-- Every owned element of a tower has taken update n. -/
def Dev.allUpdated (d : Dev) (w : TowerDecl) (n : U32) : Bool :=
  let ids := ((w.stages.map (·.tensors)).flatten).map (fun t => t.id.toNat)
  (towerCores w).all (fun c => match d.placeOf c with
    | some p => (d.core p).dense.owned.all (fun o => !ids.contains (o.1 / 2 ^ 48) || decide (n.toNat ≤ o.2.done.toNat))
    | none => true)

/-- The update has taken effect: a KILL that came meanwhile takes effect now (R255). -/
def endUpdate (q : Nat) (i : U32) (d : Dev) : Dev :=
  let d := modCmd q i (fun c => { c with committed := false }) d
  match d.job q i with
  | some j => if j.killed then stopCmd 0x10 0 q i d else d
  | none => d

/-- A version that every owner has written takes effect at a half swap of its group (R252): it is the newest, and an older one that
no micro-batch names is no longer live (R251). -/
def publishVersion (a : Nat) (n : U32) (d : Dev) : Dev :=
  writeStash a (modStash a (fun t =>
    let slots := t.slots.map (fun x => if x.version = n ∧ x.state = 3 then { x with state := 1 } else x)
    Stash.judge { t with newest := n, updates := t.updates + 1, ripe := none, slots := slots }) d)

/-- A half swap of the group of a job's cores: versions that wait for it take effect (R252). -/
def halfSwap (j : Job) (im : LoadImage) (core : Nat) (d : Dev) : Dev :=
  forEach (fun (w : TowerDecl) d =>
    match if (towerCores w).contains core then (d.stash w.header.toNat).ripe else none with
    | some n => endUpdate j.queue j.index (publishVersion w.header.toNat n d)
    | none => d) im.towers d

/-- The slot in which a version may be written: that which is being written, or a free one taken for it; without one the update of
the owner at p waits (R251). -/
def takeStash (a p : Nat) (n : U32) (d : Dev) : Option Nat × Dev :=
  let t := d.stash a
  let mine (x : StashSlot) : Bool := decide (x.version = n ∧ x.state = 3)
  if t.slots.any mine then (some (t.slots.findIdx mine), d)
  else if t.waiting = 0 ∧ t.slots.any (fun x => decide (x.state = 0)) = true then
    (some (t.slots.findIdx (fun x => decide (x.state = 0))), modStash a (fun t => { t with
      slots := updateFirst (fun x => decide (x.state = 0)) (fun x => { x with version := n, state := 3 }) t.slots }) d)
  else if (t.waiting ≠ 0 ∧ t.waiting ≠ n) ∨ t.stalled.any (fun x => x.1 = p) = true then (none, d)
  else (none, writeStash a (modStash a (fun t => { t with waiting := n, stalled := t.stalled ++ [(p, d.time.ft)] }) d))

/-- The kind of deferred sum that a tensor's gradients come from (R244). -/
def sumKind (t : TensorDecl) : Nat := if t.kind.val = 5 then 4 else t.kind.val

/-- The totals of the owned elements of a tensor go to the other modules of the job's group: tensor, then element, register and tag,
those with a poison mark apart (R247; log entry 117). -/
def sendTotals (g p : Nat) (t : TensorDecl) (second : Bool) (d : Dev) : Dev :=
  let own := d.fabric.cfg.moduleId.toNat
  let others := (((d.memberBox g).map Box.members).getD []).filter (fun m => m ≠ own)
  if others.isEmpty then d
  else
    let seq := (d.group g).seq + 1
    let d := modGroup g (fun u => { u with seq := seq }) d
    let total (e : Nat) : Nat × Xs × Bool :=
      let x := look OwnedElem.reset (d.core p).dense.owned (elemKey t.id e)
      (e, if second then (x.total1, x.poison1) else (x.total0, x.poison0))
    let send (poison : Bool) (d : Dev) : Dev :=
      let es := ((d.ownedOf p t.id).map total).filter (fun e => e.2.2 == poison)
      forEach (fun n d =>
        let b := leBytes 4 t.id.toNat ++ (((es.drop (12 * n)).take 12).map (fun e =>
          leBytes 6 e.1 ++ leBytes 8 e.2.1.reg.toNat ++ [e.2.1.tag])).flatten
        forEach (fun m d => sendFlit m 8 false (if poison then 2 ^ 15 - 1 else 0) (g + 2 ^ 12 * n) (b ++ collTrailer 0 seq 0 0 4) g d) others d)
        (List.range (ceilDiv es.length 12)) d
    send true (send false d)

/-- An owner's update of the elements that it owns of a tensor: every element, both layouts, and the received bits of the set. -/
def updateAll (p : Nat) (op : UpdateOp) (w : TowerDecl) (s : StageDecl) (t : TensorDecl) (slot : Nat) (d : Dev) : Dev :=
  let u := d.updateAt p w t op.update
  let es := d.ownedOf p t.id
  let d := match (d.coreImage (d.logicalOf p)).bind (·.group) with
    | some g => sendTotals g.toNat p t u.second d
    | none => d
  let d := forEach (fun (x : Nat × Nat) d => updateOne p op s t u slot x.2 x.1 d) (es.zip (List.range es.length)) d
  modCore p (fun c => { c with dense := { c.dense with received := c.dense.received.filter (fun k =>
    !decide (k.second = u.second ∧ k.layer = t.layer.toNat ∧ k.kind = sumKind t)) } }) d

/-- The micro-batches, counted from load, whose contributions are all in the owners' totals (R249). -/
def Dev.microsDone (d : Dev) (j : Job) (w : TowerDecl) : Nat :=
  let ms := (j.cores.map (fun c => match d.placeOf c with
    | some p => ((d.core p).dense.array ++ (d.core p).dense.vector).map (·.micro.toNat)
    | none => [])).flatten
  (d.stash w.header.toNat).microAt w (if j.stepClosed then 0 else ms.foldl min w.perStep)

/-- Whether update n is due (R247 to R249): in STEP mode when step n has ended, in MICRO mode when its U micro-batches are in. -/
def Dev.updateDue (d : Dev) (j : Job) (w : TowerDecl) (n : Nat) : Bool :=
  if w.micro then decide (0 < n ∧ n * w.u.toNat ≤ d.microsDone j w)
  else decide (n = (d.stash w.header.toNat).steps) && j.stepClosed && d.listsEmpty j

/-- WEIGHT_UPDATE on the owner at p: it begins the version's slot, and the last owner leaves the version ripe. -/
def updateOn (p : Nat) (op : UpdateOp) (d : Dev) : Dev :=
  match d.jobAt (d.logicalOf p) with
  | none => d
  | some j => match (d.jobImage j).bind (fun v => imageTensor v.image op.tensor) with
    | none => d
    | some (w, s, t) =>
      let a := w.header.toNat
      if d.updateDue j w op.update.toNat = false ∨ op.update ≠ (d.stash a).newest + 1 then d
      else
        let (slot, d) := takeStash a p op.update d
        match slot with
        | none => d
        | some k =>
          let d := modCmd j.queue j.index (fun c => { c with committed := true }) (updateAll p op w s t k d)
          if d.allUpdated w op.update then modStash a (fun t => { t with ripe := some op.update }) d else d

/-- WEIGHT_UPDATE (R248). -/
def execWeightUpdate (p : PosId) (op : UpdateOp) (s : State) : Host.Outcome State Fault Refusal :=
  lift (coreRun p.val (updateOn p.val op)) s

/-! ## Micro-batches and their headers (R249, R250) -/

/-- The version of micro-batch μ's forward (R249). -/
def towerVersion (w : TowerDecl) (micro : Nat) : Nat :=
  if w.micro then micro / max 1 w.u.toNat - w.lag.toNat else micro / max 1 w.perStep

/-- The header of a micro-batch (R250): MICRO, TAG and 4 reserved bytes. -/
def microHeader (micro : U64) (tag : Nat) : List Byte := leBytes 8 micro.toNat ++ leBytes 4 tag ++ zeros 4

/-- MICRO and TAG of the header at a local address. -/
def Core.headerAt (c : Core) (a : Nat) : U64 × U32 :=
  (BitVec.ofNat 64 (leNat (c.bytesAt a 8)), BitVec.ofNat 32 (leNat (c.bytesAt (a + 8) 4)))

/-- The stash slot that holds a version in force. -/
def Stash.slotOf (t : Stash) (v : U32) : Option Nat :=
  let here (x : StashSlot) : Bool := decide (x.version = v ∧ (x.state = 1 ∨ x.state = 2))
  if t.slots.any here then some (t.slots.findIdx here) else none

/-- The forward pass of a micro-batch begins on the core at p: its header stands at the start of the activation half, and it is in
flight under its version on every core of the tower. -/
def startMicro (p a : Nat) (w : TowerDecl) (micro : U64) (at_ : Nat) (d : Dev) : Dev :=
  let v := BitVec.ofNat 32 (towerVersion w micro.toNat)
  let d := modCore p (fun c => c.write at_ (microHeader micro v.toNat) false) d
  if (d.stash a).flight.any (fun f => f.1 = micro) then d
  else modStash a (fun t => { t with flight := t.flight ++ [(micro, v, towerCores w)] }) d

/-- The micro-batch with the header has finished its backward pass on a core (R251): a version that no other names is no longer
live. -/
def finishMicro (p a core at_ : Nat) (d : Dev) : Dev :=
  let m := ((d.core p).headerAt at_).1
  let flight := ((d.stash a).flight.map (fun f => if f.1 = m then (f.1, f.2.1, f.2.2.filter (fun c => c ≠ core)) else f)).filter
    (fun f => !f.2.2.isEmpty)
  let t : Stash := { d.stash a with flight := flight }
  let d' := modStash a (fun _ => t.judge) d
  if t.judge.slots = t.slots then d' else writeStash a d'

/-! ## Rotation of shards (R168, R239, R240) -/

/-- The rotation of a tensor's layout on a core. -/
def Dense.rotation (x : Dense) (tensor : U32) (back : Bool) : Option Rotation :=
  x.rotations.find? (fun r => decide (r.tensor = tensor ∧ r.backward = back))

/-- Change the rotation of a tensor's layout on the core at p. -/
def modRotation (p : Nat) (tensor : U32) (back : Bool) (f : Rotation → Rotation) (d : Dev) : Dev :=
  modCore p (fun c => { c with dense := { c.dense with
    rotations := updateFirst (fun r => decide (r.tensor = tensor ∧ r.backward = back)) f c.dense.rotations } }) d

/-- The position of the core at ring position j of a stage. -/
def stagePlace (d : Dev) (s : StageDecl) (j : Nat) : Option Nat := ((stageRing s)[j % (stageRing s).length]?).bind d.placeOf

/-- Whether two neighbours of a ring are in the same step of one product. -/
def sameStep (x y : Rotation) : Bool := decide (x.version = y.version ∧ x.step = y.step)

/-- The shard in use at ring position j is forwarded to the successor (R72, R240): it arrives in the successor's other half in the
step that both are in. -/
def forwardShard (s : StageDecl) (t : TensorDecl) (back : Bool) (j : Nat) (d : Dev) : Dev :=
  let g := (stageRing s).length
  match stagePlace d s j, stagePlace d s (j + 1) with
  | some a, some b => match (d.core a).dense.rotation t.id back, (d.core b).dense.rotation t.id back with
    | some x, some y =>
      if sameStep x y = false ∨ y.arrived.isSome = true ∨ g ≤ x.step + 1 then d
      else
        let data := (d.core a).marked (halfOf t back x.halfB) (shardBytes t back g x.held)
        modRotation b t.id back (fun r => { r with arrived := some x.held }) (modCore b (fun c => c.land (halfOf t back !y.halfB) data) d)
    | _, _ => d
  | _, _ => d

/-- Ring position of a core in a stage. -/
def ringPlace (s : StageDecl) (core : Nat) : Nat := (stageRing s).findIdx (fun c => c = core)

/-- A product begins on the core at p under the version of a stash slot: its home shard becomes the half in use. A replicated tensor
is read in the slot itself. -/
def beginProduct (p core slot : Nat) (v : U32) (s : StageDecl) (t : TensorDecl) (back : Bool) (d : Dev) : Dev :=
  if !t.sharded then d
  else
    let g := (stageRing s).length
    let j := ringPlace s core
    let data := (d.core p).marked ((stashSlotsOf t back).getD slot 0).toNat (shardBytes t back g j)
    let r : Rotation := { tensor := t.id, backward := back, halfB := false, held := j, arrived := none, step := 0, version := v }
    let d := modCore p (fun c => { c.land (halfOf t back false) data with dense := { c.dense with
      rotations := c.dense.rotations.filter (fun x => !decide (x.tensor = t.id ∧ x.backward = back)) ++ [r] } }) d
    forwardShard s t back j (forwardShard s t back (j + g - 1) d)

/-- Whether the next shard is in the other half of the core at p, and the successor has this one. -/
def Dev.shardReady (d : Dev) (p core : Nat) (s : StageDecl) (t : TensorDecl) (back : Bool) : Bool :=
  match (d.core p).dense.rotation t.id back with
  | none => true
  | some x =>
    let next := (stagePlace d s (ringPlace s core + 1)).bind (fun b => (d.core b).dense.rotation t.id back)
    x.arrived.isSome && (match next with
      | some y => decide (y.version = x.version) && (decide (x.step < y.step) || (decide (x.step = y.step) && y.arrived.isSome))
      | none => false)

/-- The halves of a rotation exchange: step s + 1 begins. -/
def turnShard (p core : Nat) (s : StageDecl) (t : TensorDecl) (back : Bool) (d : Dev) : Dev :=
  let g := (stageRing s).length
  let j := ringPlace s core
  let d := modRotation p t.id back (fun r => match r.arrived with
    | some n => { r with halfB := !r.halfB, held := n, arrived := none, step := r.step + 1 }
    | none => r) d
  forwardShard s t back j (forwardShard s t back (j + g - 1) d)

/-! ## SWAP and GROUP_RESUME of dense groups (R74, R240, R250 to R252) -/

/-- Whether a dense swap can take place: the version that it needs has taken effect, and the shard that it needs has arrived. -/
def denseReady (d : Dev) (p core : Nat) (im : LoadImage) (x : DenseSwap) : Bool :=
  match x with
  | .start header micro _ =>
    match im.towers.find? (fun w => w.header = header) with
    | some w => ((d.stash header.toNat).slotOf (BitVec.ofNat 32 (towerVersion w micro.toNat))).isSome
    | none => true
  | .product tensor _ at_ =>
    match imageTensor im tensor with
    | some (w, _, _) => ((d.stash w.header.toNat).slotOf ((d.core p).headerAt at_.toNat).2).isSome
    | none => true
  | .rotate tensor back =>
    match imageTensor im tensor with
    | some (_, s, t) => d.shardReady p core s t back
    | none => true
  | .finish _ _ => true

/-- A dense swap takes place on the core at p. -/
def denseRuns (p core : Nat) (im : LoadImage) (x : DenseSwap) (d : Dev) : Dev :=
  match x with
  | .start header micro at_ =>
    match im.towers.find? (fun w => w.header = header) with
    | some w => startMicro p header.toNat w micro at_.toNat d
    | none => d
  | .product tensor back at_ =>
    match imageTensor im tensor with
    | some (w, s, t) =>
      let v := ((d.core p).headerAt at_.toNat).2
      match (d.stash w.header.toNat).slotOf v with
      | some k => beginProduct p core k v s t back d
      | none => d
    | none => d
  | .rotate tensor back =>
    match imageTensor im tensor with
    | some (_, s, t) => turnShard p core s t back d
    | none => d
  | .finish header at_ => finishMicro p header.toNat core at_.toNat d

/-- Whether a dense swap is a half swap, at which a version may take effect. -/
def isHalfSwap : DenseSwap → Bool
  | .finish _ _ => false
  | _ => true

/-- A dense swap that finds its half or its version late, or that falls while its group is held, takes place when the group
resumes (R74, R240, R251, R252). -/
def holdDense (p : Nat) (x : DenseSwap) (j : Job) (d : Dev) : Dev :=
  modJob j.queue j.index (fun j => { j with
    held := true, heldSince := if j.held then j.heldSince else d.time.ft, lateDense := j.lateDense ++ [(p, x)] }) d

/-- A dense swap of the core at p. -/
def swapDense (p : Nat) (x : DenseSwap) (d : Dev) : Dev :=
  let core := d.logicalOf p
  match d.jobAt core with
  | none => d
  | some j => match d.jobImage j with
    | none => d
    | some v =>
      if j.preempted ∨ (d.core p).waiting ≠ [] then d
      else
        let d := coreProgress p d
        if j.held then holdDense p x j d
        else
          let d := if isHalfSwap x then halfSwap j v.image core d else d
          if (d.jobAt core).isNone then d
          else if denseReady d p core v.image x then denseRuns p core v.image x d else holdDense p x j d

/-- Whether a slot is a stage of a chain, whose halves the engine hands over and no SWAP exchanges (R281). -/
def Dev.inChain (d : Dev) (s : Nat) : Bool :=
  (d.feeder s).isSome || (match (d.slot s).desc with
    | some x => x.chained
    | none => false)

/-- Whether the core of a slot issues nothing: it waits at a barrier, or its job is preempted. -/
def Dev.slotAway (d : Dev) (s : Nat) : Bool :=
  !(d.core (s / 8)).waiting.isEmpty || d.mesh.jobs.any (fun j => j.cores.contains (d.logicalOf (s / 8)) && j.preempted)

/-- A swap of a slot's halves; where the slot's group swaps, versions that wait for it take effect. -/
def swapHalves (s : Nat) (d : Dev) : Dev :=
  let core := d.logicalOf (s / 8)
  if d.inChain s ∨ d.slotAway s = true then d
  else match if (d.slot s).swappable then d.jobAt core else none with
  | none => swapSlot s d
  | some j => match if j.held then none else d.jobImage j with
    | none => swapSlot s d
    | some v =>
      let d := halfSwap j v.image core d
      if (d.jobAt core).isNone then d else swapSlot s d

/-- SWAP (R271). A swap of a chain's stages moves nothing: its halves are handed over. -/
def execSwap (slot : SwapOp) (s : State) : Host.Outcome State Fault Refusal :=
  lift (fun d => match slot.dense with
    | none => swapHalves slot.slot.val d
    | some x => swapDense (slot.slot.val / 8) x d) s

/-- Whether what holds a group besides late stream halves has passed: its dense swaps can take place, and no batch overruns its
bubble window (R74, R240, R251, R252, R257). -/
def Dev.denseGoesOn (d : Dev) (j : Job) : Bool :=
  j.overruns.all (fun g => !(d.sgroup g).batches.any (·.window)) && (match d.jobImage j with
    | none => true
    | some v =>
      let d := forEach (fun c d => halfSwap j v.image c d) j.cores d
      j.lateDense.all (fun x => denseReady d x.1 (d.logicalOf x.1) v.image x.2))

/-- A group resumes (R74): versions that wait for the swap take effect, and the dense swaps that held it take place. -/
def resumeDense (q : Nat) (i : U32) (d : Dev) : Dev :=
  match d.job q i with
  | none => d
  | some j =>
    if j.held = false ∨ d.denseGoesOn j = false ∨ j.lateSlots.all (fun s => (d.slot s).swappable) = false then d
    else
      match d.jobImage j with
      | none => resumeGroup q i (modJob q i (fun j => { j with overruns := [] }) d)
      | some v =>
        let d := forEach (fun c d => halfSwap j v.image c d) j.cores d
        let d := modJob q i (fun j => { j with lateDense := [], overruns := [] }) d
        let d := resumeGroup q i d
        forEach (fun (x : Nat × DenseSwap) d => denseRuns x.1 (d.logicalOf x.1) v.image x.2 d) j.lateDense d

/-- GROUP_RESUME (R74). -/
def execGroupResume (q : QueueId) (index : U32) (s : State) : Host.Outcome State Fault Refusal := lift (resumeDense q.toNat index) s

end Sys2Proof.Machine
end

