-- ==== Sys2Proof/Machine/Growth.lean ====
section
/-! DEFINITION. Growing trees: sessions, schedules, staging, gradients, histograms, splits, leaves, publication and reports (R179 to R204). -/

namespace Sys2Proof.Machine
open Sys2Proof

/-! ## The schedule (R183, R184, R189, R203) -/

/-- The schedule in 256 bytes. -/
def parseSchedule (b : List Byte) : Schedule × ScheduleAt :=
  let w (o : Nat) : U32 := BitVec.ofNat 32 (field b o 4)
  let h (o : Nat) : U16 := BitVec.ofNat 16 (field b o 2)
  let a (o : Nat) : U64 := BitVec.ofNat 64 (field b o 8)
  ({ ensemble := w 0, baseVersion := w 4, loss := byteAt b 8, output := byteAt b 9, maxDepth := byteAt b 0xA,
     policy := byteAt b 0xB, treesPerRound := h 0xC, candidates := h 0xE, maxTrees := w 0x10, retireStart := w 0x14,
     lambda := w 0x18, gamma := w 0x1C, eta := w 0x20, minHess := w 0x24, baseG := h 0x28, baseH := h 0x2A,
     rnd := byteAt b 0x2C, parts := byteAt b 0x2D, firstCore := h 0x2E },
   { records := w 0x30, collective := w 0x34, candAddr := a 0x38, codesAddr := a 0x40, labelAddr := a 0x48,
     weightAddr := a 0x50, rawAddr := a 0x58, gradAddr := a 0x60, workAddr := a 0x68, workBytes := a 0x70,
     imageArea := a 0x78, slotBytes := a 0x80, imageSlots := byteAt b 0x88, reserved := !zeroAt b 0x89 119 })

/-- LOSS is one of the two of supplied gradients. -/
def Schedule.supplied (x : Schedule) : Bool := decide (x.loss = 0x80 ∨ x.loss = 0x81)

/-- Signed window base of a field; 0x8000 selects −20. -/
def windowBase (b : U16) : Int := if b = 0x8000 then -20 else b.toInt

/-- The rounding of RND. -/
def Schedule.rounding (x : Schedule) : Rnd := if x.rnd = 1 then .towardZero else .nearestEven

/-- B: blocks of four candidates. -/
def Schedule.blocks (x : Schedule) : Nat := ceilDiv x.candidates.toNat 4

/-- The logical cores of the grow group. -/
def Schedule.group (x : Schedule) : List Nat := rangeFrom x.firstCore.toNat (x.parts.toNat * x.blocks)

/-- Whether the fields of a schedule lie in the ranges of R183; CODES_ADDR, at which column 0 starts, is a multiple of 256 (log
entry 107). -/
def scheduleOk (x : Schedule) (y : ScheduleAt) : Bool :=
  let fin (w : U32) := isFin32 w.toNat
  let ge (w : U32) := cmpElem .lf32 .ge w.toNat 0
  let gt (w : U32) := cmpElem .lf32 .gt w.toNat 0
  let n := x.treesPerRound.toNat
  decide (x.ensemble.toNat < 4096) && ([0, 1, 2, 3, 0x80, 0x81] : List Byte).contains x.loss &&
    (decide (x.output.toNat < 8) || decide (x.output = 0xFF ∧ x.loss = 3)) && decide (1 ≤ x.maxDepth.toNat ∧ x.maxDepth.toNat ≤ 16) &&
    decide (x.policy.toNat ≤ 1) && decide (1 ≤ n ∧ n ≤ 1024) &&
    decide (1 ≤ x.candidates.toNat ∧ x.candidates.toNat ≤ 4096) && decide (1 ≤ x.maxTrees.toNat ∧ x.maxTrees.toNat ≤ 1048576) &&
    decide (x.retireStart.toNat < x.maxTrees.toNat) && fin x.lambda && ge x.lambda && fin x.gamma && ge x.gamma && fin x.eta &&
    gt x.eta && fin x.minHess && gt x.minHess && decide (x.rnd.toNat ≤ 1) && decide (1 ≤ x.parts.toNat) &&
    decide (x.parts.toNat * x.blocks ≤ 1200) && decide (1 ≤ y.records.toNat ∧ y.records.toNat ≤ 2 ^ 30) &&
    decide (y.workAddr.toNat % 256 = 0 ∧ y.imageArea.toNat % 256 = 0 ∧ y.slotBytes.toNat % 256 = 0 ∧ y.codesAddr.toNat % 256 = 0) &&
    decide (2 ≤ y.imageSlots.toNat ∧ y.imageSlots.toNat ≤ 4) && !y.reserved &&
    inSoft y.workAddr.toNat y.workBytes.toNat && inSoft y.imageArea.toNat (y.slotBytes.toNat * y.imageSlots.toNat) &&
    inSoft y.candAddr.toNat (2 * x.candidates.toNat)

/-- The members of the group that joins a session, by rank: this module alone without COLLECTIVE; none where the group is not
defined (R190). -/
def Dev.growMembers (d : Dev) (y : ScheduleAt) : Option (List Nat) :=
  if y.collective = 0xFFFFFFFF then some [d.fabric.cfg.moduleId.toNat]
  else if 4096 ≤ y.collective.toNat then none
  else (d.group y.collective.toNat).box.map Box.members

/-- The candidate list. -/
def Dev.candList (d : Dev) (x : Schedule) (y : ScheduleAt) : List Nat :=
  wordsAt (d.bytesAt y.candAddr.toNat (2 * x.candidates.toNat)) 0 2 x.candidates.toNat

/-- W of R203. -/
def workNeed (x : Schedule) (y : ScheduleAt) (k members : Nat) : Nat :=
  let own := 4 * ceilDiv x.blocks members
  let dep := x.maxDepth.toNat
  let nodes := if dep = 1 then 1 else 3 * 2 ^ (dep - 2)
  65536 + y.records.toNat * (24 + 17 * k + 2 * x.candidates.toNat) + nodes * 4608 * own + x.treesPerRound.toNat * 16 * 2 ^ dep

/-- Whether a core of the grow group is absent or in use (R184). -/
def Dev.growCoreBusy (d : Dev) (own : Nat) (core : Nat) : Bool :=
  (d.placeOf core).isNone || d.mesh.jobs.any (fun j => j.cores.contains core) ||
    d.fe.tasks.any (fun t => (d.taskCores t.2).contains core) ||
    (match d.placeOf core with
      | some p => (rangeFrom (8 * p) 8).any (fun s => (d.slotRun s).owner.isSome)
      | none => false) ||
    d.retries.any (fun r => decide (r.1 ≠ own) && (match r.2.session.sched with
      | some (x, _) => x.group.contains core
      | none => false)) ||
    d.scoring.groups.any (fun g => g.2.busy && (match g.2.layout with
      | some l => l.ring.contains core
      | none => false)) ||
    d.service.services.any (fun s => decide (s.2.state ≠ .disabled) &&
      (d.serviceGroups s.1).any (fun g => g.2.ring.contains core))

/-! ## The version a round starts from (R184, R185) -/

/-- The base version of a round that starts, when one can be fixed. -/
def Dev.growBase (d : Dev) (s : Session) (restage : Bool) (x : Schedule) : Option EnsVersion :=
  let o := d.ens x.ensemble.toNat
  let (n, era) : U32 × Nat := match restage, s.lastPublished with
    | false, some v => (v, s.era)
    | _, _ => (if x.baseVersion = 0 then o.current else x.baseVersion, o.era)
  if o.present = true ∧ n ≠ 0 then o.live.find? (fun v => v.number = n ∧ v.era = era) else none

/-- Whether the target outputs of a schedule fit K. -/
def outputsOk (x : Schedule) (k : Nat) : Bool :=
  if x.output = 0xFF then decide (x.loss = 3 ∧ x.treesPerRound.toNat % k = 0) else decide (x.output.toNat < k)

/-- The ranges of device memory that a staging reads (R185). -/
def stagedRanges (x : Schedule) (y : ScheduleAt) (k : Nat) : List (Nat × Nat) :=
  let n := y.records.toNat
  (List.range x.candidates.toNat).map (fun i => (y.codesAddr.toNat + alignUp n 256 * i, n)) ++
    (if x.supplied then [(y.gradAddr.toNat, (if x.loss = 0x80 then 8 else 4) * n)]
      else [(y.labelAddr.toNat, 4 * n), (y.rawAddr.toNat, 4 * k * n)]) ++
    (if y.weightAddr = 0 then [] else [(y.weightAddr.toNat, 4 * n)])

/-- Whether the rules of R184 that read the contents of the base version fail: the target, the candidates, the work area, the leaf
format, and source ranges that reach into the reserved range (R391). -/
def baseFails (d : Dev) (x : Schedule) (y : ScheduleAt) (e : Ensemble) (members : Nat) : Bool :=
  !outputsOk x e.outputs ||
    (d.candList x y).any (fun f => match e.features[f]? with
      | some t => t.wide
      | none => true) ||
    decide (y.workBytes.toNat < workNeed x y e.outputs members) || (d.mode.det && !e.fixedPoint) ||
    (stagedRanges x y e.outputs).any (fun r => !inSoft r.1 r.2)

/-- Whether the rules of R184 that read the base version fail for a round that starts. -/
def roundFails (d : Dev) (x : Schedule) (y : ScheduleAt) (v : EnsVersion) (members : Nat) : Bool :=
  baseFails d x y v.content members || decide (x.policy = 0 ∧ x.maxTrees.toNat < v.content.trees.length + x.treesPerRound.toNat)

/-- Whether what a GROW command reads by address is at fault (R184, R548): how many poisoned granules, and whether it fails. In a
round the schedule is held to the round's base version. -/
def scheduleFault (d : Dev) (b : List Byte) : Nat × Bool :=
  let a := field b 0x10 8
  let (x, y) := parseSchedule (d.bytesAt a 256)
  let p := d.poisonedIn a 256
  if p ≠ 0 then (p, true)
  else if !scheduleOk x y then (0, true)
  else
    let p := d.poisonedIn y.candAddr.toNat (2 * x.candidates.toNat)
    let l := d.candList x y
    let s := d.session (field b 0x20 1)
    let base := match s.inRound, s.content, d.growMembers y with
      | true, some e, some ms => baseFails d x y e ms.length
      | _, _, _ => false
    (p, decide (p ≠ 0) || (List.zip l (l.drop 1)).any (fun c => decide (c.2 ≤ c.1)) || (d.growMembers y).isNone || base)

/-! ## Staging (R185, R186, R188) -/

/-- One number that a record stages, and whether its granule is poisoned. -/
def Dev.stageWord (d : Dev) (a n : Nat) : Nat × Bool := (leNat (d.bytesAt a n), decide (0 < d.poisonedIn a n))

/-- Stage record r: codes, label, weight, raw scores or supplied gradients. -/
def stageRecord (d : Dev) (x : Schedule) (y : ScheduleAt) (fixed : Bool) (k scale r : Nat) : GrowRecord × List (BitVec 6) :=
  let column := alignUp y.records.toNat 256
  let codes := (List.range x.candidates.toNat).map (fun i => d.stageWord (y.codesAddr.toNat + column * i + r) 1)
  let label := if x.supplied then (0, false) else d.stageWord (y.labelAddr.toNat + 4 * r) 4
  let weight := if y.weightAddr = 0 then (0x3F800000, false) else d.stageWord (y.weightAddr.toNat + 4 * r) 4
  let raws := if x.supplied then [] else (List.range k).map (fun j => d.stageWord (y.rawAddr.toNat + 4 * (k * r + j)) 4)
  let step := if x.loss = 0x80 then 8 else 4
  let g := if x.supplied then d.stageWord (y.gradAddr.toNat + step * r) 4 else (0, false)
  let h := if x.loss = 0x80 then d.stageWord (y.gradAddr.toNat + 8 * r + 4) 4 else (0, false)
  let adds := if fixed then raws.map (fun w => xsAddend false (-(scale : Int)) .nearestEven 0 .lf32 (readFloat .lf32 w.1)) else []
  ({ codes := codes.map (fun c => BitVec.ofNat 8 c.1), label := BitVec.ofNat 32 label.1, weight := BitVec.ofNat 32 weight.1,
     given := (BitVec.ofNat 32 g.1, BitVec.ofNat 32 h.1), held := adds.map (·.1),
     heldLf := if fixed then [] else raws.map (fun w => BitVec.ofNat 32 w.1), grad := 0, hess := 0,
     poisoned := (codes ++ raws ++ [label, weight, g, h]).any (·.2), excluded := false, node := none, leaf := none },
   adds.map (·.2))

/-- The reads of a staging: each poisoned granule counts in the command's POISON_IN (R188, R292). -/
def countStaging (q : Nat) (i : U32) (x : Schedule) (y : ScheduleAt) (k : Nat) (d : Dev) : Dev :=
  forEach (fun (r : Nat × Nat) d => countAccess 0 false r.1 r.2 <| countPoisonReads r.1 r.2
    (modCmd q i (fun c => { c with poisonIn := stick32 c.poisonIn (d.poisonedIn r.1 r.2) }) d)) (stagedRanges x y k) d

/-! ## The work area (R185, R193, R203; the places of records and cells in it: log entry 108) -/

/-- Bytes that the work area gives to a record. -/
def recordRoom (x : Schedule) (k : Nat) : Nat := 24 + 17 * k + 2 * x.candidates.toNat

/-- A staged record as it is copied: codes, label, weight, and raw scores or supplied gradients, with its poison mark. -/
def stagedBytes (d : Dev) (x : Schedule) (y : ScheduleAt) (k r : Nat) (g : GrowRecord) : List (Byte × Bool) :=
  let raws := if x.supplied then leBytes 4 g.given.1.toNat ++ leBytes 4 g.given.2.toNat
    else d.bytesAt (y.rawAddr.toNat + 4 * k * r) (4 * k)
  (g.codes ++ leBytes 4 g.label.toNat ++ leBytes 4 g.weight.toNat ++ raws).map (fun b => (b, g.poisoned))

/-- Copy the staged records into the work area, in record order. -/
def copyStaged (x : Schedule) (y : ScheduleAt) (s : Session) (d : Dev) : Dev :=
  forEach (fun (r : GrowRecord × Nat) d =>
    memLand 4 (y.workAddr.toNat + 65536 + recordRoom x s.outputs * r.2) (stagedBytes d x y s.outputs r.2 r.1) d)
    (s.records.zip (List.range s.records.length)) d

/-- The cells of one candidate of a node: value planes of gradients and hessians, then their tag planes. -/
def cellBytes (cells : Sparse (Xs × Xs)) : List Byte :=
  let l := lookAll (Xs.zero, Xs.zero) cells 0 256
  (l.map (fun c => leBytes 8 c.1.reg.toNat)).flatten ++ (l.map (fun c => leBytes 8 c.2.reg.toNat)).flatten ++
    l.map (fun c => c.1.tag) ++ l.map (fun c => c.2.tag)

/-- Write the full cells of a level's nodes that this module owns; the nodes of the level before stay beside them until both
children are formed. -/
def writeCells (x : Schedule) (y : ScheduleAt) (k members rank level : Nat) (cells : List (List (Sparse (Xs × Xs)))) (d : Dev) : Dev :=
  let own := 4 * ceilDiv x.blocks members
  let at_ := y.workAddr.toNat + 65536 + y.records.toNat * recordRoom x k
  let room := if (x.maxDepth.toNat - 1 - level) % 2 = 0 then 0 else 2 ^ (x.maxDepth.toNat - 1)
  forEach (fun (u : List (Sparse (Xs × Xs)) × Nat) d => forEach (fun (c : Sparse (Xs × Xs) × Nat) d =>
    if c.2 / 4 % members = rank then
      memWrite 4 (at_ + 4608 * (own * (room + u.2) + 4 * (c.2 / 4 / members) + c.2 % 4)) (cellBytes c.1) false d
    else d) (u.1.zip (List.range u.1.length)) d) (cells.zip (List.range cells.length)) d

/-! ## Flags of a GROW command (R114 to R122) -/

/-- Record flags that the work on a core raised, as one cycle of its Squirrel unit; R147's K for what no tree's addition raised
(log entry 35). -/
def growFlags (q : Nat) (i : U32) (core : Nat) (flags : List (BitVec 6 × BitVec 6)) (d : Dev) : Dev :=
  match d.placeOf core with
  | none => d
  | some p => recordOccs (some (q, i)) p 4 0 ((flags.map (fun f => occsOf f.1 f.2.toNat 0 0 0xFFFFFFFF)).flatten) d

/-- Flags without a NaN origin. -/
def plainFlags (l : List (BitVec 6)) : List (BitVec 6 × BitVec 6) := l.map (fun f => (f, 0))

/-- The part that staged record r of n belongs to (R189). -/
def partOf (parts n r : Nat) : Nat := ((List.range parts).filter (fun p => decide (p * n / parts ≤ r))).length - 1

/-- The logical core of a part and block. -/
def Schedule.coreOf (x : Schedule) (p q : Nat) : Nat := x.firstCore.toNat + p * x.blocks + q

/-! ## Gradients (R187, R188) -/

/-- One in LF32. -/
def unit32 : Nat := 0x3F800000

/-- A record's held raw scores in LF32. -/
def GrowRecord.scores (r : GrowRecord) (s : Session) : List Sum :=
  if s.fixedPoint then
    r.held.map (fun x => ({ value := 0, flags := [] } : Sum).then (fun _ => xsOut false (-(s.scale : Int)) .lf32 false false .nearestEven 0 x))
  else r.heldLf.map (fun w => { value := w.toNat, flags := [] })

/-- The gradient and hessian before the weight, for target output k. -/
def lossPair (x : Schedule) (core k : Nat) (f : List Sum) (r : GrowRecord) : Sum × Sum :=
  let zero : Sum := { value := 0, flags := [] }
  let fk := f.getD k zero
  let bare (v : Nat) : Sum := { value := v, flags := [] }
  let spread (p : Sum) : Sum :=
    let c := (bare p.value).then (fun v => sub32 core unit32 v)
    c.then (fun v => mul32 core p.value v)
  match x.loss.toNat with
  | 0 => (fk.then (fun v => sub32 core v r.label.toNat), bare unit32)
  | 1 =>
    let p := fk.then (fun v => funElem .logistic .lf32 .nearestEven 0 core v)
    (p.then (fun v => sub32 core v r.label.toNat), spread p)
  | 2 =>
    let m := fk.then (fun v => funElem .exp .lf32 .nearestEven 0 core v)
    (m.then (fun v => sub32 core v r.label.toNat), bare m.value)
  | 3 =>
    let (es, t) := softmaxParts core f
    let q := (es.getD k zero).then (fun v => div32 core v t.value)
    let p : Sum := { q with flags := (es.map (·.flags)).flatten ++ t.flags ++ q.flags.drop (es.getD k zero).flags.length }
    (p.then (fun v => sub32 core v (if r.label.toNat = k then unit32 else 0)), spread p)
  | 0x80 => (bare r.given.1.toNat, bare r.given.2.toNat)
  | _ => (bare r.given.1.toNat, bare unit32)

/-- A record at the start of a tree: excluded or with its gradients, at the root. -/
def startRecord (s : Session) (x : Schedule) (core k : Nat) (r : GrowRecord) : GrowRecord × List (BitVec 6 × BitVec 6) :=
  let badClass := decide (x.loss = 3) && (decide (r.label.toInt < 0) || decide (s.outputs ≤ r.label.toNat))
  if r.poisoned || badClass then ({ r with excluded := true, grad := 0, hess := 0, node := some 0, leaf := none }, [])
  else
    let (g, h) := lossPair x core k (r.scores s) r
    let g := g.then (fun v => mul32 core v r.weight.toNat)
    let h := h.then (fun v => mul32 core v r.weight.toNat)
    ({ r with excluded := false, grad := BitVec.ofNat 32 g.value, hess := BitVec.ofNat 32 h.value, node := some 0, leaf := none },
     (g.flags ++ h.flags).map (fun f => (f.1, f.2.1)))

/-- The target output of the tree in progress. -/
def Session.target (s : Session) (x : Schedule) : Nat :=
  if x.output = 0xFF then s.treeInRound % s.outputs else x.output.toNat

/-- Start a tree: gradients of every record, flags on the first core of its part. -/
def startTree (q : Nat) (i : U32) (x : Schedule) (s : Session) (d : Dev) : Session × Dev :=
  let n := s.records.length
  let k := s.target x
  let done := (s.records.zip (List.range n)).map (fun r =>
    let core := x.coreOf (partOf x.parts.toNat n r.2) 0
    (core, startRecord s x ((d.placeOf core).elim 0xFFFF d.nanCore) k r.1))
  let d := forEach (fun p d => growFlags q i (x.coreOf p 0)
    ((done.filter (fun r => r.1 = x.coreOf p 0)).map (fun r => r.2.2)).flatten d) (List.range x.parts.toNat) d
  ({ s with records := done.map (·.2.1), tree := some (.frontier 0, 0), totals := [], parents := [] }, d)

/-! ## Histograms (R191 to R193) -/

/-- The empty cell. -/
def Xs.cell : Xs × Xs := (Xs.zero, Xs.zero)

/-- Two cells add. -/
def cellAdd (a b : Xs × Xs) : Xs × Xs := (xsAdd false a.1 b.1, xsAdd false a.2 b.2)

/-- Negation of an XS total (R192). -/
def xsNeg (x : Xs) : Xs :=
  let k := tagKind x.tag
  { reg := xsReg false (-(xsInt false x)), tag := mkTag (if k = 1 then 2 else if k = 2 then 1 else k) (tagLow x.tag) (tagClass x.tag) }

/-- A cell negated. -/
def cellNeg (a : Xs × Xs) : Xs × Xs := (xsNeg a.1, xsNeg a.2)

/-- A record's addends, with their flags. -/
def GrowRecord.addends (r : GrowRecord) (x : Schedule) : (Xs × Xs) × List (BitVec 6) :=
  let g := xsAddend false (windowBase x.baseG) x.rounding 0 .lf32 (readFloat .lf32 r.grad.toNat)
  let h := xsAddend false (windowBase x.baseH) x.rounding 0 .lf32 (readFloat .lf32 r.hess.toNat)
  ((g.1, h.1), [g.2, h.2])

/-- The cells of a node that its own records build, by candidate and bin. -/
def ownCells (x : Schedule) (cands : Nat) (rs : List GrowRecord) : List (Sparse (Xs × Xs)) :=
  (List.range cands).map (fun c => rs.foldl (fun m r =>
    if r.excluded then m else upd Xs.cell m (byteAt r.codes c).toNat (fun v => cellAdd v (r.addends x).1)) [])

/-- A peer's cells of frontier slot u. -/
def peerCells (u : Nat) (p : GrowPeer) (cells : List (Sparse (Xs × Xs))) : List (Sparse (Xs × Xs)) :=
  p.cells.foldl (fun l c =>
    if c.slot = u ∧ c.bin < 256 then
      let v : Xs × Xs := ({ reg := xsReg false c.g.toInt, tag := c.gTag }, { reg := xsReg false c.h.toInt, tag := c.hTag })
      l.modify c.cand (fun m => upd Xs.cell m c.bin (fun w => cellAdd w v))
    else l) cells

/-- The cells of a node built from records, over every module. -/
def builtCells (x : Schedule) (s : Session) (peers : List GrowPeer) (u : Nat) : List (Sparse (Xs × Xs)) :=
  peers.foldl (fun l p => peerCells u p l) (ownCells x s.cands.length (s.records.filter (fun r => r.node = some u)))

/-- Full cells of a sibling: parent + (−built), cell by cell. -/
def siblingCells (parent built : List (Sparse (Xs × Xs))) : List (Sparse (Xs × Xs)) :=
  List.zipWith (fun p b => (List.range 256).foldl (fun m k =>
    put Xs.cell m k (cellAdd (look Xs.cell p k) (cellNeg (look Xs.cell b k)))) []) parent built

/-- Records in frontier slot u over every module. -/
def Session.countAt (s : Session) (peers : List GrowPeer) (u : Nat) : Nat :=
  (s.records.filter (fun r => r.node = some u)).length + (peers.map (fun p => p.counts.getD u 0)).sum

/-- Which frontier slots are built from records: the root, or of each pair the child with fewer records, the left on a tie. -/
def Session.built (s : Session) (peers : List GrowPeer) : List Nat :=
  if s.parents.isEmpty then [0]
  else (List.range s.parents.length).map (fun j =>
    if s.countAt peers (2 * j) ≤ s.countAt peers (2 * j + 1) then 2 * j else 2 * j + 1)

/-- Full cells of every frontier node, left to right. -/
def Session.cells (s : Session) (x : Schedule) (peers : List GrowPeer) : List (List (Sparse (Xs × Xs))) :=
  if s.parents.isEmpty then [builtCells x s peers 0]
  else ((s.parents.zip (s.built peers)).map (fun p =>
    let b := builtCells x s peers p.2
    let o := siblingCells p.1 b
    if p.2 % 2 = 0 then [b, o] else [o, b])).flatten

/-- Flags of the histogram addends on the cores of a part. -/
def histFlags (q : Nat) (i : U32) (x : Schedule) (s : Session) (built : List Nat) (d : Dev) : Dev :=
  let n := s.records.length
  forEach (fun p d =>
    let mine := (rangeFrom (p * n / x.parts.toNat) ((p + 1) * n / x.parts.toNat - p * n / x.parts.toNat)).filterMap (fun r => s.records[r]?)
    let fl := ((mine.filter (fun r => !r.excluded && built.any (fun u => decide (r.node = some u)))).map (fun r => (r.addends x).2)).flatten
    let fl := plainFlags (fl.filter (fun f => f ≠ 0))
    forEach (fun b d => growFlags q i (x.coreOf p b) fl d) (List.range x.blocks) d) (List.range x.parts.toNat) d

/-- HIST_CYCLES: histogram and combine cycles of the slowest core (R194). -/
def histCycles (x : Schedule) (s : Session) (built : List Nat) (members rank : Nat) : Nat :=
  let n := s.records.length
  let parts := x.parts.toNat
  ((List.range parts).map (fun p =>
    let mine := (rangeFrom (p * n / parts) ((p + 1) * n / parts - p * n / parts)).filterMap (fun r => s.records[r]?)
    let hist := (built.map (fun u => max (mine.filter (fun r => r.node = some u)).length 72)).sum
    let owned := if (List.range x.blocks).any (fun b => decide (b % members = rank)) then (built.filter (fun u => u % parts = p)).length else 0
    hist + 128 * (parts - 1) * owned)).foldl max 0

/-! ## Splits (R195 to R198) -/

/-- A total out to LF32 (R195). -/
def totalOut (b : U16) (x : Xs) : Res := xsOut false (windowBase b) .lf32 false false .nearestEven 0 x

/-- Whether both totals of a pair have tag FINITE. -/
def cellFinite (c : Xs × Xs) : Bool := decide (tagKind c.1.tag = 0 ∧ tagKind c.2.tag = 0)

/-- A pair of totals in LF32, with the flags of its conversions. -/
def pairOut (x : Schedule) (c : Xs × Xs) : (Nat × Nat) × List (BitVec 6 × BitVec 6) :=
  let g := totalOut x.baseG c.1
  let h := totalOut x.baseH c.2
  ((g.bits, h.bits), [(g.flags, g.origin), (h.flags, h.origin)])

/-- term(g, h) of R196. -/
def gainTerm (x : Schedule) (core : Nat) (p : Nat × Nat) : Sum :=
  let h := ({ value := 0, flags := [] } : Sum).then (fun _ => add32 core p.2 x.lambda.toNat)
  let a := h.then (fun _ => mul32 core p.1 p.1)
  a.then (fun v => div32 core v h.value)

/-- A valid candidate: gain, feature, threshold, MISS_LEFT, and the totals of its sides. -/
structure Split where
  gain      : Nat
  feature   : Nat
  threshold : Nat
  missLeft  : Bool
  left      : Xs × Xs
  right     : Xs × Xs
deriving DecidableEq, Repr

/-- A sum's flags with their origins. -/
def Sum.pairs (s : Sum) : List (BitVec 6 × BitVec 6) := s.flags.map (fun f => (f.1, f.2.1))

/-- Judge one candidate (R195, R196): the split when it is valid, and its flags. -/
def judgeSplit (x : Schedule) (core feature : Nat) (total : Xs × Xs) (whole : Nat × Nat) (t : Nat) (miss : Bool) (left : Xs × Xs) :
    Option Split × List (BitVec 6 × BitVec 6) :=
  let right := cellAdd total (cellNeg left)
  let (l, fl) := pairOut x left
  let (r, fr) := pairOut x right
  let hl := add32 core l.2 x.lambda.toNat
  let hr := add32 core r.2 x.lambda.toNat
  if !(cellFinite total && cellFinite left && cellFinite right) ||
      !cmpElem .lf32 .ge l.2 x.minHess.toNat || !cmpElem .lf32 .ge r.2 x.minHess.toNat ||
      !cmpElem .lf32 .gt hl.bits 0 || !cmpElem .lf32 .gt hr.bits 0 then (none, fl ++ fr)
  else
    let a := gainTerm x core l
    let b := gainTerm x core r
    let c := gainTerm x core whole
    let g := ((a.then (fun v => add32 core v b.value)).then (fun v => sub32 core v c.value)).then (fun v => sub32 core v x.gamma.toNat)
    (if isFin32 g.value && cmpElem .lf32 .gt g.value 0 then
       some { gain := g.value, feature := feature, threshold := t, missLeft := miss, left := left, right := right } else none,
     fl ++ fr ++ b.pairs ++ c.pairs ++ g.pairs)

/-- The candidates of one feature, in increasing threshold with MISS_LEFT 0 before 1: prefix totals of the left bins. -/
def scanFrom (x : Schedule) (core feature : Nat) (cells : Sparse (Xs × Xs)) (total : Xs × Xs) (whole : Nat × Nat) :
    Nat → Nat → Xs × Xs → List (Option Split × List (BitVec 6 × BitVec 6))
  | 0, _, _ => []
  | n + 1, t, acc =>
    let left := cellAdd acc (look Xs.cell cells t)
    judgeSplit x core feature total whole t false left ::
      judgeSplit x core feature total whole t true (cellAdd left (look Xs.cell cells 255)) ::
        scanFrom x core feature cells total whole n (t + 1) left

/-- Totals over all 256 bins. -/
def cellTotal (cells : Sparse (Xs × Xs)) : Xs × Xs := (lookAll Xs.cell cells 0 256).foldl cellAdd Xs.cell

/-- The better of two valid candidates; the first stands on a tie, as candidates come in the order of R197. -/
def betterSplit (a : Option Split) (b : Option Split) : Option Split :=
  match a, b with
  | none, b => b
  | a, none => a
  | some u, some v => if cmpElem .lf32 .gt v.gain u.gain then some v else some u

/-- Scan one candidate feature of a node. -/
def scanFeature (x : Schedule) (core feature : Nat) (cells : Sparse (Xs × Xs)) : Option Split × List (BitVec 6 × BitVec 6) :=
  let total := cellTotal cells
  let (whole, fw) := pairOut x total
  let l := scanFrom x core feature cells total whole 255 0 Xs.cell
  (l.foldl (fun b c => betterSplit b c.1) none, fw ++ (l.map (·.2)).flatten)

/-- The best split of frontier node u (R197), each feature scanned by its owner core: part u mod P of its block, on the module of
the block's rank. -/
def bestSplit (q : Nat) (i : U32) (x : Schedule) (s : Session) (members rank u : Nat) (cells : List (Sparse (Xs × Xs))) (d : Dev) :
    Option Split × Dev :=
  ((s.cands.zip cells).zip (List.range s.cands.length)).foldl (fun (b : Option Split × Dev) c =>
    let block := c.2 / 4
    let core := x.coreOf (u % x.parts.toNat) block
    let r := scanFeature x ((b.2.placeOf core).elim 0xFFFF b.2.nanCore) c.1.1 c.1.2
    (betterSplit b.1 r.1, if block % members = rank then growFlags q i core (r.2.filter (fun f => f.1 ≠ 0)) b.2 else b.2)) (none, d)

/-! ## Leaves (R199, R200) -/

/-- The value of a leaf from its node's totals, and its flags. -/
def leafValue (x : Schedule) (s : Session) (core : Nat) (c : Xs × Xs) : U32 × List (BitVec 6 × BitVec 6) :=
  let (p, fl) := pairOut x c
  let dn := add32 core p.2 x.lambda.toNat
  if !cellFinite c || !isFin32 p.1 || !isFin32 p.2 || !cmpElem .lf32 .gt dn.bits 0 then (0, fl ++ [(fInvalid, 0)])
  else
    let z : Sum := { value := 0, flags := [] }
    let v := ((z.then (fun _ => dn)).then (fun v => div32 core p.1 v)).then (fun v => mul32 core x.eta.toNat v)
    if s.fixedPoint then
      let r := match negNum (readFloat .lf32 v.value) with
        | .nan p => Res.mk 0 fInvalid (nanOrigin .lf32 p)
        | .inf neg => convInf .int32 false neg
        | .fin neg n dd e => convFin .int32 false false x.rounding 0 neg n dd (e + s.scale)
      (BitVec.ofNat 32 r.bits, fl ++ v.pairs ++ [(r.flags, r.origin)])
    else (BitVec.ofNat 32 (neg32 v.value), fl ++ v.pairs)

/-- Make frontier slot u a leaf: its value goes to the tree and to its records. -/
def setLeaf (u : Nat) (v : U32) : GrowNode → GrowNode
  | .frontier n => if n = u then .leaf v else .frontier n
  | .leaf w => .leaf w
  | .split f t m l r => .split f t m (setLeaf u v l) (setLeaf u v r)

/-- The records of frontier slot u reach a leaf. -/
def leafRecords (u : Nat) (v : U32) (rs : List GrowRecord) : List GrowRecord :=
  rs.map (fun r => if r.node = some u then { r with node := none, leaf := some v } else r)

/-- Node u becomes a leaf made on its owner core. -/
def makeLeaf (q : Nat) (i : U32) (x : Schedule) (u : Nat) (total : Xs × Xs) (p : Session × Dev) : Session × Dev :=
  let (s, d) := p
  let core := x.coreOf (u % x.parts.toNat) 0
  let (v, fl) := leafValue x s ((d.placeOf core).elim 0xFFFF d.nanCore) total
  ({ s with tree := s.tree.map (fun t => (setLeaf u v t.1, t.2)), records := leafRecords u v s.records },
   growFlags q i core (fl.filter (fun f => f.1 ≠ 0)) d)

/-- A record's held score of the target output takes the leaf it reached (R200). -/
def GrowRecord.settle (s : Session) (k : Nat) (core : Nat) (r : GrowRecord) : GrowRecord :=
  match r.leaf with
  | none => r
  | some v =>
    if r.excluded then { r with leaf := none }
    else if s.fixedPoint then
      { r with leaf := none, held := r.held.modify k (fun x => xsAdd false x { reg := xsReg false v.toInt, tag := 0 }) }
    else { r with leaf := none, heldLf := r.heldLf.modify k (fun x => BitVec.ofNat 32 (add32 core x.toNat v.toNat).bits) }

/-- The flags of the LF32 additions to held scores, by record. -/
def GrowRecord.settleFlags (s : Session) (k core : Nat) (r : GrowRecord) : List (BitVec 6 × BitVec 6) :=
  match r.leaf with
  | some v =>
    if r.excluded || s.fixedPoint then []
    else match r.heldLf[k]? with
      | some x => let a := add32 core x.toNat v.toNat; if a.flags = 0 then [] else [(a.flags, a.origin)]
      | none => []
  | none => []

/-- Split words on the longest path. -/
def GrowNode.depth : GrowNode → Nat
  | .frontier _ => 0
  | .leaf _ => 0
  | .split _ _ _ l r => 1 + max l.depth r.depth

/-- The tree ends (R200): it is finished, held scores take their leaves, and the next tree of the round follows. -/
def endTree (q : Nat) (i : U32) (x : Schedule) (p : Session × Dev) : Session × Dev :=
  let (s, d) := p
  match s.tree with
  | none => (s, d)
  | some (t, _) =>
    let k := s.target x
    let n := s.records.length
    let core (r : Nat) : Nat := let c := x.coreOf (partOf x.parts.toNat n r) 0; (d.placeOf c).elim 0xFFFF d.nanCore
    let rs := s.records.zip (List.range n)
    let d' := if s.fixedPoint || x.supplied then d else forEach (fun p d => growFlags q i (x.coreOf p 0)
      ((rs.filter (fun r => partOf x.parts.toNat n r.2 = p)).map (fun r => r.1.settleFlags s k (core r.2))).flatten d)
      (List.range x.parts.toNat) d
    ({ s with tree := none, totals := [], parents := [], finished := s.finished ++ [(t, t.depth)], treeInRound := s.treeInRound + 1,
              records := rs.map (fun r => r.1.settle s k (core r.2)) }, d')

/-! ## One level (R182, R192 to R198) -/

/-- Split frontier slots: each splits into its two children, numbered from next on, or becomes a leaf of no value yet. -/
def renumber (best : List (Option (Split × Nat))) : GrowNode → GrowNode
  | .leaf v => .leaf v
  | .split f t m l r => .split f t m (renumber best l) (renumber best r)
  | .frontier u => match (best[u]?).join with
    | some (b, j) => .split (BitVec.ofNat 16 b.feature) (BitVec.ofNat 16 b.threshold) b.missLeft (.frontier (2 * j)) (.frontier (2 * j + 1))
    | none => .leaf 0

/-- The child that a record of a split node goes to (R139, R198): its index among the children. -/
def GrowRecord.move (cands : List Nat) (best : List (Option (Split × Nat))) (r : GrowRecord) : GrowRecord :=
  match r.node with
  | none => r
  | some u => match (best[u]?).join with
    | none => r
    | some (b, j) =>
      let c := (byteAt r.codes (cands.findIdx (fun f => f = b.feature))).toNat
      let left := if c = 0xFF then b.missLeft else decide (c ≤ b.threshold)
      { r with node := some (if left then 2 * j else 2 * j + 1) }

/-- Number the nodes that split, left to right. -/
def numberSplits : List (Option Split) → Nat → List (Option (Split × Nat))
  | [], _ => []
  | none :: l, n => none :: numberSplits l n
  | some b :: l, n => some (b, n) :: numberSplits l (n + 1)

/-- The best splits of every frontier node. -/
def allSplits (q : Nat) (i : U32) (x : Schedule) (s : Session) (members rank : Nat) :
    List (List (Sparse (Xs × Xs)) × Nat) → Dev → List (Option Split) × Dev
  | [], d => ([], d)
  | c :: cs, d =>
    let (b, d) := bestSplit q i x s members rank c.2 c.1 d
    let (bs, d) := allSplits q i x s members rank cs d
    (b :: bs, d)

/-- Grow one level: histograms, splits, leaves of nodes that do not split, and the records' partition. Nodes split and leaves
made. -/
def growOne (q : Nat) (i : U32) (x : Schedule) (members rank : Nat) (peers : List GrowPeer) (s : Session) (d : Dev) :
    Session × Nat × Nat × Nat × Dev :=
  let built := s.built peers
  let hist := histCycles x s built members rank
  let d := histFlags q i x s built d
  let cells := s.cells x peers
  let d := match s.sched with
    | some (_, y) => writeCells x y s.outputs members rank ((s.tree.map (·.2)).getD 0) cells d
    | none => d
  let (best, d) := allSplits q i x s members rank (cells.zip (List.range cells.length)) d
  let totals := cells.map (fun c => cellTotal (c.headD []))
  let stops := (List.range cells.length).filter (fun u => ((best[u]?).join).isNone)
  let (s, d) := stops.foldl (fun p u => makeLeaf q i x u (totals.getD u Xs.cell) p) (s, d)
  let numbered := numberSplits best 0
  let splits := best.filterMap id
  let s := { s with
    tree := s.tree.map (fun t => (renumber numbered t.1, t.2 + 1)), records := s.records.map (GrowRecord.move s.cands numbered),
    totals := (splits.map (fun b => [b.left, b.right])).flatten,
    parents := (cells.zip best).filterMap (fun c => if c.2.isSome then some c.1 else none), levels := s.levels + 1 }
  (s, splits.length, stops.length, hist, d)

/-- Every frontier node becomes a leaf. -/
def leafFrontier (q : Nat) (i : U32) (x : Schedule) (p : Session × Dev) : Nat × Session × Dev :=
  let n := p.1.totals.length
  let r := (List.range n).foldl (fun p u => makeLeaf q i x u (p.1.totals.getD u Xs.cell) p) p
  (n, r.1, r.2)

/-! ## Placing trees and writing the image (R137, R201) -/

/-- The preorder words and leaf rows of a grown tree; rows are numbered from a first one. -/
def treeWords : GrowNode → Nat → List U64 × List U32
  | .frontier _, row => ([BitVec.ofNat 64 (2 ^ 28 + row)], [0])
  | .leaf v, row => ([BitVec.ofNat 64 (2 ^ 28 + row)], [v])
  | .split f t m l r, row =>
    let a := treeWords l row
    let b := treeWords r (row + a.2.length)
    let w := BitVec.ofNat 64 (f.toNat * 2 ^ 48 + t.toNat * 2 ^ 32 + b2n m * 2 ^ 31 + (1 + a.1.length))
    (w :: (a.1 ++ b.1), a.2 ++ b.2)

/-- A leaf row: the value at the target output, 0 elsewhere. -/
def leafRow (k target : Nat) (v : U32) : List U32 := (List.range k).map (fun i => if i = target then v else 0)

/-- Where a grown tree goes: appended, or in place of the tree at the retirement cursor. -/
structure Placing where
  content  : Ensemble
  cursor   : Nat
  first    : Option Nat
  replFirst : Option Nat
  replaced : Nat
deriving DecidableEq, Repr

/-- Place one finished tree (R201): its leaves take new rows. -/
def placeTree (x : Schedule) (target : Nat) (t : GrowNode × Nat) (p : Placing) : Placing :=
  let e := p.content
  let (ws, vals) := treeWords t.1 e.leaves.length
  let tree : Tree := { symmetric := false, depth := t.2, words := ws, leaves := vals.length }
  let e := { e with leaves := e.leaves ++ vals.map (leafRow e.outputs target) }
  if x.policy = 1 ∧ x.maxTrees.toNat ≤ e.trees.length then
    { content := { e with trees := e.trees.set p.cursor tree }, cursor := (p.cursor + 1) % x.maxTrees.toNat,
      first := some (p.first.getD p.cursor), replFirst := some (p.replFirst.getD p.cursor), replaced := p.replaced + 1 }
  else { p with content := { e with trees := e.trees ++ [tree] }, first := some (p.first.getD e.trees.length) }

/-- Place the trees of a round, in the order grown. -/
def placeAll (x : Schedule) (k : Nat) : List (GrowNode × Nat) → Nat → Placing → Placing
  | [], _, p => p
  | t :: ts, n, p => placeAll x k ts (n + 1) (placeTree x (if x.output = 0xFF then n % k else x.output.toNat) t p)

/-- The sections of an image at rising offsets; an empty one has offset 0. The order of sections is the model's (log entry 36). -/
def placeSections : List (List Byte) → Nat → List (Nat × List Byte)
  | [], _ => []
  | s :: ss, o => if s.isEmpty then (0, s) :: placeSections ss o else (o, s) :: placeSections ss (alignUp (o + s.length) 256)

/-- Offsets and lengths of rows laid one after another. -/
def runningFrom : List Nat → Nat → List (Nat × Nat)
  | [], _ => []
  | n :: ns, o => (o, n) :: runningFrom ns (o + n)

/-- A feature entry. -/
def featureBytes (f : Feature) (at_ : Nat) : List Byte :=
  leBytes 4 (if f.bounds.isEmpty then 0 else at_) ++ leBytes 2 f.bounds.length ++
    [f.rawFmt, BitVec.ofNat 8 (b2n f.wide), BitVec.ofNat 8 (b2n f.missEn), 0, 0, 0] ++ leBytes 4 f.missValue.toNat

/-- A directory entry. -/
def directoryBytes (t : Tree) (at_ : Nat) : List Byte :=
  leBytes 4 at_ ++ leBytes 4 t.words.length ++ [BitVec.ofNat 8 (b2n t.symmetric), BitVec.ofNat 8 t.depth] ++
    leBytes 2 (t.leaves - 1) ++ zeros 4

/-- A decision table. -/
def decisionBytes (t : Decision) : List Byte :=
  [BitVec.ofNat 8 t.count, t.nanCode, t.poisonCode, 0] ++
    slice ((t.thresholds.map (fun x => leBytes 4 x.toNat)).flatten) 0 60 ++ slice t.codes 0 16 ++ zeros 48

/-- The sections' bytes: features, boundaries, directory, nodes, maps, leaves, base scores, table, decision. -/
def sectionBytes (e : Ensemble) : List (List Byte) :=
  let w4 (l : List U32) : List Byte := (l.map (fun x => leBytes 4 x.toNat)).flatten
  [((e.features.zip (runningFrom (e.features.map (fun f => f.bounds.length)) 0)).map (fun p => featureBytes p.1 p.2.1)).flatten,
   w4 ((e.features.map (·.bounds)).flatten),
   ((e.trees.zip (runningFrom (e.trees.map (fun t => t.words.length)) 0)).map (fun p => directoryBytes p.1 p.2.1)).flatten,
   ((e.trees.map (·.words)).flatten.map (fun x => leBytes 8 x.toNat)).flatten, e.catmaps.flatten, w4 e.leaves.flatten, w4 e.base,
   w4 e.pwl,
   match e.decision with
   | some t => decisionBytes t
   | none => []]

/-- The image of an ensemble (R127): header, then its sections, with IMAGE_CHECK over the whole. -/
def imageBytes (e : Ensemble) : List Byte :=
  let secs := placeSections (sectionBytes e) 256
  let body := secs.foldl (fun (b : List Byte) s => if s.2.isEmpty then b else b ++ zeros (s.1 - 256 - b.length) ++ s.2) []
  let head := leBytes 4 0x4E45514C ++ leBytes 2 1 ++
    [BitVec.ofNat 8 (b2n e.fixedPoint), BitVec.ofNat 8 e.scale, BitVec.ofNat 8 e.outputs, e.transform, e.decisionOut, 0] ++
    leBytes 4 e.features.length ++ leBytes 4 e.trees.length ++ leBytes 4 e.leaves.length ++ leBytes 4 e.catmaps.length ++ zeros 4 ++
    leBytes 8 (256 + body.length) ++ (secs.map (fun s => leBytes 8 s.1)).flatten
  let tail := zeros 140 ++ body
  head ++ leBytes 4 (crc32c (head ++ zeros 4 ++ tail)).toNat ++ tail

/-- Whether contents pass R132: counts in range, every split of a general tree on a feature of the image with a threshold in its
range, and every LF32 leaf finite. -/
def contentOk (e : Ensemble) : Bool :=
  decide (e.trees.length ≤ 1048576 ∧ e.leaves.length ≤ 2 ^ 28) && (e.fixedPoint || e.leaves.flatten.all (fun x => isFin32 x.toNat)) &&
    e.trees.all (fun t => t.symmetric || t.words.all (fun w => decide (wKind w = 1) || splitOk e.features e.catmaps.length w))

/-! ## Publishing a round (R202) -/

/-- The first image slot into which no live version of any ensemble reaches. -/
def Dev.freeSlot (d : Dev) (y : ScheduleAt) : Option Nat :=
  ((List.range y.imageSlots.toNat).map (fun k => y.imageArea.toNat + k * y.slotBytes.toNat)).find? (fun a =>
    d.scoring.ensembles.all (fun o => (pruneVersions o.2).versions.all (fun v =>
      decide (v.addr + v.bytes ≤ a ∨ a + y.slotBytes.toNat ≤ v.addr))))

/-- End a round: its trees are dropped. -/
def Session.endRound (s : Session) : Session :=
  { s with inRound := false, tree := none, totals := [], parents := [], finished := [], treeInRound := 0 }

/-- Contents of no tree, in the form of a session. -/
def Session.bare (s : Session) : Ensemble :=
  { fixedPoint := s.fixedPoint, scale := s.scale, outputs := s.outputs, transform := 0, decisionOut := 0xFF, features := [], trees := [],
    catmaps := [], leaves := [], base := [], pwl := [], decision := none }

/-- How a publication of a round comes out: its code (R547), where, and what is placed. The image is built from the current
version; where that differs and REBASE is clear, from the base version. An ensemble deleted since the round began refuses it,
though its ID names another now (R157). -/
def judgeRound (s : Session) (x : Schedule) (y : ScheduleAt) (rebase : Bool) (d : Dev) : Nat × Nat × Placing :=
  let ens := x.ensemble.toNat
  let o := d.ens ens
  let base := s.content.getD s.bare
  let under := if !rebase && decide (o.current ≠ s.base) then base else ((d.currentVersion ens).map (·.content)).getD base
  let p := placeAll x s.outputs s.finished 0 { content := under, cursor := s.cursor, first := none, replFirst := none, replaced := 0 }
  let slot := d.freeSlot y
  let long := decide (y.slotBytes.toNat < (imageBytes p.content).length)
  (if o.era ≠ s.era then 8 else publishCode d ens (if contentOk p.content then some p.content else none) s.base rebase long slot.isNone,
   slot.getD 0, p)

/-- Publish a finished round, refuse it, or wait for its retry (R202). The session and the report take the outcome. -/
def publishGrown (q : Nat) (c : Cmd) (n : Nat) (r : GrowRetry) (d : Dev) : Dev :=
  match r.session.sched with
  | none => d
  | some (x, y) =>
    let s := r.session
    let rebase := bitOf (field c.bytes 0x22 1) 1
    let (code, slot, p) := judgeRound s x y rebase d
    let i := c.index
    if code = 5 ∨ (code = 0 ∧ d.inOrder 0x18 x.ensemble.toNat = false) then
      let d := { d with retries := d.retries.filter (fun k => decide (k.1 ≠ n)) ++ [(n, r)] }
      modCmd q i (fun c => { c with work := .growRetry n }) d
    else
      let d := { d with retries := d.retries.filter (fun k => decide (k.1 ≠ n)) }
      let d := modCmd q i (fun c => { c with work := .plain }) d
      if code ≠ 0 then
        let d := modSession n (fun _ => { s.endRound with scoresValid := false }) d
        finishWith q i 0x20 code (writeReport c { r.report with reject := code, events := r.report.events ||| 0x40 } d)
      else
        let rebased := decide ((d.ens x.ensemble.toNat).current ≠ s.base)
        let invalid := rebased || decide (p.replaced ≠ 0)
        let d := publish x.ensemble.toNat p.content slot (imageBytes p.content).length q i (memWrite 4 slot (imageBytes p.content) false d)
        let v := (d.ens x.ensemble.toNat).current
        let d := modSession n (fun _ =>
          { s.endRound with lastPublished := some v, cursor := p.cursor, scoresValid := s.scoresValid && !invalid }) d
        let ev : BitVec 7 := 0x10 ||| (if rebased then 0x20 else 0) ||| (if invalid then 0x40 else 0)
        let rep := { r.report with
          version := v, first := p.first.getD 0, placed := s.finished.length, replFirst := p.replFirst.getD 0,
          replaced := p.replaced, events := r.report.events ||| ev }
        let d := modCmd q i (fun c => { c with version := v, committed := true }) d
        finishCmd q i (writeReport c rep d)

/-! ## The command (R179 to R182, R190, R204) -/

/-- OP of a GROW. -/
def growOp (b : List Byte) : Nat := field b 0x21 1
/-- SESSION of a GROW. -/
def growNo (b : List Byte) : Nat := field b 0x20 1

/-- The faulty field of a GROW's entry, if any. -/
def growFault (b : List Byte) : Option Nat :=
  firstFault [(0x10, decide (field b 0x10 8 % 256 ≠ 0) || !inSoft (field b 0x10 8) 256),
    (0x18, reportBad b), (0x20, decide (64 ≤ growNo b)),
    (0x21, decide (4 ≤ growOp b)), (0x22, decide (4 ≤ field b 0x22 1)), (0x23, !zeroAt b 0x23 29)]

/-- Whether the command's session does not take it (R179, R182): the field at fault. -/
def sessionFault (d : Dev) (q : Nat) (b : List Byte) : Option Nat :=
  let s := d.session (growNo b)
  let restage := bitOf (field b 0x22 1) 0
  match growOp b with
  | 0 =>
    if s.isOpen then
      (if s.queue ≠ q then some 0x20
       else if !s.inRound && !restage && s.records.isEmpty then some 0x22
       else none)
    else if restage then none else some 0x20
  | 1 => if !s.isOpen || decide (s.queue ≠ q) then some 0x20 else if s.tree.isNone then some 0x21 else none
  | _ => if !s.isOpen || decide (s.queue ≠ q) then some 0x20 else none

/-- A GROW command that is refused (R204): a report of SESSION and OP alone, where the report has a place. -/
def growRefused (q : Nat) (c : Cmd) (detail : Nat) (d : Dev) : Dev :=
  badCommand q c.index detail (if reportBad c.bytes then d else bareReport c d)

/-- The CRC that the modules of a session exchange (R190): the schedule but RECORDS and CODES_ADDR to IMAGE_SLOTS, OP, FLAGS, and
the levels grown as 4 bytes (log entry 37). -/
def growCrc (d : Dev) (b : List Byte) (levels : Nat) : U32 :=
  let x := d.bytesAt (field b 0x10 8) 256
  crc32c (slice x 0 0x30 ++ slice x 0x34 0xC ++ slice x 0x89 119 ++ slice b 0x21 2 ++ leBytes 4 levels)

/-- The schedule a GROW command works by: the round's copy, or the one in memory. -/
def growSchedule (d : Dev) (b : List Byte) : Schedule × ScheduleAt :=
  let s := d.session (growNo b)
  match s.inRound, s.sched with
  | true, some x => x
  | _, _ => parseSchedule (d.bytesAt (field b 0x10 8) 256)

/-- Judge a GROW command before it acts: refused with a DETAIL and the poisoned granules it read, or not (R184, R190, R548). -/
def growJudged (d : Dev) (q : Nat) (b : List Byte) (crcs : List U32) : Option (Nat × Nat) :=
  match growFault b with
  | some o => some (o, 0)
  | none => match sessionFault d q b with
    | some o => some (o, 0)
    | none =>
      let (p, bad) := scheduleFault d b
      let (x, y) := growSchedule d b
      let busy := x.group.any (d.growCoreBusy (growNo b))
      let own := growCrc d b (d.session (growNo b)).levels
      let differ := decide (y.collective ≠ 0xFFFFFFFF) && crcs.any (fun k => decide (k ≠ own))
      if bad || busy || differ || (d.growMembers y).isNone then some (0xFFFFFFFF, p) else none

/-- Whether every other module of the session has brought its part. -/
def growReady (d : Dev) (b : List Byte) (n : Nat) : Bool :=
  let (_, y) := growSchedule d b
  match d.growMembers y with
  | some l => decide (l.length = n + 1)
  | none => true

/-- Start a round (R182, R185): the base version, the staged records and the held scores; none when R184 or R185 refuses it. -/
def startRound (q : Nat) (b : List Byte) (x : Schedule) (y : ScheduleAt) (members : Nat) (d : Dev) : Option (Session × List (Nat × BitVec 6)) :=
  let s := d.session (growNo b)
  let restage := bitOf (field b 0x22 1) 0
  match d.growBase s restage x with
  | none => none
  | some v =>
    if roundFails d x y v members || (!restage && !x.supplied && !s.scoresValid) then none
    else
      let e := v.content
      let s1 := { s with
        isOpen := true, queue := q, sched := some (x, y), inRound := true, base := v.number, content := some e, era := v.era, treeInRound := 0, finished := [],
        tree := none, totals := [], parents := [], cursor := if s.isOpen then s.cursor else x.retireStart.toNat,
        outputs := e.outputs, fixedPoint := e.fixedPoint, scale := e.scale }
      if restage then
        let staged := (List.range y.records.toNat).map (fun r => (r, stageRecord d x y e.fixedPoint e.outputs e.scale r))
        some ({ s1 with cands := d.candList x y, records := staged.map (·.2.1), scoresValid := !x.supplied },
          (staged.map (fun r => r.2.2.map (fun f => (r.1, f)))).flatten)
      else some (s1, [])

/-! ## What this module brings to a session's other modules (R190, R192, R193; log entry 110) -/

/-- The other members of a session that spans modules, with the group. -/
def growOthers (d : Dev) (y : ScheduleAt) : Nat × List Nat :=
  (y.collective.toNat % 4096, if y.collective = 0xFFFFFFFF then []
    else ((d.growMembers y).getD []).filter (fun m => m ≠ d.fabric.cfg.moduleId.toNat))

/-- Send a part of an exchange to each of them. -/
def sendPart (y : ScheduleAt) (crc : U32) (body : List Byte) (d : Dev) : Dev :=
  let (g, ms) := growOthers d y
  forEach (fun m d => sendFlit m 8 false 0 g (body ++ collTrailer crc (d.group g).seq 0 0 5) g d) ms d

/-- Each command's CRC goes to every other module, and counts as a collective of the group. -/
def sendCrc (b : List Byte) (d : Dev) : Dev :=
  let (_, y) := growSchedule d b
  let (g, ms) := growOthers d y
  if ms.isEmpty then d
  else sendPart y (growCrc d b (d.session (growNo b)).levels) [] (modGroup g (fun u => { u with seq := u.seq + 1 }) d)

/-- A cell of a partial histogram in 23 bytes: frontier slot, candidate, bin, totals and tags. -/
def partBytes (u c bin : Nat) (v : Xs × Xs) : List Byte :=
  leBytes 2 u ++ leBytes 2 c ++ leBytes 1 bin ++ leBytes 8 v.1.reg.toNat ++ [v.1.tag] ++ leBytes 8 v.2.reg.toNat ++ [v.2.tag]

/-- Rows of at most n (fuel: the length). -/
def rowsOf {α : Type} (n : Nat) : Nat → List α → List (List α)
  | 0, _ => []
  | k + 1, l => if l.isEmpty then [] else l.take n :: rowsOf n k (l.drop n)

/-- The record counts of the frontier and the partial cells of the built nodes go to every other module. -/
def sendHistograms (x : Schedule) (y : ScheduleAt) (s : Session) (peers : List GrowPeer) (d : Dev) : Dev :=
  if (growOthers d y).2.isEmpty then d
  else
    let counts := (List.range (max 1 (2 * s.parents.length))).map (fun u => leBytes 4 (s.countAt [] u))
    let cells := ((s.built peers).map (fun u =>
      let own := ownCells x s.cands.length (s.records.filter (fun r => r.node = some u))
      ((own.zip (List.range own.length)).map (fun c => c.1.map (fun v => partBytes u c.2 v.1 v.2))).flatten)).flatten
    let d := forEach (fun l => sendPart y 0 l.flatten) (rowsOf 56 counts.length counts) d
    forEach (fun l => sendPart y 0 l.flatten) (rowsOf 10 cells.length cells) d

/-- A report that has only begun. -/
def reportOf (b : List Byte) (s : Session) : GrowReport :=
  { session := growNo b, op := growOp b, events := 0, level := 0xFF, tree := s.treeInRound, split := 0, leaves := 0, version := 0,
    base := s.base, first := 0, placed := 0, replFirst := 0, replaced := 0, excluded := 0, reject := 0, hist := 0 }

/-- The records excluded from the tree in progress. -/
def Session.excludedCount (s : Session) : Nat := (s.records.filter (·.excluded)).length

/-- After a tree's end: the round publishes with its last tree, else the session keeps what it has. -/
def afterTree (q : Nat) (c : Cmd) (x : Schedule) (s : Session) (rep : GrowReport) (d : Dev) : Dev :=
  let n := growNo c.bytes
  let rep := { rep with events := rep.events ||| 4 }
  if x.treesPerRound.toNat ≤ s.treeInRound then
    publishGrown q c n { session := s, report := { rep with events := rep.events ||| 8 } } d
  else finishCmd q c.index (writeReport c rep (modSession n (fun _ => s) d))

/-- LEVEL: staging and a tree's start where they are due, then one level. -/
def levelCmd (peers : List GrowPeer) (q : Nat) (c : Cmd) (x : Schedule) (members rank : Nat) (s0 : Session)
    (began : Bool) (d : Dev) : Dev :=
  let n := growNo c.bytes
  let i := c.index
  let fresh := s0.tree.isNone
  let (s, d) := if fresh then startTree q i x s0 d else (s0, d)
  let level := (s.tree.map (·.2)).getD 0
  let d := match s.sched with
    | some (_, y) => sendHistograms x y s peers d
    | none => d
  let (s, split, leaves, hist, d) := growOne q i x members rank peers s d
  let ends := decide (split = 0 ∨ x.maxDepth.toNat ≤ level + 1)
  let (more, s, d) := if ends then leafFrontier q i x (s, d) else (0, s, d)
  let rep := { reportOf c.bytes s with
    events := (if began then 1 else 0) ||| (if fresh then 2 else 0), level := BitVec.ofNat 8 level, split := split,
    leaves := leaves + more, excluded := s.excludedCount, hist := hist }
  if ends then
    let (s, d) := endTree q i x (s, d)
    afterTree q c x s rep d
  else finishCmd q i (writeReport c rep (modSession n (fun _ => s) d))

/-- The number of this module among the members of a session. -/
def growRank (d : Dev) (y : ScheduleAt) : Nat × Nat :=
  match d.growMembers y with
  | some l => (l.length, d.rankOf l)
  | none => (1, 0)

/-- LEVEL of a command that R184 has not refused: in a round or starting one. -/
def growLevels (peers : List GrowPeer) (q : Nat) (c : Cmd) (d : Dev) : Dev :=
  let (x, y) := growSchedule d c.bytes
  let (members, rank) := growRank d y
  let s := d.session (growNo c.bytes)
  if s.inRound then levelCmd peers q c x members rank s false d
  else match startRound q c.bytes x y members d with
    | none => growRefused q c 0xFFFFFFFF d
    | some (s, fl) =>
      let m := s.records.length
      let d := if bitOf (field c.bytes 0x22 1) 0 then copyStaged x y s (countStaging q c.index x y s.outputs d) else d
      let d := forEach (fun p d => growFlags q c.index (x.coreOf p 0)
        (plainFlags ((fl.filter (fun f => decide (f.2 ≠ 0 ∧ partOf x.parts.toNat m f.1 = p))).map (·.2))) d) (List.range x.parts.toNat) d
      levelCmd peers q c x members rank s true d

/-- END_TREE: every frontier node becomes a leaf. -/
def growEnds (q : Nat) (c : Cmd) (d : Dev) : Dev :=
  let (x, _) := growSchedule d c.bytes
  let s := d.session (growNo c.bytes)
  let (leaves, s, d) := leafFrontier q c.index x (s, d)
  let rep := { reportOf c.bytes s with leaves := leaves, excluded := s.excludedCount }
  let (s, d) := endTree q c.index x (s, d)
  afterTree q c x s rep d

/-- DISCARD and CLOSE. EVENTS has SCORES_INVALID alone (DESIGN CHOICE, log entry 109). -/
def growDrops (close : Bool) (q : Nat) (c : Cmd) (d : Dev) : Dev :=
  let n := growNo c.bytes
  let s := d.session n
  let rep := { reportOf c.bytes s with events := 0x40 }
  finishCmd q c.index (writeReport c rep
    (modSession n (fun s => if close then Session.reset else { s.endRound with scoresValid := false }) d))

/-- A GROW command of any OP: judged, then acted on. -/
def growCmd (crcs : List U32) (f : Nat → Cmd → Dev → Dev) (q : Nat) (c : Cmd) (d : Dev) : Dev :=
  match growJudged d q c.bytes crcs with
  | some (o, p) => growRefused q c o (if p = 0 then d else modCmd q c.index (fun c => { c with poisonIn := stick32 c.poisonIn p }) d)
  | none => f q c (sendCrc c.bytes d)

/-- Run a GROW of an OP once every other module's part is there. A faulty OP is refused as a LEVEL. -/
def runGrow (op : Nat) (crcs : List U32) (f : Nat → Cmd → Dev → Dev) (q : Nat) (d : Dev) : Dev :=
  let kind (b : List Byte) : Bool := isOpcode 3 b && (decide (growOp b = op) || (decide (op = 0) && decide (4 ≤ growOp b)))
  match d.head q with
  | none => d
  | some (b, _, _) =>
    if (growJudged d q b crcs).isNone && !growReady d b crcs.length then d
    else startKind q kind 4 (growCmd crcs f q) d

/-- GROW_LEVEL. -/
def execGrowLevel (q : QueueId) (peers : List GrowPeer) (s : State) : Host.Outcome State Fault Refusal :=
  lift (runGrow 0 (peers.map (·.crc)) (growLevels peers) q.toNat) s

/-- GROW_END_TREE. -/
def execGrowEndTree (q : QueueId) (crcs : List U32) (s : State) : Host.Outcome State Fault Refusal :=
  lift (runGrow 1 crcs growEnds q.toNat) s

/-- GROW_DISCARD. -/
def execGrowDiscard (q : QueueId) (crcs : List U32) (s : State) : Host.Outcome State Fault Refusal :=
  lift (runGrow 2 crcs (growDrops false) q.toNat) s

/-- GROW_CLOSE. -/
def execGrowClose (q : QueueId) (crcs : List U32) (s : State) : Host.Outcome State Fault Refusal :=
  lift (runGrow 3 crcs (growDrops true) q.toNat) s

end Sys2Proof.Machine
end

