-- ==== Sys2Proof/Machine/MeshNet.lean ====
section
/-! DEFINITION. The mesh: route programs of jobs, and thread mode with its packets (R60, R72 to R74, R77 to R79, R101, R297). -/

namespace Sys2Proof.Machine
open Sys2Proof

/-! ## Route programs (R72 to R74, R101) -/

/-- The flit at an input port of a position. -/
def Job.flitAt (j : Job) (pos port : Nat) : Option MeshFlit := (j.flits.find? (fun f => f.1 = 4 * pos + port)).map (·.2)

/-- What a route entry puts on its output port: a line of local memory, or the flit of an input port. -/
def portFlit (d : Dev) (j : Job) (r : RouteStep) : Option MeshFlit :=
  match r.src with
  | .port p => j.flitAt r.pos p
  | .lm a n t k => some { bytes := (d.core r.pos).marked a n, tags := (d.core r.pos).marked t k }

/-- The XS elements of a flit, each with the poison of its bytes (R101). -/
def MeshFlit.elems (f : MeshFlit) (wide : Bool) : List (Xs × Bool) :=
  (f.tags.zip (List.range f.tags.length)).map (fun t =>
    let b := (f.bytes.drop (xsSize wide * t.2)).take (xsSize wide)
    ({ reg := xsReg wide (leNat (b.map (·.1))), tag := t.1.1 }, b.any (·.2) || t.1.2))

/-- A flit leaves the mesh: into local memory, or added to the XS totals there (R44, R101). -/
def landFlitAt (r : RouteSink) (f : MeshFlit) (d : Dev) : Dev :=
  match r.xs with
  | none => modCore r.pos (fun c => c.land r.addr f.bytes) d
  | some (wide, tags) =>
    let c := d.core r.pos
    let es := (f.elems wide).zip (List.range f.tags.length)
    let rs := es.map (fun e =>
      let t := c.xsAt wide r.addr tags e.2
      let a := addToTotal wide t.1 e.1.1 0
      ((a.1, t.2 || e.1.2), a.2))
    let d := modCore r.pos (fun c => c.setXs wide r.addr tags (rs.map (·.1))) d
    recordOccs (d.ownerOf r.pos) r.pos 3 0xFFFFFFFF
      ((rs.zip (List.range rs.length)).map (fun e => occsOfTrace e.1.2 0 (e.2 % 128) 0xFFFFFFFF)).flatten d

/-- One cycle of a job's schedule (R72): every output port takes its source, and the flits whose way ends are in local memory
before the next cycle. -/
def meshCycle (j : Job) (d : Dev) : Dev :=
  let new := (j.route.filter (fun r => r.cycle = j.cycle)).filterMap (fun r =>
    (portFlit d j r).map (fun f => (4 * beyond r.pos r.out + facing r.out, f)))
  let d := forEach (fun (r : RouteSink) d => match j.flitAt r.pos r.port with
    | some f => landFlitAt r f d
    | none => d) (j.sinks.filter (fun r => r.cycle = j.cycle)) d
  modJob j.queue j.index (fun j => { j with cycle := j.cycle + 1, flits := new }) d

/-- Cycles of a job's schedule pass (fuel: the cycles). -/
def meshCycles (q : Nat) (i : U32) : Nat → Dev → Dev
  | 0, d => d
  | n + 1, d => match d.job q i with
    | none => d
    | some j => meshCycles q i n (meshCycle j d)

/-- Whether a job's schedule goes on: not held or preempted (R74, R124), and not stopped at a barrier that all its cores await
(R75). -/
def Dev.jobMoves (d : Dev) (j : Job) : Bool :=
  !j.held && !j.preempted && !j.cores.all (fun c => match d.placeOf c with
    | some p => !(d.core p).waiting.isEmpty
    | none => true)

/-- The arithmetic cycles of one Den cycle pass for every job (R358, R497); a job with no route program only counts them. -/
def meshJobs (d : Dev) : Dev :=
  let n := d.power.step.toNat
  forEach (fun (j : Job) d =>
    if d.jobMoves j = false then d
    else if j.route.isEmpty && j.flits.isEmpty then modJob j.queue j.index (fun j => { j with cycle := j.cycle + n }) d
    else meshCycles j.queue j.index n d) d.mesh.jobs d

/-! ## Packets of thread mode (R79) -/

/-- The output port of a packet: dimension order, the column first and then the row; 4 is the core itself. -/
def Packet.out (k : Packet) : Nat := if k.pos = k.dst then 4 else portTo k.pos k.dst

/-- The packets at the head of their input ports. -/
def headPackets : List Packet → List (Nat × Nat) → List Packet
  | [], _ => []
  | k :: ks, seen =>
    if seen.contains (k.pos, k.inPort) then headPackets ks seen else k :: headPackets ks ((k.pos, k.inPort) :: seen)

/-- The packet that an output port serves next: the first input port after the one it served last, in turn (R79). -/
def nextServed (last : Nat) (heads : List Packet) : Option Packet :=
  ((rangeFrom (last + 1) 5).map (· % 5)).findSome? (fun p => heads.find? (fun k => k.inPort = p))

/-- A packet arrives at the core that it names: a request is answered with the bytes that it asks for, and a reply's bytes
wait for the thread that blocks on them. -/
def packetArrives (k : Packet) (d : Dev) : Dev :=
  if k.reply then
    modCore k.dst (fun c => { c with threads := upd Thread.reset c.threads k.thread (fun t => { t with
      read := t.read.map (fun r => { r with arrived := some k.data }) }) }) d
  else
    let r : Packet := { k with pos := k.dst, inPort := 4, dst := k.reader, reply := true, data := (d.core k.dst).marked k.addr k.bytes }
    { d with mesh := { d.mesh with packets := d.mesh.packets ++ [r] } }

/-- A packet crosses an output port. -/
def movePacket (k : Packet) (d : Dev) : Dev :=
  let o := k.out
  let d := { d with mesh := { d.mesh with
    packets := d.mesh.packets.erase k, served := put 0 d.mesh.served (5 * k.pos + o) k.inPort } }
  if o = 4 then packetArrives k d
  else { d with mesh := { d.mesh with packets := d.mesh.packets ++ [{ k with pos := beyond k.pos o, inPort := facing o }] } }

/-- One cycle of the routers in thread mode: each output port passes one packet. -/
def packetCycle (d : Dev) : Dev :=
  let heads := headPackets d.mesh.packets []
  let ports := (heads.map (fun k => (k.pos, k.out))).eraseDups
  forEach (fun (po : Nat × Nat) d' =>
    match nextServed (look 0 d.mesh.served (5 * po.1 + po.2)) (heads.filter (fun k => decide ((k.pos, k.out) = po))) with
    | some k => movePacket k d'
    | none => d') ports d

/-- Cycles of the routers in thread mode (fuel: the cycles). -/
def packetCycles : Nat → Dev → Dev
  | 0, d => d
  | n + 1, d => if d.mesh.packets.isEmpty then d else packetCycles n (packetCycle d)

/-- What the mesh does in one Den cycle. -/
def meshEdge (d : Dev) : Dev := packetCycles d.power.step.toNat (meshJobs d)

/-! ## Threads (R77, R78, R297) -/

/-- A thread of a core. -/
def Core.thread (c : Core) (t : Nat) : Thread := look Thread.reset c.threads t
/-- Change a thread of a core. -/
def Core.modThread (t : Nat) (f : Thread → Thread) (c : Core) : Core := { c with threads := upd Thread.reset c.threads t f }
/-- A register of a thread. -/
def Thread.reg (t : Thread) (r : Nat) : U64 := look 0 t.regs r
/-- Write a register of a thread. -/
def Thread.set (t : Thread) (r : Nat) (v : U64) : Thread := { t with regs := put 0 t.regs r v }
/-- Whether nothing blocks a thread. -/
def Thread.ready (t : Thread) : Bool := t.read.isNone && t.swap.isNone

/-- The next ready thread after the one that issued last, in round-robin order. -/
def Core.nextThread (c : Core) : Option Nat :=
  ((rangeFrom (c.lastThread + 1) 16).map (· % 16)).find? (fun t => (c.thread t).ready)

/-- An operation of a unit that the threads of the core at p share. -/
def unitRuns (p : Nat) (op : UnitOp) (d : Dev) : Dev :=
  match op with
  | .arrayStep op => arrayStepRuns p op d
  | .weightLoad fmt addr errors => weightLoads p fmt addr.toNat errors d
  | .weightSwap => weightSwaps p d
  | .vectorOp op => vecRuns p op d
  | .promotion op => promotes p op d
  | .preload op => preloads p op d
  | .outputStage op => outStageRuns p op d
  | .moments op => momentsRuns p op d
  | .sumsq op => sumsqRuns p op d
  | .momentsFinish op => momFinishRuns p op d

/-- A blocking read leaves the core: a packet to another core, or a read of the host. -/
def sendFar (p t : Nat) (src : FarSrc) (bytes : Nat) (d : Dev) : Dev :=
  match src with
  | .stacks _ => d
  | .host a => hostRead (2 ^ 21 + 1 + 16 * p + t) a.toNat bytes d
  | .core dst a =>
    { d with mesh := { d.mesh with packets := d.mesh.packets ++
      [{ pos := p, inPort := 4, dst := dst.val, reader := p, thread := t, reply := false, addr := a.toNat, bytes := bytes, data := [] }] } }

/-- A SWAP of a thread: it blocks the thread until the half that it needs is complete (R297). -/
def threadSwap (p t s : Nat) (d : Dev) : Dev :=
  if (d.slot s).swappable then exchange s d
  else if (d.slot s).working then modCore p (Core.modThread t (fun y => { y with swap := some s })) d
  else d

/-- One instruction of thread t of the core at p; its program counter moves on. -/
def threadRun (p t : Nat) (i : ThreadInstr) (d : Dev) : Dev :=
  let x := (d.core p).thread t
  let d := modCore p (fun c => (c.modThread t (fun y => { y with pc := y.pc + 1 }))) d
  let change (f : Thread → Thread) : Dev := modCore p (Core.modThread t f) d
  match i with
  | .setReg rd v => change (fun y => y.set rd.val v)
  | .add rd ra rb => change (fun y => y.set rd.val (x.reg ra.val + x.reg rb.val))
  | .loadLocal rd a => change (fun y => y.set rd.val (BitVec.ofNat 64 (leNat ((d.core p).bytesAt a.toNat 8))))
  | .storeLocal rs a => modCore p (fun c => c.write a.toNat (leBytes 8 (x.reg rs.val).toNat) false) d
  | .readFar src n dest =>
    sendFar p t src n.val (change (fun y => { y with read := some { src := src, bytes := n.val, dest := dest.toNat, arrived := none } }))
  | .useUnit op => unitRuns p op d
  | .swap s => threadSwap p t (8 * p + s.val) d
  | .jump target => change (fun y => { y with pc := target })

/-- THREAD_ISSUE: the core's next ready thread issues one instruction. -/
def threadIssues (p : Nat) (i : ThreadInstr) (d : Dev) : Dev :=
  let c := d.core p
  if !c.entry.thread then d
  else match c.nextThread with
    | none => d
    | some t => threadRun p t i (modCore p (fun c => { c with lastThread := t }) d)

/-- THREAD_ISSUE. -/
def execThreadIssue (p : PosId) (instr : ThreadInstr) (s : State) : Host.Outcome State Fault Refusal :=
  lift (threadIssues p.val instr) s

/-- The data of a blocking read, once they have arrived: from the stacks, from the host as given, or over the mesh. -/
def farData (r : FarRead) (given : List Byte) (d : Dev) : Option (List (Byte × Bool)) :=
  match r.src with
  | .stacks a => if inSoft a.toNat r.bytes then some (d.marked a.toNat r.bytes) else none
  | .host _ => some ((given.take r.bytes).map (fun b => (b, false)))
  | .core _ _ => r.arrived

/-- THREAD_READ_RETURN: the data of a blocking read land in local memory, and the thread becomes ready. -/
def threadReturns (p t : Nat) (given : List Byte) (d : Dev) : Dev :=
  let c := d.core p
  match if c.entry.thread then (c.thread t).read else none with
  | none => d
  | some r => match farData r given d with
    | none => d
    | some data =>
      let d := match r.src with
        | .stacks a => countPoisonReads a.toNat r.bytes (countAccess 0 false a.toNat r.bytes d)
        | _ => d
      modCore p (fun c => (if inLm r.dest data.length then c.land r.dest data else c).modThread t (fun y => { y with read := none })) d

/-- THREAD_READ_RETURN. -/
def execThreadReadReturn (p : PosId) (thread : Fin 16) (bytes : List Byte) (s : State) : Host.Outcome State Fault Refusal :=
  lift (threadReturns p.val thread.val bytes) s

end Sys2Proof.Machine
end

