-- ==== Sys2Proof/Machine/Links.lean ====
section
/-! DEFINITION. Links: training, the receive rule, control flits, resends, loss, rings and NOTICEs, transit (R410 to R425, R434 to R439). -/

namespace Sys2Proof.Machine
open Sys2Proof

/-! ## Faces and neighbours (R410, R411) -/

/-- Dimension and direction of a link's face. -/
def linkDim (n : Nat) : Nat := n / 8 / 2
/-- Whether a link's face is a + face. -/
def linkPlus (n : Nat) : Bool := decide (n / 8 % 2 = 1)

/-- Whether a face joins a neighbour: a dimension of size 1 uses neither face, and one without wrap ends at its ends. -/
def FabricCfg.usesFace (c : FabricCfg) (dim : Nat) (plus : Bool) : Bool :=
  let own := c.moduleId.toNat
  c.configured && decide (1 < c.size dim) && (c.wraps dim || !passesEnd c own dim plus)

/-- The neighbour that a link's face joins. -/
def FabricCfg.peerOf (c : FabricCfg) (n : Nat) : Nat := neighbour c c.moduleId.toNat (linkDim n) (linkPlus n)

/-- Whether a link trains: ENABLE is set and its face joins a neighbour of the configured fabric. -/
def Dev.trains (d : Dev) (n : Nat) : Bool :=
  (d.link n).reg.enable && d.fabric.cfg.usesFace (linkDim n) (linkPlus n) && decide ((d.link n).reg.state ≠ .ethernet)

/-- Change the registers of a link. -/
def modLinkReg (n : Nat) (f : LinkReg → LinkReg) (d : Dev) : Dev := modLink n (fun l => { l with reg := f l.reg }) d
/-- Change the protocol state of a link. -/
def modLinkRun (n : Nat) (f : LinkRun → LinkRun) (d : Dev) : Dev := modLink n (fun l => { l with run := f l.run }) d

/-- Training begins at DETECT (R414). -/
def trainLink (n : Nat) (d : Dev) : Dev :=
  if d.trains n then modLinkReg n (fun r => { r with state := .detect, lanes := 0 }) (modLinkRun n (fun r => { r with failures := 0 }) d)
  else d

/-! ## Breaks of rings (R425) -/

/-- NOTICE: dimension, coordinate, direction, and whether the face is dead. -/
def noticePayload (dim coord : Nat) (plus dead : Bool) : List Byte := pack [(1, dim), (1, coord), (1, b2n plus), (1, b2n dead)] []

/-- The other modules of this module's ring of a dimension. -/
def FabricCfg.ringMates (c : FabricCfg) (dim : Nat) : List Nat :=
  let own := c.moduleId.toNat
  let at_ (v : Nat) := moduleAt (if dim = 0 then v else coordOf own 0) (if dim = 1 then v else coordOf own 1)
    (if dim = 2 then v else coordOf own 2)
  ((List.range (c.size dim)).map at_).filter (fun m => m ≠ own)

/-- The modules that no route of this module reaches now. -/
def FabricCfg.cutOff (c : FabricCfg) : List Nat :=
  let own := c.moduleId.toNat
  let dims := [0, 1, 2].filter (fun dim => !(c.breaks.filter (fun b => b.1 = dim)).isEmpty)
  if dims.isEmpty then []
  else (((List.range c.sizeZ).map (fun z => ((List.range c.sizeY).map (fun y =>
    (List.range c.sizeX).map (fun x => moduleAt x y z))).flatten)).flatten).filter
      (fun m => decide (m ≠ own) && (nextHop c [] own m).isNone)

/-- Jobs that need a module which cannot be reached end (R425, R376). -/
def endCutJobs (d : Dev) : Dev :=
  forEach (fun (k : Nat × U32) d => replayHere k.1 k.2 d)
    ((d.mesh.jobs.filter (fun j => (d.jobModules j).any (fun m => !d.reachable m))).map (fun j => (j.queue, j.index))) d

/-- Note that a face of a module of this ring is dead, or live again. -/
def setBreak (dim coord : Nat) (plus dead : Bool) (d : Dev) : Dev :=
  let c := d.fabric.cfg
  let rest := c.breaks.filter (fun b => b ≠ (dim, coord, plus))
  let c := { c with breaks := if dead then rest ++ [(dim, coord, plus)] else rest }
  endCutJobs { d with fabric := { d.fabric with cfg := { c with unreachable := c.cutOff } } }

/-- Tell the ring that a face of this module is dead, or live again. -/
def noticeRing (dim : Nat) (plus dead : Bool) (d : Dev) : Dev :=
  let coord := coordOf d.fabric.cfg.moduleId.toNat dim
  let d := setBreak dim coord plus dead d
  forEach (fun m d => sendFlit m 0xD true 0 0 (noticePayload dim coord plus dead) 0 d) (d.fabric.cfg.ringMates dim) d

/-! ## Loss of a link (R422, R434) -/

/-- Whether a flow leaves or comes in by a link: origin, destination, flow key (R424). -/
def Dev.flowOn (d : Dev) (n origin dest key : Nat) : Bool :=
  let c := d.fabric.cfg
  let own := c.moduleId.toNat
  let pick (face : Nat) : Bool :=
    let l := d.liveLinks face
    !l.isEmpty && decide (l.getD ((key + origin + dest) % l.length) 0 = n)
  if origin = own then
    match nextHop c [] own dest with
    | some (dim, plus) => pick (faceOf dim plus)
    | none => false
  else
    match [2, 1, 0].find? (fun dim => coordOf origin dim ≠ coordOf own dim) with
    | none => false
    | some dim => match directionOf c dim false (coordOf origin dim) (coordOf own dim) with
      | some plus => pick (faceOf dim (!plus))
      | none => false

/-- Whether Badger requests of this module, or rows gathered for it, use a link (R424): the flow key is the table ID. -/
def Dev.badgerOn (d : Dev) (n : Nat) : Bool :=
  let own := d.fabric.cfg.moduleId.toNat
  d.embed.tables.any (fun t => match t.2.desc with
    | none => false
    | some x => (d.ranks x).any (fun m => decide (m ≠ own) && (d.flowOn n own m t.1 || d.flowOn n m own t.1)))

/-- Whether a job's streams or collectives use a link. -/
def Dev.jobOn (d : Dev) (n : Nat) (j : Job) : Bool :=
  let own := d.fabric.cfg.moduleId.toNat
  let streams := (d.slotsOf j.queue j.index).any (fun s => match (d.slot s).desc with
    | none => false
    | some x =>
      if x.farKind = 4 then d.badgerOn n
      else if !d.overLinks x then false
      else if x.farKind = 5 then
        (let m := bits x.farAddr.toNat 27 14
         if x.out then d.flowOn n own m (d.streamNo s) else d.flowOn n m own (x.farAddr.toNat % 2 ^ 14))
      else
        (let m := x.farAddr.toNat / 2 ^ 40
         d.flowOn n own m (d.streamNo s) || d.flowOn n m own (d.streamNo s)))
  let mates := match d.jobGroup j with
    | some g => (((d.memberBox g).map Box.members).getD []).any (fun m =>
        decide (m ≠ own) && (d.flowOn n own m g || d.flowOn n m own g))
    | none => false
  streams || mates

/-- Lose a link: 0x5004, its data flits are discarded, urgent ones and those that waited go by other links, a face with no
live link left is told to its ring, and the jobs whose flows it carried are replayed. -/
def loseLink (n : Nat) (d : Dev) : Dev :=
  let jobs := (d.mesh.jobs.filter (d.jobOn n)).map (fun j => (j.queue, j.index))
  let r := (d.link n).run
  let again := r.unacked.filter flitUrgent ++ r.waiting
  let d := linkEvent 0x5004 n (bump (cLink n 6) 1 d)
  let d := modLinkRun n (fun r => { LinkRun.reset with failures := r.failures, coefficients := r.coefficients }) d
  let d := if (d.liveLinks (n / 8)).isEmpty then noticeRing (linkDim n) (linkPlus n) true d else d
  let own := d.fabric.cfg.moduleId
  let d := forEach (fun f d => routeFlit (if f.origin = own then none else some (linkDim n)) f d) again d
  forEach (fun (k : Nat × U32) d => replayJob k.1 k.2 d) jobs d

/-- LINK_DOWN (R422): not ACTIVE 100 ms after its RETRAIN began. -/
def linkDowns (n : Nat) (d : Dev) : Dev :=
  match (d.link n).run.retrainAt with
  | none => d
  | some t => if (d.link n).reg.state ≠ .active ∧ 1600000000 ≤ (d.time.ft - t).toNat then loseLink n d else d

/-- LINK_DOWN. -/
def execLinkDown (n : LinkId) (s : State) : Host.Outcome State Fault Refusal := lift (linkDowns n.val) s

/-! ## ENABLE and training (R414 to R416, R437) -/

/-- LINK_ENABLE (R437): it trains a DISABLED link; an Ethernet port ignores it. -/
def enableLink (n : Nat) (d : Dev) : Dev :=
  let r := (d.link n).reg
  if r.state = .ethernet then d
  else
    let d := modLinkReg n (fun r => { r with enable := true }) d
    if r.state = .disabled then trainLink n d else d

/-- LINK_ENABLE. -/
def execLinkEnable (n : LinkId) (s : State) : Host.Outcome State Fault Refusal := lift (enableLink n.val) s

/-- LINK_DISABLE (R434): an ACTIVE link, or one that retrains, is lost at once. -/
def disableLink (n : Nat) (d : Dev) : Dev :=
  let l := d.link n
  if l.reg.state = .ethernet then d
  else
    let carries := l.reg.state = .active ∨ l.run.retrainAt ≠ none
    let d := modLinkReg n (fun r => { r with enable := false, state := .disabled, lanes := 0 }) d
    let d := modLinkRun n (fun r => { r with failures := 0 }) d
    if carries then loseLink n d else d

/-- LINK_DISABLE. -/
def execLinkDisable (n : LinkId) (s : State) : Host.Outcome State Fault Refusal := lift (disableLink n.val) s

/-- Whether a link is in a training state. -/
def LState.training : LState → Bool
  | .detect => true | .equalise => true | .laneMap => true | .lock => true | .identify => true | .retrain => true
  | .disabled => false | .active => false | .failed => false | .ethernet => false

/-- LINK_DETECT_RETRY (R414): no peer answers, and DETECT goes on. -/
def execLinkDetectRetry (n : LinkId) (s : State) : Host.Outcome State Fault Refusal :=
  lift (fun d => if (d.link n.val).reg.state = .detect then modLinkReg n.val (fun r => { r with lanes := 0 }) d else d) s

/-- Lanes of a result that failed. -/
def lanesBad (r : TrainResult) : Nat := ((List.range 4).filter (fun i => bitOf r.badLanes.toNat i)).length

/-- Whether the lane order is one that R415 corrects. -/
def laneOrderOk (r : TrainResult) : Bool :=
  decide (r.laneOrder = [0, 1, 2, 3] ∨ r.laneOrder = [3, 2, 1, 0])

/-- Whether the peer is the one that R410 and R411 expect on a link. -/
def peerExpected (r : TrainResult) (c : FabricCfg) (n : Nat) : Bool :=
  decide (r.peerId.toNat = c.peerOf n ∧ r.peerFace.toNat = faceOf (linkDim n) (!linkPlus n) ∧ r.peerLink.toNat = n % 8)

/-- A miswire (R415). -/
def miswire (n : Nat) (d : Dev) : Dev :=
  linkEvent 0x5003 n (hwSet (0x60000 + 8 * n) 16 (modLinkReg n (fun r => { r with miswire := true, state := .failed, lanes := 0 }) d))

/-- A training that failed: three full ones in a row leave the link FAILED; a RETRAIN goes on to DETECT (R414, R422). -/
def trainFails (n : Nat) (d : Dev) : Dev :=
  if (d.link n).reg.state = .retrain then modLinkReg n (fun r => { r with state := .detect, lanes := 0 }) d
  else
    let k := (d.link n).run.failures + 1
    let d := modLinkRun n (fun r => { r with failures := k }) d
    modLinkReg n (fun r => { r with state := if 3 ≤ k then .failed else .detect, lanes := 0 }) d

/-- Send again what a link still keeps, in order (R421, R422). -/
def resendAll (n : Nat) (fs : List Flit) (d : Dev) : Dev :=
  bump (cLink n 0) fs.length { d with out := { d.out with flits := d.out.flits ++ fs.map (fun f => (n, f)) } }

/-- A training that found a good link: ACTIVE, with 4 lanes or 3 (R415, R416); what it kept is sent again. -/
def trainDone (n : Nat) (r : TrainResult) (d : Dev) : Dev :=
  let old := (d.link n).reg.dropped
  let d := modLinkReg n (fun x => { x with
    state := .active, lanes := 4 - lanesBad r, reversed := decide (r.laneOrder = [3, 2, 1, 0]), polarity := r.inverted,
    dropped := r.badLanes, peerId := r.peerId, peerFace := r.peerFace, peerLink := r.peerLink }) d
  let d := modLinkRun n (fun x => { x with
    failures := 0, resends := 0, discarding := false, retrainAt := none, roundTrip := r.roundTrip, coefficients := true }) d
  let d := if r.badLanes ≠ old ∧ r.badLanes ≠ 0 then linkEvent 0x5002 n (bump (cLink n 5) 1 d) else d
  drainLink n (d.link n).run.waiting.length (resendAll n (d.link n).run.unacked d)

/-- Judge what a training found (R415, R416). -/
def judgeTraining (n : Nat) (r : TrainResult) (good : Bool) (d : Dev) : Dev :=
  if !((d.link n).reg.state.training) || !d.trains n then d
  else if 2 ≤ lanesBad r then trainFails n d
  else if !laneOrderOk r || !peerExpected r d.fabric.cfg n then miswire n d
  else if good then trainDone n r d
  else trainFails n d

/-! ## The receive rule and control flits (R420, R421) -/

/-- A control flit sent on a link: the highest SEQ in order, a resend request, the credits returned, lane health. -/
def sendControl (n : Nat) (resend : Option (BitVec 12)) (credits : List Nat) (d : Dev) : Dev :=
  let c : CtlFlit := { ackSeq := (d.link n).run.rxSeq - 1, resend := resend, credits := credits, lanesOk := ~~~(d.link n).reg.dropped,
                       fec := 0 }
  { d with out := { d.out with controls := d.out.controls ++ [(n, c)] } }

/-- Discard a flit (R421): the receiver asks for a resend from the SEQ it expects. -/
def discardFlit (n : Nat) (seq : BitVec 12) (d : Dev) : Dev :=
  let r := (d.link n).run
  if r.discarding = true ∧ seq ≠ r.rxSeq then d
  else sendControl n (some r.rxSeq) [0, 0, 0, 0] (modLinkRun n (fun r => { r with discarding := true }) d)

/-- A 32-bit stamp extended to 64 bits (R364): the value nearest to fabric time whose low bits equal the stamp. -/
def extendStamp (now : U64) (stamp : U32) : U64 := now + (stamp - now.setWidth 32).signExtend 64

/-- Take a flit in order: it counts, its stamp is extended, and its buffer's credit goes back (log entry 30). -/
def takeFlit (n : Nat) (f : Flit) (d : Dev) : Dev :=
  let d := modLinkRun n (fun r => { r with
    rxSeq := r.rxSeq + 1, discarding := false, flitStamp := extendStamp d.time.ft f.stamp }) d
  sendControl n none ([0, 0, 0, 0].set (flitVc f) 1) (bump (cLink n 1) 1 d)

/-- A data flit of some types arrives on a link for this module: judged by its SEQ, taken, and acted on. -/
def onFlit (n : Nat) (types : List Nat) (f : Flit) (act : Dev → Dev) (d : Dev) : Dev :=
  if (d.link n).reg.state ≠ .active ∨ types.contains f.type.toNat = false ∨ f.dest ≠ d.fabric.cfg.moduleId then d
  else
    let d := bump (cLink n 2) f.fec.val d
    if f.seq ≠ (d.link n).run.rxSeq then discardFlit n f.seq d else act (takeFlit n f d)

/-- UNCORRECTABLE_FLIT (R421). -/
def execUncorrectableFlit (n : LinkId) (seq : BitVec 12) (s : State) : Host.Outcome State Fault Refusal :=
  lift (fun d => if (d.link n.val).reg.state = .active then discardFlit n.val seq d else d) s

/-- BAD_FLIT (R419): a reserved TYPE. -/
def execBadFlit (n : LinkId) (f : Flit) (s : State) : Host.Outcome State Fault Refusal :=
  lift (onFlit n.val [0, 0xE, 0xF] f (bump (cLink n.val 8) 1)) s

/-- The I/O tile of a link: 0 west, 1 east (R18). -/
def tileOf (n : Nat) : Nat := if n < 24 then 0 else 1

/-- Pass a flit on toward its module (R423, R424); one that changes tiles crosses the bridge, which the tile it came in
by counts. -/
def passFlit (n : Nat) (f : Flit) (d : Dev) : Dev :=
  let c := d.fabric.cfg
  let crosses := match nextHop c [] c.moduleId.toNat f.dest.toNat with
    | some (dim, plus) => decide (tileOf (8 * faceOf dim plus) ≠ tileOf n)
    | none => false
  routeFlit (some (linkDim n)) f (guarded crosses (bump (cTile (tileOf n)) 1) d)

/-- TRANSIT_FLIT: a flit of a defined type whose DEST is another module. -/
def transit (n : Nat) (f : Flit) (d : Dev) : Dev :=
  if (d.link n).reg.state ≠ .active ∨ f.dest = d.fabric.cfg.moduleId ∨ f.type.toNat = 0 ∨ 0xE ≤ f.type.toNat then d
  else
    let d := bump (cLink n 2) f.fec.val d
    if f.seq ≠ (d.link n).run.rxSeq then discardFlit n f.seq d else passFlit n f (takeFlit n f d)

/-- TRANSIT_FLIT. -/
def execTransitFlit (n : LinkId) (f : Flit) (s : State) : Host.Outcome State Fault Refusal := lift (transit n.val f) s

/-- RETRAIN begins on an ACTIVE link (R422). -/
def startRetrain (n : Nat) (d : Dev) : Dev :=
  if (d.link n).reg.state ≠ .active then d
  else
    let d := bump (cLink n 4) 1 d
    modLinkReg n (fun r => { r with state := .retrain }) (modLinkRun n (fun r => { r with retrainAt := some d.time.ft, resends := 0 }) d)

/-- RETRAIN. -/
def execRetrain (n : LinkId) (s : State) : Host.Outcome State Fault Refusal := lift (startRetrain n.val) s

/-- Flits that an acknowledgement up to a SEQ leaves unacknowledged. -/
def afterAck (ack : BitVec 12) (fs : List Flit) : List Flit :=
  match fs with
  | [] => []
  | f :: _ => let k := (ack - f.seq + 1).toNat
    if k ≤ fs.length then fs.drop k else fs

/-- A resend request (R421): from its SEQ in order. The first resend of a tick raises 0x5001, the eighth of one SEQ starts
RETRAIN, and a TIME_SYNC exchange that is resent is not used (R434). -/
def resendFrom (n : Nat) (seq : BitVec 12) (d : Dev) : Dev :=
  let r := (d.link n).run
  let fs := r.unacked.dropWhile (fun f => decide (f.seq ≠ seq))
  if fs.isEmpty then d
  else if 8 ≤ r.resends + 1 then startRetrain n (bump (cLink n 3) 1 d)
  else
    let d := modLinkRun n (fun r => { r with resends := r.resends + 1, retried := true }) (bump (cLink n 3) 1 d)
    let d := if r.retried then d else linkEvent 0x5001 n d
    let d := if fs.any (fun f => decide (f.type.toNat = 0xA)) then { d with time := { d.time with syncSent := none } } else d
    resendAll n fs d

/-- CONTROL_FLIT (R420, R421). -/
def controlIn (n : Nat) (c : CtlFlit) (d : Dev) : Dev :=
  if (d.link n).reg.state ≠ .active then d
  else
    let d := bump (cLink n 2) c.fec.val d
    let r := (d.link n).run
    let left := afterAck c.ackSeq r.unacked
    let d := modLinkRun n (fun r => { r with
      unacked := left, resends := if left.length < r.unacked.length then 0 else r.resends,
      credits := (List.range 4).map (fun i => min 128 (r.credits.getD i 0 + c.credits.getD i 0)) }) d
    if c.lanesOk ||| (d.link n).reg.dropped ≠ 0xF then startRetrain n d
    else
      let d := match c.resend with
        | some s => resendFrom n s d
        | none => d
      drainLink n (d.link n).run.waiting.length d

/-- CONTROL_FLIT. -/
def execControlFlit (n : LinkId) (c : CtlFlit) (s : State) : Host.Outcome State Fault Refusal := lift (controlIn n.val c) s

/-! ## Joining and NOTICEs (R424, R425) -/

/-- LINK_JOIN: an ACTIVE link joins its face's live set while no other link of the face holds an unacknowledged data
flit. A face that was dead is live again. -/
def joinLink (n : Nat) (d : Dev) : Dev :=
  let l := d.link n
  let others := (rangeFrom (8 * (n / 8)) 8).filter (fun m => m ≠ n)
  if l.reg.state ≠ .active ∨ l.run.live = true ∨
      others.any (fun m => (d.link m).run.unacked.any (fun f => !flitUrgent f)) = true then d
  else
    let dead := d.fabric.cfg.breaks.contains (linkDim n, coordOf d.fabric.cfg.moduleId.toNat (linkDim n), linkPlus n)
    let d := modLinkRun n (fun r => { r with live := true }) d
    if dead then noticeRing (linkDim n) (linkPlus n) false d else d

/-- LINK_JOIN. -/
def execLinkJoin (n : LinkId) (s : State) : Host.Outcome State Fault Refusal := lift (joinLink n.val) s

/-- NOTICE (R425): the ring is routed as a line broken at the dead segment. -/
def execNotice (n : LinkId) (f : Flit) (s : State) : Host.Outcome State Fault Refusal :=
  lift (onFlit n.val [0xD] f (fun d =>
    setBreak (field f.payload 0 1) (field f.payload 1 1) (bitOf (field f.payload 2 1) 0) (bitOf (field f.payload 3 1) 0) d)) s

end Sys2Proof.Machine
end

