-- ==== Sys2Proof/Machine/FabricCmds.lean ====
section
/-! DEFINITION. The fabric's requests, time alignment and reset, and the flits that end at this module (R359 to R361, R374, R411, R418, R419, R427 to R433, R440). -/

namespace Sys2Proof.Machine
open Sys2Proof

/-! ## The tree toward the root of time (R359, R433) -/

/-- This module's parent toward a root; none at the root. -/
def FabricCfg.parentTo (c : FabricCfg) (root m : Nat) : Option Nat :=
  match nextHop c [] m root with
  | some (dim, plus) => some (neighbour c m dim plus)
  | none => none

/-- This module's children in the tree toward a root. -/
def FabricCfg.childrenTo (c : FabricCfg) (root : Nat) : List Nat :=
  let own := c.moduleId.toNat
  let near := (([0, 1, 2].map (fun dim => [false, true].map (fun p => (dim, p)))).flatten).filter (fun x => c.usesFace x.1 x.2)
  ((near.map (fun x => neighbour c own x.1 x.2)).eraseDups).filter (fun m => decide (m ≠ own ∧ c.parentTo root m = some own))

/-- Hops between two coordinates of a dimension (R423). -/
def FabricCfg.hops (c : FabricCfg) (dim s t : Nat) : Nat :=
  let n := c.size dim
  let d := (t + n - s) % n
  if c.wraps dim then min d (n - d) else max s t - min s t

/-- The greatest depth of the tree toward a root, in hops. -/
def FabricCfg.depthTo (c : FabricCfg) (root : Nat) : Nat :=
  ([0, 1, 2].map (fun dim => ((List.range (c.size dim)).map (fun s => c.hops dim s (coordOf root dim))).foldl max 0)).sum

/-! ## The root of time (R359, R360) -/

/-- Whether a port of this module takes plant time. -/
def Dev.ptpPortLocked (d : Dev) : Bool := d.service.ports.any (fun p => p.2.ptpLocked)

/-- The module that step 2 of R359 selects among reachable modules. -/
def selectRoot (source : Nat) (reach : List Nat) (own : Nat) : Nat :=
  let l := own :: reach
  if l.contains source then source else l.foldl min own

/-- Take a root (R360): a change clears ALIGNED but on the root itself, which is 0 from itself. -/
def takeRoot (root : Nat) (d : Dev) : Dev :=
  let own := d.fabric.cfg.moduleId.toNat
  let source := d.fabric.cfg.timeSource.toNat
  let mine := decide (root = own)
  let same := decide (d.time.rootId.toNat = root ∧ d.time.isRoot = mine) && (d.time.aligned || !mine)
  let d := if same then d else
    { d with time := { d.time with
        rootId := BitVec.ofNat 14 root, isRoot := mine, aligned := mine, slew := 0, syncSent := none, missedSync := 0,
        error := if mine then 0 else d.time.error } }
  if root ≠ source then { d with time := { d.time with plant := false } }
  else if mine then { d with time := { d.time with plant := d.ptpPortLocked } }
  else d

/-- ROOT_CHANGE (R360): NOTICEs have settled, or parts have joined; the modules reachable now are given. -/
def rootChanges (reach : List Nat) (d : Dev) : Dev :=
  let c := d.fabric.cfg
  let own := c.moduleId.toNat
  let old := d.time.rootId.toNat
  let gone := !(own :: reach).contains old && d.time.aligned
  let d := if gone then bump cDen 1 { d with time := { d.time with aligned := false } } else d
  takeRoot (selectRoot c.timeSource.toNat (reach.filter c.holds) own) d

/-- ROOT_CHANGE. -/
def execRootChange (reachable : List ModId) (s : State) : Host.Outcome State Fault Refusal :=
  lift (rootChanges (reachable.map (·.toNat))) s

/-! ## Time exchanges (R359, R361; the payload's byte places are a choice of the model, log entry 13) -/

/-- TIME_SYNC: kind 0 request or 1 answer, PLANT, root, the request's stamp, the sender's estimate of root time,
PLANT_OFFSET. -/
def syncPayload (kind : Nat) (stamp est : U64) (t : Time) : List Byte :=
  pack [(1, kind), (1, b2n t.plant), (2, t.rootId.toNat), (8, stamp.toNat), (8, est.toNat), (8, t.plantOffset.toNat)] []

/-- The root time that a module estimates. -/
def Time.rootTime (t : Time) : U64 := t.ft + BitVec.ofInt 64 t.slew

/-- TIME_SYNC_SEND: every 1 ms a module starts an exchange with its parent; one that got no answer was missed. -/
def syncSends (d : Dev) : Dev :=
  let c := d.fabric.cfg
  if d.time.isRoot then d
  else
    let missed := if d.time.syncSent.isSome then d.time.missedSync + 1 else d.time.missedSync
    let d := { d with time := { d.time with missedSync := missed, syncSent := some d.time.ft } }
    match c.parentTo d.time.rootId.toNat c.moduleId.toNat with
    | some m => sendFlit m 0xA true 0 0 (syncPayload 0 d.time.ft d.time.rootTime d.time) 0 d
    | none => d

/-- TIME_SYNC_SEND. -/
def execTimeSyncSend (s : State) : Host.Outcome State Fault Refusal := lift syncSends s

/-- TIME_SYNC_LOST: three exchanges in a row were missed; the module runs on its own oscillator. -/
def syncLost (d : Dev) : Dev :=
  if d.time.isRoot = true ∨ d.time.missedSync < 3 then d
  else bump cDen 1 { d with time := { d.time with aligned := false, missedSync := 0, syncSent := none, slew := 0 } }

/-- TIME_SYNC_LOST. -/
def execTimeSyncLost (s : State) : Host.Outcome State Fault Refusal := lift syncLost s

/-- An estimated offset from the root: taken in one step by a module that has admitted no queue and is not yet aligned,
and slewed otherwise. -/
def takeOffset (off : Int) (d : Dev) : Dev :=
  let t := d.time
  if !t.admitted && !t.aligned then
    { d with time := { t with ft := t.ft + BitVec.ofInt 64 off, slew := 0, aligned := true, error := 0 } }
  else
    { d with time := { t with slew := off, aligned := decide (off.natAbs ≤ 64), error := BitVec.ofNat 16 (min off.natAbs 0xFFFF) } }

/-- A TIME_SYNC flit: a child's request is answered; the parent's answer gives the round trip. -/
def syncFlit (f : Flit) (d : Dev) : Dev :=
  let c := d.fabric.cfg
  let stamp := BitVec.ofNat 64 (field f.payload 8 8)
  if field f.payload 0 1 = 0 then
    sendFlit f.origin.toNat 0xA true 0 0 (syncPayload 1 stamp d.time.rootTime d.time) 0 d
  else if d.time.syncSent ≠ some stamp ∨ c.parentTo d.time.rootId.toNat c.moduleId.toNat ≠ some f.origin.toNat then d
  else
    let half := (d.time.ft - stamp).toNat / 2
    let off := (BitVec.ofNat 64 (field f.payload 0x10 8) + BitVec.ofNat 64 half - d.time.ft).toInt
    let d := { d with time := { d.time with
        syncSent := none, missedSync := 0, plant := bitOf (field f.payload 1 1) 0,
        plantOffset := BitVec.ofNat 64 (field f.payload 0x18 8) } }
    takeOffset off d

/-- TIME_SYNC. -/
def execTimeSync (n : LinkId) (f : Flit) (s : State) : Host.Outcome State Fault Refusal :=
  lift (onFlit n.val [0xA] f (syncFlit f)) s

/-! ## The fabric reset (R433) -/

/-- RESET_SYNC: kind 0 READY or 1 GO, T0 and the sender's estimate of root time. -/
def resetPayload (kind : Nat) (t0 est : U64) : List Byte := pack [(1, kind), (8, t0.toNat), (8, est.toNat)] []

/-- The root of the reset's tree. -/
def Dev.resetRoot (d : Dev) : Nat :=
  let c := d.fabric.cfg
  if c.holds c.timeSource.toNat && decide (c.timeSource ≠ 0xFFFF) then c.timeSource.toNat else 0

/-- Send GO to the children (R433 step 4). -/
def sendGo (t0 : U64) (d : Dev) : Dev :=
  let est := match d.fabric.cfg.t0 with
    | some (_, off) => d.time.ft + off
    | none => d.time.ft
  forEach (fun m d => sendFlit m 0xC true 0 0 (resetPayload 1 t0 est) 0 d) (d.fabric.cfg.childrenTo d.resetRoot) d

/-- Whether every configured link is ACTIVE or FAILED. -/
def Dev.linksSettled (d : Dev) : Bool :=
  (List.range 48).all (fun n => !d.trains n || decide ((d.link n).reg.state = .active ∨ (d.link n).reg.state = .failed))

/-- Whether a start waits at step 7 for the fabric reset. -/
def Dev.awaitsReset (d : Dev) : Bool :=
  d.start.running && decide (d.start.step = 7) && d.fabric.cfg.configured && !d.fabric.cfg.resetDone

/-- Steps 2 and 3 of R433: with its links settled and every child ready, a module sends READY to its parent and the root
chooses T0. -/
def tryReady (d : Dev) : Dev :=
  let c := d.fabric.cfg
  let root := d.resetRoot
  if !d.awaitsReset || c.readySent || !d.linksSettled || !(c.childrenTo root).all (fun m => c.ready.contains m) then d
  else
    let d := { d with fabric := { d.fabric with cfg := { c with readySent := true } } }
    match c.parentTo root c.moduleId.toNat with
    | some m => sendFlit m 0xC true 0 0 (resetPayload 0 0 d.time.ft) 0 d
    | none =>
      let t0 := d.time.ft + BitVec.ofNat 64 (2 * c.depthTo root * 4000 + 160000)
      sendGo t0 { d with fabric := { d.fabric with cfg := { d.fabric.cfg with t0 := some (t0, 0) } } }

/-- A child's READY; a module whose reset is done answers with GO, so that the child does steps 4 and 5 alone. -/
def resetReady (f : Flit) (d : Dev) : Dev :=
  let c := d.fabric.cfg
  if field f.payload 0 1 ≠ 0 then d
  else if c.resetDone then
    sendFlit f.origin.toNat 0xC true 0 0 (resetPayload 1 d.time.ft d.time.rootTime) 0 d
  else
    let m := f.origin.toNat
    tryReady { d with fabric := { d.fabric with cfg := { c with ready := if c.ready.contains m then c.ready else c.ready ++ [m] } } }

/-- RESET_SYNC_READY. -/
def execResetSyncReady (n : LinkId) (f : Flit) (s : State) : Host.Outcome State Fault Refusal :=
  lift (onFlit n.val [0xC] f (resetReady f)) s

/-- GO (R433 step 4): root time is the sender's value plus half the link's round trip. -/
def resetGo (n : Nat) (f : Flit) (d : Dev) : Dev :=
  let c := d.fabric.cfg
  if field f.payload 0 1 ≠ 1 ∨ d.awaitsReset = false ∨ c.t0.isSome = true then d
  else
    let t0 := BitVec.ofNat 64 (field f.payload 8 8)
    let est := BitVec.ofNat 64 (field f.payload 0x10 8 + (d.link n).run.roundTrip.toNat / 2)
    sendGo t0 { d with fabric := { d.fabric with cfg := { c with t0 := some (t0, est - d.time.ft) } } }

/-- RESET_SYNC_GO. -/
def execResetSyncGo (n : LinkId) (f : Flit) (s : State) : Host.Outcome State Fault Refusal :=
  lift (onFlit n.val [0xC] f (resetGo n.val f)) s

/-- LINK_TRAINING_COMPLETE. -/
def execLinkTrainingComplete (n : LinkId) (r : TrainResult) (s : State) : Host.Outcome State Fault Refusal :=
  lift (fun d => tryReady (judgeTraining n.val r true d)) s

/-- LINK_TRAINING_FAILED: a limit passed, or what R415 and R416 find. -/
def execLinkTrainingFailed (n : LinkId) (r : TrainResult) (s : State) : Host.Outcome State Fault Refusal :=
  lift (fun d => tryReady (judgeTraining n.val r false d)) s

/-! ## Configuration and groups (R411, R427, R440) -/

/-- The first field of a configuration outside its limits (R440), by its offset. -/
def fabricFault (b : List Byte) : Option (Nat × Nat) :=
  let f (o : Nat) := field b (0x20 + o) 1
  let source := field b 0x28 2
  if 8 ≤ f 3 then some (1, 0x23)
  else if f 0 = 0 ∨ 16 < f 0 then some (5, 0x20)
  else if f 1 = 0 ∨ 16 < f 1 then some (5, 0x21)
  else if f 2 = 0 ∨ 40 < f 2 then some (5, 0x22)
  else if f 0 ≤ f 4 then some (5, 0x24)
  else if f 1 ≤ f 5 then some (5, 0x25)
  else if f 2 ≤ f 6 then some (5, 0x26)
  else if source ≠ 0xFFFF ∧ ¬(source < 2 ^ 14 ∧ coordOf source 0 < f 0 ∧ coordOf source 1 < f 1 ∧ coordOf source 2 < f 2) then
    some (5, 0x28)
  else none

/-- FABRIC_CONFIG (R411, R480): only while QUIESCENT. Links whose ENABLE is set then train, others wait DISABLED. -/
def fabricConfigReq (b : List Byte) (d : Dev) : Answer :=
  match fabricFault b with
  | some e => .error e
  | none =>
    if !d.quiescent then .error (4, d.modeState % 2 ^ 32)
    else
      let f (o : Nat) := field b (0x20 + o) 1
      let c : FabricCfg :=
        { FabricCfg.reset with
          configured := true, moduleId := BitVec.ofNat 14 (moduleAt (f 4) (f 5) (f 6)), sizeX := f 0, sizeY := f 1,
          sizeZ := f 2, wrap := BitVec.ofNat 3 (f 3), timeSource := BitVec.ofNat 16 (field b 0x28 2) }
      let d := { d with fabric := { d.fabric with cfg := c } }
      let d := forEach (fun n d =>
        if (d.link n).reg.state = .ethernet then d
        else if d.trains n then trainLink n (modLinkRun n (fun r => { LinkRun.reset with coefficients := r.coefficients }) d)
        else modLink n (fun l => { l with reg := { l.reg with state := .disabled, lanes := 0 }, run := LinkRun.reset }) d)
        (List.range 48) d
      let all := ((List.range c.sizeZ).map (fun z => ((List.range c.sizeY).map (fun y =>
        (List.range c.sizeX).map (fun x => moduleAt x y z))).flatten)).flatten
      .ok ([], takeRoot (selectRoot c.timeSource.toNat all c.moduleId.toNat) d)

/-- FABRIC_CONFIG. -/
def execFabricConfig (s : State) : Host.Outcome State Fault Refusal :=
  lift (servePcie 0x70 16 [u 1, u 1, u 1, u 1, u 1, u 1, u 1, u 2] fabricConfigReq) s

/-- Fields of COLLECTIVE_GROUP. -/
def groupFields : List (Nat × Nat) := [u 4, u 1, u 1, u 1, u 1, u 1, u 1, u 1]

/-- The kind of a group request: CLEAR is 1, or it is not. -/
def isGroupReq (clear : Bool) (b : List Byte) : Bool := decide (field b 0 2 = 0x71) && (decide (field b 0x24 1 = 1) == clear)

/-- COLLECTIVE_GROUP (R427): a box of the fabric. -/
def groupReq (b : List Byte) (d : Dev) : Answer :=
  let g := field b 0x20 4
  let f (o : Nat) := field b (0x25 + o) 1
  let c := d.fabric.cfg
  if 4095 ≤ g then .error (1, 0x20)
  else if field b 0x24 1 ≠ 0 then .error (1, 0x24)
  else if (d.group g).box.isSome then .error (0xA, 0x20)
  else if c.sizeX ≤ f 0 then .error (5, 0x25)
  else if f 1 < f 0 ∨ c.sizeX ≤ f 1 then .error (5, 0x26)
  else if c.sizeY ≤ f 2 then .error (5, 0x27)
  else if f 3 < f 2 ∨ c.sizeY ≤ f 3 then .error (5, 0x28)
  else if c.sizeZ ≤ f 4 then .error (5, 0x29)
  else if f 5 < f 4 ∨ c.sizeZ ≤ f 5 then .error (5, 0x2A)
  else
    let box : Box := { loX := f 0, hiX := f 1, loY := f 2, hiY := f 3, loZ := f 4, hiZ := f 5 }
    .ok ([], modGroup g (fun _ => { Group.reset with box := some box }) d)

/-- COLLECTIVE_GROUP. -/
def execCollectiveGroup (s : State) : Host.Outcome State Fault Refusal :=
  lift (fun d => (serveReq (isGroupReq false) false false 16 false (fun _ => groupFields) groupReq d).1) s

/-- The queue of a job whose image names a group, or of a BARRIER that waits on it. -/
def Dev.groupUser (d : Dev) (g : Nat) : Option Nat :=
  match d.mesh.jobs.find? (fun j => decide (d.jobGroup j = some g)) with
  | some j => some j.queue
  | none => (d.fe.queues.map (·.1)).find? (fun q => (d.live q).any (fun c => match c.work with
    | .barrier x _ => decide (x = g)
    | _ => false))

/-- COLLECTIVE_GROUP with CLEAR: the group's other fields are not read. -/
def groupClearReq (b : List Byte) (d : Dev) : Answer :=
  let g := field b 0x20 4
  if 4095 ≤ g then .error (1, 0x20)
  else if (d.group g).box.isNone then .error (9, 0)
  else match d.groupUser g with
    | some q => .error (0xA, q)
    | none => .ok ([], modGroup g (fun _ => Group.reset) d)

/-- COLLECTIVE_GROUP_CLEAR. -/
def execCollectiveGroupClear (s : State) : Host.Outcome State Fault Refusal :=
  lift (fun d => (serveReq (isGroupReq true) false false 16 false (fun _ => groupFields) groupClearReq d).1) s

/-! ## Stream flits (R266, R276, R291, R419) -/

/-- The slot of a local stream number. -/
def Dev.slotOfStream (d : Dev) (n : Nat) : Option Nat := (d.placeOf (n / 8)).map (fun p => 8 * p + n % 8)

/-- The used bytes of a flit, each with the poison of its 16. -/
def flitData (f : Flit) : List (Byte × Bool) :=
  let b := f.payload.take f.len.toNat
  (List.range b.length).map (fun i => (byteAt b i, bitOf f.poison.toNat (i / 16)))

/-- How a flit stands to the half that it names. -/
inductive HalfJudge where
  /-- It enters the half. -/
  | takes (slot : Nat) (x : Desc)
  /-- The half is still full: the flit waits in its buffer. -/
  | waits
  /-- No half fills under its generation: it is discarded. -/
  | drops
deriving DecidableEq, Repr

/-- Whether a slot's descriptor receives from a sender under a 16-bit or 12-bit generation. -/
def receives (x : Desc) (o : Slot) (sender : Option Nat) (gen bits_ : Nat) : Bool :=
  !x.out && decide (o.gen.toNat % 2 ^ bits_ = gen % 2 ^ bits_) &&
    (match sender with
      | some m => decide (x.farKind = 5 ∧ x.farAddr.toNat % 2 ^ 28 = m)
      | none => decide (x.farKind = 5 ∨ x.farKind = 1))

/-- STREAM_OPEN: its sender, generation and transfer against the receiving half. -/
def judgeOpen (f : Flit) (d : Dev) : HalfJudge :=
  match d.slotOfStream (f.target.toNat % 2 ^ 14) with
  | none => .drops
  | some s =>
    let o := d.slot s
    match o.desc with
    | none => .drops
    | some x =>
      let sender := field f.payload 0 4
      let gen := field f.payload 4 2
      if !o.working || !receives x o (some sender) gen 16 then .drops
      else if o.state = .active ∧ o.current = field f.payload 8 4 then .takes s x
      else if o.current < field f.payload 8 4 then .waits
      else .drops

/-- STREAM_DATA: after its STREAM_OPEN, or the answer to a FABRIC_READ. -/
def judgeData (f : Flit) (d : Dev) : HalfJudge :=
  match d.slotOfStream (f.target.toNat % 2 ^ 14) with
  | none => .drops
  | some s =>
    let o := d.slot s
    match o.desc with
    | none => .drops
    | some x =>
      if !decide (o.state = .active) || !receives x o none (bits f.target.toNat 25 14) 12 then .drops
      else if f.cls = true ∧ d.overLinks x = true ∧ x.farKind = 1 then .takes s x
      else if f.cls = false ∧ x.farKind = 5 ∧ (d.slotRun s).opened = true then .takes s x
      else .drops

/-- A flit for a half: one that waits has not come out of its buffer, so nothing happens yet. -/
def onHalf (n : Nat) (type : Nat) (f : Flit) (judge : Dev → HalfJudge) (act : Nat → Desc → Dev → Dev) (d : Dev) : Dev :=
  match judge d with
  | .waits => d
  | .drops => onFlit n [type] f id d
  | .takes s x => onFlit n [type] f (fun d => act s x (wakeModule d)) d

/-- Whether a STREAM_OPEN announces a half from outside the job that receives it. -/
def Dev.liveOutside (d : Dev) (f : Flit) : Bool :=
  match d.slotOfStream (f.target.toNat % 2 ^ 14) with
  | none => false
  | some s => match (d.slot s).desc with
    | none => false
    | some x => d.outsideJob s x

/-- STREAM_OPEN. While REPLAY is set a live half is dropped and counted (R382). -/
def execStreamOpen (n : LinkId) (f : Flit) (s : State) : Host.Outcome State Fault Refusal :=
  lift (fun d =>
    if d.replaying && d.liveOutside f then onFlit n.val [2] f dropLive d
    else onHalf n.val 2 f (judgeOpen f) (fun sl _ d => modSlotRun sl (fun r => { r with opened := true }) d) d) s

/-- The acknowledgement of a transfer accepted (R270, R419). -/
def ackHalf (s : Nat) (x : Desc) (d : Dev) : Dev :=
  if x.farKind = 5 ∧ d.landedAll s x = true then
    let m := bits x.farAddr.toNat 27 14
    let target := x.farAddr.toNat % 2 ^ 14 + 2 ^ 14 * ((d.slot s).gen.toNat % 2 ^ 12)
    sendFlit m 3 true 0 target (leBytes 4 (d.slot s).current) (x.farAddr.toNat % 2 ^ 14) d
  else d

/-- Bytes of a flit land in a half in order, with their poison marks; those of a FABRIC read among what its other modules send. -/
def landFlit (s : Nat) (x : Desc) (f : Flit) (d : Dev) : Dev :=
  let o := (d.slotRun s).landed + (d.slotRun s).tail.length
  let d := poisonIn s (markedGranules o (flitData f)) x.farAddr.toNat d
  if x.farKind = 1 then slotProgress s (partArrives s f.origin.toNat x (flitData f) d)
  else ackHalf s x (slotProgress s (landBytes s x (flitData f) d))

/-- STREAM_DATA. -/
def execStreamData (n : LinkId) (f : Flit) (s : State) : Host.Outcome State Fault Refusal :=
  lift (onHalf n.val 1 f (judgeData f) (fun sl x d => landFlit sl x f d)) s

/-- An acknowledgement counts for the oldest spilled half that still waits for one, else for the transfer in hand. -/
def countAck (s : Nat) (d : Dev) : Dev :=
  if (d.slotRun s).owed.any (fun w => decide (w.2 ≠ 0)) then
    modSlotRun s (fun r => { r with owed := updateFirst (fun w => decide (w.2 ≠ 0)) (fun w => (w.1, w.2 - 1)) r.owed }) d
  else modSlot s (fun o => { o with returned := o.returned + 1 }) d

/-- The transfer that an acknowledgement of a slot is for. -/
def Dev.ackedTransfer (d : Dev) (s : Nat) : Nat :=
  match (d.slotRun s).owed.find? (fun w => decide (w.2 ≠ 0)) with
  | some w => w.1
  | none => (d.slot s).current

/-- STREAM_ACK: the named transfer of a LINK half, or one FABRIC_WRITE, is acknowledged; a write's acknowledgement names
no generation (log entry 13). -/
def ackArrives (f : Flit) (d : Dev) : Dev :=
  match d.slotOfStream (f.target.toNat % 2 ^ 14) with
  | none => d
  | some s =>
    let o := d.slot s
    match o.desc with
    | none => d
    | some x =>
      let waits := decide (o.state = .active ∨ o.state = .blocked) || (d.slotRun s).owed.any (fun w => decide (w.2 ≠ 0))
      let mine := decide (x.farKind = 1) || decide (o.gen.toNat % 2 ^ 12 = bits f.target.toNat 25 14 ∧
        field f.payload 0 4 = d.ackedTransfer s)
      if waits && x.out && d.overLinks x && mine then slotProgress s (countAck s d) else d

/-- STREAM_ACK. -/
def execStreamAck (n : LinkId) (f : Flit) (s : State) : Host.Outcome State Fault Refusal :=
  lift (onFlit n.val [3] f (ackArrives f)) s

/-! ## Fabric reads and writes (R392, R419) -/

/-- Answer one block request with STREAM_DATA of CLASS 1; a block outside device memory is not answered. -/
def answerBlock (requester stream gen : Nat) (b : List Byte) (d : Dev) : Dev :=
  let a := field b 0 8
  let n := field b 8 4
  let o := field b 12 4
  if !inSoft a n then d
  else
    let data := d.marked a n
    let d := countPoisonReads a n (countAccess 0 false a n d)
    forEach (fun (p : Nat × List (Byte × Bool)) d =>
      sendFlit requester 1 true (poisonMask 15 p.2) (streamTarget stream gen ((o + p.1) / 16)) (p.2.map (·.1)) stream d)
      (payloads data.length 0 data) d

/-- FABRIC_READ: up to 14 block requests. -/
def fabricReads (f : Flit) (d : Dev) : Dev :=
  let b := f.payload
  forEach (fun i d => answerBlock (field b 0 2) (field b 2 2) (field b 4 2) (slice b (8 + 16 * i) 16) d)
    (List.range (min (field b 6 2) 14)) (wakeModule d)

/-- FABRIC_READ. -/
def execFabricRead (n : LinkId) (f : Flit) (s : State) : Host.Outcome State Fault Refusal :=
  lift (onFlit n.val [4] f (fabricReads f)) s

/-- FABRIC_WRITE: the payload is written, with its poison, and acknowledged to the sending stream. -/
def fabricWrites (f : Flit) (d : Dev) : Dev :=
  let a := f.target.toNat % 2 ^ 40
  let d := wakeModule d
  let d := if inSoft a (flitData f).length then countAccess 0 true a (flitData f).length (memLand 0 a (flitData f) d) else d
  sendFlit f.origin.toNat 3 true 0 (f.flowKey.toNat % 2 ^ 14) (leBytes 4 0) f.flowKey.toNat d

/-- FABRIC_WRITE. -/
def execFabricWrite (n : LinkId) (f : Flit) (s : State) : Host.Outcome State Fault Refusal :=
  lift (onFlit n.val [5] f (fabricWrites f)) s

/-! ## Badger flits (R214, R215, R216, R222, R419, R550) -/

/-- A whole request that came over the links: judged by this module's memory side and served where it holds the row. A scatter is
answered, and so is a faulty request. -/
def remoteRequest (b : List Byte) (asker : Nat × U32) (d : Dev) : Dev :=
  let t := field b 2 2
  let side := if homeChannel t 0 < 128 then 0 else 1
  if badRequest d b then bump (cSide side 5) 1 (replyTo (some asker) t (decide (field b 0 1 = 2)) 1 d)
  else match (d.table t).desc.bind (fun x => (x.rowOf (field b 8 5)).map (fun r => (x, d.ownerRow x r))) with
    | some (x, m, l) =>
      if m = d.fabric.cfg.moduleId.toNat then serveRequest b x l (some asker) d
      else replyTo (some asker) t (decide (field b 0 1 = 2)) 0 d
    | none => replyTo (some asker) t (decide (field b 0 1 = 2)) 0 d

/-- The command of this module that an answer is for. -/
def Dev.askedBy (d : Dev) (j : Nat × U32) : Option (Nat × U32) :=
  ((d.live (j.1 % 2 ^ 18)).find? (fun c => decide (c.index.toNat % 2 ^ 18 = j.2.toNat))).map (fun c => (j.1 % 2 ^ 18, c.index))

/-- An answer to a request of this module: what became of it (R216, R222, R550). -/
def badgerAnswer (status t : Nat) (scatter : Bool) (j : Nat × U32) (d : Dev) : Dev :=
  let d := if scatter then modTable t (fun u => { u with sent := u.sent - 1 }) d else d
  match d.askedBy j with
  | none => d
  | some (q, i) =>
    if status = 1 then addFact q i 0x22 0xFFFFFFFF d
    else if status = 2 then modTable t (fun u => { u with unlogged := joinJob (q, i) u.unlogged }) d
    else if status = 3 then stopCmd 0x10 0 q i d
    else d

/-- A note of another module: an answer, or what becomes of the scatters that a job of it sent here. -/
def badgerNote (f : Flit) (j : Nat × U32) (d : Dev) : Dev :=
  let kind := bits f.target.toNat 38 37
  let t := field f.payload 1 2
  if kind = 1 then badgerAnswer (field f.payload 0 1) t (decide (field f.payload 3 1 = 1)) j d
  else if kind = 2 then settleJob t j d
  else if (d.table t).unlogged.contains j then loseStep t d
  else undoTable t j d

/-- BADGER: the parts of a request are gathered until MORE is clear; notes are whole (log entry 111). -/
def badgerFlit (f : Flit) (d : Dev) : Dev :=
  let v := f.target.toNat
  let j := (2 ^ 18 * (f.origin.toNat + 1) + bits v 18 1, BitVec.ofNat 32 (if bitOf v 39 then bits v 36 19 else 2 ^ 20))
  if bits v 38 37 ≠ 0 then badgerNote f j d
  else
    let key := (f.origin.toNat, f.flowKey.toNat)
    let have_ := (d.fabric.parts.find? (fun p => decide ((p.1, p.2.1) = key))).map (fun p => p.2.2)
    let b := have_.getD [] ++ f.payload.take f.len.toNat
    let rest := d.fabric.parts.filter (fun p => decide ((p.1, p.2.1) ≠ key))
    let d := { d with fabric := { d.fabric with parts := if bitOf v 0 then rest ++ [(key.1, key.2, b)] else rest } }
    if bitOf v 0 then d else remoteRequest b j (wakeModule d)

/-- BADGER. -/
def execBadger (n : LinkId) (f : Flit) (s : State) : Host.Outcome State Fault Refusal :=
  lift (onFlit n.val [6] f (badgerFlit f)) s

/-- The row's bytes in a GATHER_DATA flit, each with the poison of its 16. -/
def rowData (f : Flit) : List (Byte × Bool) := (flitData f).take (f.len.toNat - 8)

/-- Who asked for the row in a GATHER_DATA flit. -/
def rowAsker (f : Flit) : Nat × U32 := askerIn ((f.payload.take f.len.toNat).drop (f.len.toNat - 8))

/-- Whether a row is for a command of this module that has ended (R228). -/
def Dev.askerGone (d : Dev) (k : Nat × U32) : Bool :=
  decide (k.1 / 2 ^ 18 = d.fabric.cfg.moduleId.toNat + 1 ∧ k.2 ≠ 2 ^ 20) && (d.askedBy k).isNone

/-- Tell the module of a request that it is faulty. -/
def faultAsker (k : Nat × U32) (t : Nat) (d : Dev) : Dev :=
  if k.1 / 2 ^ 18 = d.fabric.cfg.moduleId.toNat + 1 then badgerAnswer 1 t false k d else replyTo (some k) t false 1 d

/-- GATHER_DATA: a gathered row's bytes land in a core. A row for an absent core, or one that would pass the end of its memory, is
discarded as a whole, counts one BAD_REQUESTS at its end and its command completes with 0x22 (R550). -/
def gatherFlit (f : Flit) (d : Dev) : Dev :=
  let v := f.target.toNat
  let a := v % 2 ^ 20
  let left := 16 * bits v 37 31
  let core := bits v 30 20
  match if 2 ^ 20 < a + left then none else d.placeOf core with
  | none =>
    if left ≤ (rowData f).length then
      bump (cSide (if core / 40 < 15 then 0 else 1) 5) 1 (faultAsker (rowAsker f) f.flowKey.toNat d)
    else d
  | some p =>
    if d.askerGone (rowAsker f) then d
    else coreProgress p (modCore p (fun c => c.land a (rowData f)) (wakeModule d))

/-- GATHER_DATA. -/
def execGatherData (n : LinkId) (f : Flit) (s : State) : Host.Outcome State Fault Refusal :=
  lift (onFlit n.val [7] f (gatherFlit f)) s

/-! ## Collectives, barriers and stops (R374, R377, R428 to R430) -/

/-- COLLECTIVE. -/
def execCollective (n : LinkId) (f : Flit) (s : State) : Host.Outcome State Fault Refusal :=
  lift (onFlit n.val [8] f (fun d => collectiveFlit f (wakeModule d))) s

/-- BARRIER_FLIT_ARRIVE: the payload names a group, ARRIVE and SEQ. -/
def execBarrierFlitArrive (n : LinkId) (f : Flit) (s : State) : Host.Outcome State Fault Refusal :=
  lift (if field f.payload 4 1 = 0 then
    onFlit n.val [9] f (childArrives n.val (field f.payload 0 4) f.origin.toNat (BitVec.ofNat 64 (field f.payload 8 8)))
  else id) s

/-- BARRIER_FLIT_RELEASE. -/
def execBarrierFlitRelease (n : LinkId) (f : Flit) (s : State) : Host.Outcome State Fault Refusal :=
  lift (if field f.payload 4 1 = 1 then
    onFlit n.val [9] f (parentReleases n.val (field f.payload 0 4) (BitVec.ofNat 64 (field f.payload 8 8)))
  else id) s

/-- A STOP flit (R374, R377): the jobs of its group hold and go back to the restart point that it names; one whose barrier
has since completed here goes back to the segment before. -/
def stopFlit (f : Flit) (d : Dev) : Dev :=
  let g := field f.payload 0 4
  let seg := field f.payload 4 4
  forEach (fun (k : Nat × U32) d =>
    let d := modJob k.1 k.2 (fun j => if j.segment = seg + 1 then { j with segment := seg, slot := !j.slot } else j) d
    replayHere k.1 k.2 d)
    ((d.mesh.jobs.filter (fun j => decide (d.jobGroup j = some g))).map (fun j => (j.queue, j.index))) d

/-- STOP. -/
def execStop (n : LinkId) (f : Flit) (s : State) : Host.Outcome State Fault Refusal :=
  lift (onFlit n.val [0xB] f (stopFlit f)) s

end Sys2Proof.Machine
end

