-- ==== Sys2Proof/Machine/Service.lean ====
section
/-! DEFINITION. The stand-alone scoring service: Ethernet ports, the service table, received frames and batches, replies, IEEE 1588 and PCS lock (R441 to R466, R533). -/

namespace Sys2Proof.Machine
open Sys2Proof

/-! ## Ports (R441, R442, R446) -/

/-- A port configuration of 64 bytes (R442). -/
def parsePort (b : List Byte) : PortCfg :=
  { mac := slice b 0 6, vlan := BitVec.ofNat 16 (field b 6 2), ipv4 := slice b 8 4, flags := byteAt b 0xC,
    ipv6 := slice b 0x10 16, rxAddr := BitVec.ofNat 64 (field b 0x20 8), rxBytes := BitVec.ofNat 32 (field b 0x28 4),
    txBytes := BitVec.ofNat 32 (field b 0x2C 4), txAddr := BitVec.ofNat 64 (field b 0x30 8) }

/-- Whether PTP is set on another port. -/
def Dev.ptpElsewhere (d : Dev) (n : Nat) : Bool :=
  d.service.ports.any (fun p => decide (p.1 ≠ n) && (match p.2.cfg with
    | some c => bitOf c.flags.toNat 2
    | none => false))

/-- Whether this module is the plant-time source of the fabric configuration. -/
def Dev.isTimeSource (d : Dev) : Bool :=
  d.fabric.cfg.configured && decide (d.fabric.cfg.timeSource.toNat = d.fabric.cfg.moduleId.toNat)

/-- The first field of a configuration that fails (R442, R443, R446), by its offset. -/
def portFault (d : Dev) (n : Nat) (b : List Byte) : Option Nat :=
  let c := parsePort b
  let fl := field b 0xC 1
  let rb := c.rxBytes.toNat
  let tb := c.txBytes.toNat
  firstFault
    [(0, bitOf (byteAt b 0).toNat 0), (6, decide (8192 ≤ field b 6 2)),
     (8, !bitOf fl 0 && decide (field b 8 4 ≠ 0)),
     (0xC, decide (8 ≤ fl ∨ fl % 4 = 0) || (bitOf fl 2 && (!d.isTimeSource || d.ptpElsewhere n))),
     (0xD, decide (field b 0xD 3 ≠ 0)), (0x10, !bitOf fl 1 && !zeroAt b 0x10 16),
     (0x20, decide (field b 0x20 8 % 4096 ≠ 0)), (0x28, decide (rb % 4096 ≠ 0 ∨ rb < 2 ^ 20 ∨ 2 ^ 30 < rb)),
     (0x2C, decide (tb % 4096 ≠ 0 ∨ tb < 2 ^ 18 ∨ 2 ^ 28 < tb)), (0x30, decide (field b 0x30 8 % 4096 ≠ 0)),
     (0x38, decide (field b 0x38 8 ≠ 0))]

/-- The enabled entry that names a port. -/
def Dev.entryNaming (d : Dev) (n : Nat) : Bool :=
  d.service.services.any (fun s => decide (s.2.state ≠ .disabled) && (match s.2.cfg with
    | some x => bitOf x.ports.toNat n
    | none => false))

/-- Why a port request is refused whatever it asks (R441). -/
def portBusy (d : Dev) (n : Nat) : Option (Nat × Nat) :=
  if 48 ≤ n then some (1, 0x20)
  else if 8 ≤ n then some (5, 0x20)
  else if (d.link n).reg.enable = true ∧ (d.link n).reg.state ≠ .ethernet then some (4, (d.link n).reg.state.code)
  else if d.entryNaming n then some (4, (d.link n).reg.state.code)
  else none

/-- A PORT_SET request with CLEAR 0 or a value of no meaning. -/
def portSetReq (b : List Byte) (d : Dev) : Answer :=
  let n := field b 0x20 4
  let c := slice b 0x28 64
  if field b 0x24 1 ≠ 0 then .error (1, 0x24)
  else if 8 ≤ n then .error ((portBusy d n).getD (1, 0x20))
  else match portFault d n c with
    | some o => .error (5, 0x28 + o)
    | none =>
      let x := parsePort c
      if bitOf x.flags.toNat 2 ∧ d.agreed 9 = false then .error (3, 9)
      else if !inSoft x.rxAddr.toNat x.rxBytes.toNat then .error (0xF, 0x48)
      else if !inSoft x.txAddr.toNat x.txBytes.toNat then .error (0xF, 0x58)
      else match portBusy d n with
        | some e => .error e
        | none =>
          let d := modLink n (fun l => { l with reg := { l.reg with state := .ethernet, lanes := 0, enable := false } }) d
          .ok ([], modPort n (fun p => { p with cfg := some x, rxUsed := 0, rxNext := 0, tx := [] }) d)

/-- The kind of a port request: CLEAR is 1, or it is not. -/
def isPortReq (clear : Bool) (b : List Byte) : Bool := decide (field b 0 2 = 0x60) && (decide (field b 0x24 1 = 1) == clear)

/-- PORT_SET. -/
def execPortSet (s : State) : Host.Outcome State Fault Refusal :=
  lift (fun d => (serveReq (isPortReq false) false false 8 false (fun _ => [u 4, u 1, blk 64]) portSetReq d).1) s

/-- The first nonzero byte of the rest of a CLEAR request. -/
def restFault (b : List Byte) (o n : Nat) : Option Nat := (rangeFrom o n).find? (fun i => byteAt b i ≠ 0)

/-- Clear a port: its link returns to DISABLED with ENABLE clear (R437, R441). -/
def portClearReq (b : List Byte) (d : Dev) : Answer :=
  let n := field b 0x20 4
  match restFault b 0x28 64 with
  | some o => .error (1, o)
  | none => match portBusy d n with
    | some e => .error e
    | none =>
      if (d.port n).cfg.isNone then .error (9, 0)
      else
        let d := modLink n (fun l => { l with reg := { l.reg with state := .disabled, enable := false } }) d
        .ok ([], modPort n (fun p => { Port.reset with dropping := p.dropping }) d)

/-- PORT_CLEAR. -/
def execPortClear (s : State) : Host.Outcome State Fault Refusal :=
  lift (fun d => (serveReq (isPortReq true) false false 8 false (fun _ => [u 4, u 1, blk 64]) portClearReq d).1) s

/-- PCS_LOCK_GAINED: UP is set on a port in state ETHERNET, and vector 6 is due. -/
def pcsGained (n : Nat) (d : Dev) : Dev :=
  if (d.link n).reg.state = .ethernet ∧ (d.port n).cfg.isSome = true ∧ (d.port n).up = false then
    msixBit 6 (modPort n (fun p => { p with up := true }) d)
  else d

/-- PCS_LOCK_GAINED. -/
def execPcsLockGained (port : Fin 8) (s : State) : Host.Outcome State Fault Refusal := lift (pcsGained port.val) s

/-- PCS_LOCK_LOST: UP clears, and vector 6 is due. -/
def pcsLost (n : Nat) (d : Dev) : Dev :=
  if (d.port n).up then msixBit 6 (modPort n (fun p => { p with up := false }) d) else d

/-- PCS_LOCK_LOST. -/
def execPcsLockLost (port : Fin 8) (s : State) : Host.Outcome State Fault Refusal := lift (pcsLost port.val) s

/-- The port status register (R464). -/
def Port.status (p : Port) : Nat :=
  let ptp := match p.cfg with
    | some c => bitOf c.flags.toNat 2
    | none => false
  b2n p.up + 2 * b2n ptp + 4 * b2n p.ptpLocked + 8 * b2n p.dropping

/-! ## The service table (R447, R448, R460) -/

/-- A service entry of 64 bytes (R447). -/
def parseEntry (b : List Byte) : ServiceCfg :=
  { layoutAddr := BitVec.ofNat 64 (field b 0 8), ports := byteAt b 8, eflags := byteAt b 9,
    udpPort := BitVec.ofNat 16 (field b 0xA 2), queue := BitVec.ofNat 32 (field b 0xC 4),
    deadlineNs := BitVec.ofNat 32 (field b 0x10 4), groups := BitVec.ofNat 16 (field b 0x14 2),
    stride := BitVec.ofNat 16 (field b 0x16 2), awakeFloor := BitVec.ofNat 16 (field b 0x18 2), backlog := byteAt b 0x1A,
    reserved := !zeroAt b 0x1B 37 }

/-- State code of an entry. -/
def EState.code : EState → Nat
  | .disabled => 0 | .enabled => 1 | .draining => 2

/-- A request on an entry within the table. -/
def onEntry (b : List Byte) (f : Nat → Answer) : Answer :=
  let e := field b 0x20 4
  if 4096 ≤ e then .error (1, 0x20) else f e

/-- A request on an entry that has been written and is DISABLED. -/
def onIdleEntry (b : List Byte) (d : Dev) (f : Nat → ServiceCfg → Answer) : Answer :=
  onEntry b (fun e =>
    let s := d.serv e
    match s.cfg with
    | none => .error (9, 0)
    | some x => if s.state ≠ .disabled then .error (4, s.state.code) else f e x)

/-- SERVICE_WRITE. -/
def serviceWriteReq (b : List Byte) (d : Dev) : Answer :=
  onEntry b (fun e =>
    let s := d.serv e
    if s.state ≠ .disabled then .error (4, s.state.code)
    else
      let raw := slice b 0x28 64
      .ok ([], modServ e (fun _ => { Service.reset with cfg := some (parseEntry raw), raw := raw, admitted := s.admitted }) d))

/-- SERVICE_WRITE. -/
def execServiceWrite (s : State) : Host.Outcome State Fault Refusal := lift (servePcie 0x61 8 [u 4, blk 64] serviceWriteReq) s

/-- The layouts of the groups of an entry about to be enabled. -/
def entryLayouts (x : ServiceCfg) (l : Layout) : List Layout := (List.range x.groups.toNat).map (groupLayout x l)

/-- Cores of the groups of other enabled entries. -/
def Dev.serviceCores (d : Dev) (e : Nat) : List Nat :=
  ((d.service.services.filter (fun s => decide (s.1 ≠ e ∧ s.2.state ≠ .disabled))).map (fun s =>
    ((d.serviceGroups s.1).map (fun g => g.2.ring)).flatten)).flatten

/-- Whether a list holds a value twice. -/
def repeats : List Nat → Bool
  | [] => false
  | x :: xs => xs.contains x || repeats xs

/-- The first field of an entry that fails (R448), or 0xFFFF_FFFF for its layout and groups. -/
def entryFault (d : Dev) (e : Nat) (x : ServiceCfg) (l : Layout) (poisoned : Bool) : Option Nat :=
  let fl := x.eflags.toNat
  let ns := x.deadlineNs.toNat
  let port := x.udpPort.toNat
  let qv := bitOf x.queue.toNat 18
  let clash := d.service.services.any (fun s => decide (s.1 ≠ e ∧ s.2.state = .enabled) && (match s.2.cfg with
    | some y => decide (y.ports &&& x.ports ≠ 0 ∧ y.udpPort = x.udpPort)
    | none => false))
  let noEth := (List.range 8).any (fun n => bitOf x.ports.toNat n && decide ((d.link n).reg.state ≠ .ethernet))
  match firstFault
    [(0, decide (x.layoutAddr.toNat % 64 ≠ 0) || !inSoft x.layoutAddr.toNat 64), (8, noEth),
     (9, decide (4 ≤ fl) || (bitOf fl 0 && decide (ns = 0))),
     (0xA, if x.ports = 0 then decide (port ≠ 0) else decide (port = 0 ∨ port = 319 ∨ port = 320) || clash),
     (0xC, decide (2 ^ 19 ≤ x.queue.toNat) || (decide (x.ports = 0) && !qv)),
     (0x10, decide (ns ≠ 0 ∧ (ns < 1000 ∨ 1000000000 < ns))), (0x14, decide (x.groups = 0 ∨ 1200 < x.groups.toNat)),
     (0x18, decide (1200 < x.awakeFloor.toNat)), (0x1A, decide (x.backlog = 0 ∨ 64 < x.backlog.toNat)), (0x1B, x.reserved)] with
  | some o => some o
  | none =>
    let ls := entryLayouts x l
    let cores := (ls.map Layout.ring).flatten
    if poisoned || decide (l.capacity < 64) || decide (1200 ≤ l.firstCore.toNat + (x.groups.toNat - 1) * x.stride.toNat) ||
        ls.any (bindFails d d.ownedBanks) || (decide (x.ports ≠ 0) && decide (l.keys ≠ 0)) || repeats cores ||
        cores.any (fun c => (d.serviceCores e).contains c) then some 0xFFFFFFFF
    else none

/-- The cores that an entry's floor keeps awake: those of groups 0 to ⌈AWAKE_FLOOR / G⌉ − 1 (R449). -/
def floorCores (x : ServiceCfg) (l : Layout) : List Nat :=
  (((entryLayouts x l).take (ceilDiv x.awakeFloor.toNat l.g)).map Layout.ring).flatten

/-- SERVICE_ENABLE. -/
def serviceEnableReq (b : List Byte) (d : Dev) : Answer :=
  onIdleEntry b d (fun e x =>
    let a := x.layoutAddr.toNat
    let l := parseLayout (d.bytesAt a 64)
    match entryFault d e x l (decide (0 < d.poisonedIn a 64)) with
    | some o => .error (7, o)
    | none =>
      if bitOf x.eflags.toNat 0 ∧ d.agreed 14 = false then .error (3, 14)
      else if bitOf x.eflags.toNat 1 ∧ d.agreed 15 = false then .error (3, 15)
      else .ok ([], wakeCores (floorCores x l) <| modServ e (fun s => { s with
        state := .enabled, layout := some l, openBatch := [], closed := [], inFlight := 0, dropped := [], deleted := false }) d))

/-- SERVICE_ENABLE. -/
def execServiceEnable (s : State) : Host.Outcome State Fault Refusal := lift (servePcie 0x62 8 [u 4] serviceEnableReq) s

/-- Disable an entry (R460): it is DRAINING from this edge. -/
def disableService (e : Nat) (d : Dev) : Dev :=
  if (d.serv e).state = .enabled then
    settleService e (modServ e (fun s => { s with state := .draining, drainAt := d.time.ft }) d)
  else d

/-- SERVICE_DISABLE. -/
def serviceDisableReq (b : List Byte) (d : Dev) : Answer :=
  onEntry b (fun e => if (d.serv e).cfg.isNone then .error (9, 0) else .ok ([], disableService e d))

/-- SERVICE_DISABLE. -/
def execServiceDisable (s : State) : Host.Outcome State Fault Refusal :=
  lift (fun d => (serveReq (isOp 0x63) true false 8 false (fun _ => [u 4]) serviceDisableReq d).1) s

/-- SERVICE_READ: STATE, and CONTENTS aligned to 8. -/
def serviceReadReq (b : List Byte) (d : Dev) : Answer :=
  onEntry b (fun e =>
    let s := d.serv e
    if s.cfg.isNone then .error (9, 0) else .ok ([BitVec.ofNat 8 s.state.code] ++ zeros 7 ++ slice s.raw 0 64, d))

/-- SERVICE_READ. -/
def execServiceRead (s : State) : Host.Outcome State Fault Refusal :=
  lift (fun d => (serveReq (isOp 0x64) true true 8 true (fun _ => [u 4]) serviceReadReq d).1) s

/-- SERVICE_DELETE. -/
def execServiceDelete (s : State) : Host.Outcome State Fault Refusal :=
  lift (servePcie 0x65 8 [u 4] (fun b d => onIdleEntry b d (fun e _ => .ok ([], modServ e (fun _ => Service.reset) d)))) s

/-! ## Received frames (R443, R444, R450, R453 to R456, R460) -/

/-- The entry that listens on a port and UDP port: an enabled one before a draining one. -/
def Dev.listener (d : Dev) (n port : Nat) : Option Nat :=
  let on (st : EState) : Option Nat := (d.service.services.find? (fun s => decide (s.2.state = st) && (match s.2.cfg with
    | some x => bitOf x.ports.toNat n && decide (x.udpPort.toNat = port)
    | none => false))).map (·.1)
  (on .enabled).or (on .draining)

/-- Whether a scoring datagram is well formed (R450). -/
def goodRequest (d : Dev) (l : Layout) (b : List Byte) : Bool :=
  match d.currentVersion l.ensemble.toNat with
  | none => false
  | some v =>
    let n := field b 4 2
    let rb := field b 6 2
    decide (32 ≤ b.length ∧ field b 0 2 = 0x5153 ∧ field b 2 1 = 1 ∧ field b 3 1 = 0 ∧ 1 ≤ n ∧ n ≤ 64 ∧
      rb = v.content.recordBytes l.raw ∧ field b 0x18 8 = 0 ∧ b.length = 32 + n * rb)

/-- Records of a row of datagrams. -/
def recordCount (gs : List Datagram) : Nat := (gs.map (fun g => g.records)).sum

/-- The datagram that a frame carries. -/
def datagramOf (d : Dev) (n : Nat) (frame : List Byte) (b : List Byte) : Datagram :=
  { port := n, frame := frame, records := field b 4 2, requestId := BitVec.ofNat 64 (field b 8 8),
    clientTime := BitVec.ofNat 64 (field b 0x10 8), tIn := d.time.ft, pos := (d.port n).rxNext }

/-- Take the room of a frame in the receive buffer. -/
def holdFrame (n : Nat) (g : Datagram) (d : Dev) : Dev :=
  let size := alignUp g.frame.length 64
  let d := match (d.port n).cfg with
    | some c =>
      let o := g.pos % c.rxBytes.toNat
      let k := c.rxBytes.toNat - o
      memWrite 4 c.rxAddr.toNat (g.frame.drop k) false (memWrite 4 (c.rxAddr.toNat + o) (g.frame.take k) false d)
    | none => d
  modPort n (fun p => { p with rxUsed := p.rxUsed + size, rxNext := p.rxNext + size }) d

/-- Batch a datagram (R455, R456): it joins the open batch, or closes it and opens the next, or is refused. -/
def batchDatagram (e : Nat) (x : ServiceCfg) (l : Layout) (g : Datagram) (d : Dev) : Dev :=
  let s := d.serv e
  if recordCount s.openBatch + g.records ≤ l.capacity then
    bump (cServ e 0) 1 (holdFrame g.port g (modServ e (fun s => { s with openBatch := s.openBatch ++ [g] }) d))
  else
    let closed := if s.openBatch.isEmpty then s.closed else s.closed ++ [s.openBatch]
    let room := decide (closed.length < x.backlog.toNat * x.groups.toNat)
    let d := modServ e (fun s => { s with closed := closed, openBatch := if room then [g] else [] }) d
    if room then bump (cServ e 0) 1 (holdFrame g.port g d) else refuseDatagram e g 3 d

/-- A scoring datagram for an entry. -/
def takeDatagram (e n : Nat) (frame : List Byte) (b : List Byte) (d : Dev) : Dev :=
  let s := d.serv e
  let g := datagramOf d n frame b
  match s.cfg, s.layout with
  | some x, some l =>
    if s.state = .draining then refuseDatagram e g 2 d
    else if !goodRequest d l b then refuseDatagram e g 1 d
    else batchDatagram e x l g d
  | _, _ => d

/-- Queue a frame that is no reply of a batch. -/
def queueFrame (n : Nat) (f : List Byte) (d : Dev) : Dev := modPort n (fun p => { p with tx := p.tx ++ [(f, none)] }) d

/-- A frame that found no room (R444 step 3, R456). -/
def dropFull (n : Nat) (d : Dev) : Dev :=
  let d := bump (cPort n 5) 1 d
  let first := !(d.port n).dropTick
  let d := hwSet (0x70000 + 8 * n) 3 (modPort n (fun p => { p with dropping := true, dropTick := true }) d)
  if first then raiseEvent 0x8003 (0x6900 + n) (pack [(4, d.counter (cPort n 5)), (8, (d.port n).status)] []) d else d

/-- Judge a frame (R444); its messages of IEEE 1588 act through their own commands. -/
def frameIn (n : Nat) (c : PortCfg) (frame : List Byte) (fcsOk : Bool) (d : Dev) : Dev :=
  let d := bump (cPort n 0) 1 d
  if !fcsOk then bump (cPort n 3) 1 d
  else if frame.length + 4 < 64 ∨ 9216 < frame.length + 4 then bump (cPort n 4) 1 d
  else if c.rxBytes.toNat < (d.port n).rxUsed + alignUp frame.length 64 then dropFull n d
  else match judgeFrame c frame with
    | (.drop k, _) => bump (cPort n k) 1 d
    | (.arp mac ip, some p) => queueFrame n (arpReply c p mac ip) d
    | (.solicit src _, some p) => queueFrame n (advertisement c p src) d
    | (.udp x, some _) =>
      if bitOf c.flags.toNat 2 ∧ (x.dport = 319 ∨ x.dport = 320) then d
      else match d.listener n x.dport with
        | some e => takeDatagram e n frame x.data d
        | none => bump (cPort n 6) 1 d
    | _ => d

/-- FRAME_RECEIVE: a frame on a port that is UP, with how many of its codewords were corrected. While REPLAY is set live
frames are dropped (R382). -/
def frameReceives (n : Nat) (frame : List Byte) (fcsOk : Bool) (corrected : Nat) (d : Dev) : Dev :=
  match (d.port n).cfg with
  | none => d
  | some c =>
    if !(d.port n).up then d
    else
      let d := bump (cPort n 2) corrected d
      if d.replaying then dropLive d else frameIn n c frame fcsOk (traceAdd 4 0x13 0 0 n frame d)

/-- FRAME_RECEIVE. -/
def execFrameReceive (port : Fin 8) (frame : List Byte) (fcsOk : Bool) (corrected : Nat) (s : State) :
    Host.Outcome State Fault Refusal := lift (frameReceives port.val frame fcsOk corrected) s

/-- REPLY_SEND: the oldest frame of the transmit buffer leaves; the last reply of a batch ends it (R155, R460). -/
def replySends (n : Nat) (d : Dev) : Dev :=
  match (d.port n).tx with
  | [] => d
  | (f, ends) :: rest =>
    if !(d.port n).up then d
    else
      let d := modPort n (fun p => { p with tx := rest }) d
      let d := bump (cPort n 1) 1 { d with out := { d.out with frames := d.out.frames ++ [(n, f)] } }
      match ends with
      | some (e, ens, v) => endService e ens v 1 d
      | none => d

/-- REPLY_SEND. -/
def execReplySend (port : Fin 8) (s : State) : Host.Outcome State Fault Refusal := lift (replySends port.val) s

/-! ## IEEE 1588 (R446, R361) -/

/-- Whether PTP runs on a port. -/
def Dev.ptpOn (d : Dev) (n : Nat) : Bool :=
  (d.port n).up && (match (d.port n).cfg with
    | some c => bitOf c.flags.toNat 2
    | none => false)

/-- PTP_SYNC: an exchange gives the servo's PLANT_OFFSET; PLANT is set with the second consecutive one. -/
def ptpSyncs (n : Nat) (offset intervalNs : U64) (d : Dev) : Dev :=
  if !d.ptpOn n then d
  else
    let good := d.time.goodSyncs + 1
    let lock := decide (2 ≤ good)
    let d := modPort n (fun p => { p with
      lastSync := d.time.ft, syncEvery := 16 * intervalNs, ptpLocked := p.ptpLocked || lock }) d
    { d with time := { d.time with goodSyncs := min good 2, plantOffset := offset, plant := d.time.plant || lock } }

/-- PTP_SYNC. -/
def execPtpSync (port : Fin 8) (offset intervalNs : U64) (s : State) : Host.Outcome State Fault Refusal :=
  lift (ptpSyncs port.val offset intervalNs) s

/-- Whether one Announce data set is better than another: the standard compares its fields in order, the lower first
(PRESUMED, log entry 18). -/
def betterSet : List Byte → List Byte → Bool
  | a :: as, b :: bs => if a = b then betterSet as bs else decide (a.toNat < b.toNat)
  | _, _ => false

/-- PTP_ANNOUNCE: the best time transmitter so far is kept. -/
def ptpAnnounces (n : Nat) (set : List Byte) (d : Dev) : Dev :=
  if !d.ptpOn n then d
  else
    let best := match d.time.transmitter with
      | none => set
      | some t => if betterSet set t then set else t
    { d with time := { d.time with transmitter := some best } }

/-- PTP_ANNOUNCE. -/
def execPtpAnnounce (port : Fin 8) (dataset : List Byte) (s : State) : Host.Outcome State Fault Refusal :=
  lift (ptpAnnounces port.val dataset) s

/-- A Delay_Req message of IEEE 1588 with a sequence number and the port's clock identity (PRESUMED, log entry 18). -/
def delayMessage (c : PortCfg) (seq : Nat) : List Byte :=
  [1, 2] ++ beBytes 2 44 ++ zeros 16 ++ (slice c.mac 0 3 ++ [0xFF, 0xFE] ++ c.mac.drop 3) ++ beBytes 2 1 ++ beBytes 2 seq ++
    [1, 0x7F] ++ zeros 10

/-- DELAY_REQ: the message leaves to the IEEE 1588 multicast address and is stamped. -/
def delayReqs (n : Nat) (d : Dev) : Dev :=
  match (d.port n).cfg with
  | none => d
  | some c =>
    if !d.ptpOn n then d
    else
      let (v, d) := drawFree d
      let v6 := !bitOf c.flags.toNat 0
      let mac := if v6 then [0x33, 0x33, 0, 0, 1, 0x81] else [1, 0, 0x5E, 0, 1, 0x81]
      let ip := if v6 then [0xFF, 0x0E] ++ zeros 12 ++ [1, 0x81] else ptpIp4
      let tag := if bitOf c.vlan.toNat 12 then some (c.vlan.toNat % 4096) else none
      let f := udpFrame c mac tag v6 ip 0 319 319 (delayMessage c (v.toNat % 65536))
      bump (cPort n 1) 1 { d with
        time := { d.time with delayReqAt := some d.time.ft }, out := { d.out with frames := d.out.frames ++ [(n, f)] } }

/-- DELAY_REQ. -/
def execDelayReq (port : Fin 8) (s : State) : Host.Outcome State Fault Refusal := lift (delayReqs port.val) s

/-- PTP_LOST: no Sync for three announced intervals; PLANT clears and PLANT_OFFSET stays. -/
def ptpLoses (n : Nat) (d : Dev) : Dev :=
  if d.ptpOn n ∧ (d.port n).ptpLocked = true ∧ 3 * (d.port n).syncEvery.toNat ≤ (d.time.ft - (d.port n).lastSync).toNat then
    let d := modPort n (fun p => { p with ptpLocked := false }) d
    let d := { d with time := { d.time with plant := false, goodSyncs := 0 } }
    raiseEvent 0x8004 (0x6900 + n) (leBytes 8 d.time.plantOffset.toNat) d
  else d

/-- PTP_LOST. -/
def execPtpLost (port : Fin 8) (s : State) : Host.Outcome State Fault Refusal := lift (ptpLoses port.val) s

end Sys2Proof.Machine
end

