-- ==== Sys2Proof/Machine/Registers.lean ====
section
/-! DEFINITION. The registers of BAR0 as they read, the SNAPSHOT request, the event ring and the simple register writes (R85 to R88, R115 to R119, R274, R287, R307, R316, R349, R362, R372, R384, R406 to R408, R435 to R438, R464, R467 to R474, R486 to R495, R506 to R510, R517, R533). -/

namespace Sys2Proof.Machine
open Sys2Proof

/-! ## Identity and mailbox (R474, R517, R533) -/

/-- BOOT_STATUS (R517). -/
def Start.bootStatus (s : Start) : Nat :=
  s.step.toNat + 2 ^ 4 * b2n s.running + 2 ^ 5 * b2n s.failed + 2 ^ 6 * b2n s.warm + 2 ^ 7 * b2n s.preserved +
    2 ^ 8 * s.error.toNat + 2 ^ 16 * b2n s.retainValid

/-- ABAVI_STATUS (R474). -/
def Dev.abaviStatus (d : Dev) : Nat :=
  let mgmt := match d.owl.current with
    | some r => decide (r.path ≠ .pcie)
    | none => false
  d.owl.pcie.state.code + 4 * b2n d.owl.pcie.refused + 8 * b2n mgmt + 2 ^ 32 * d.owl.pcie.doneSeq.toNat

/-- The eight bytes at an offset of a sparse buffer. -/
def bufWord (m : Sparse Byte) (o : Nat) : Nat := leNat (lookAll 0 m o 8)

/-- Registers 0x000000 to 0x000FFF. -/
def readIdentity (d : Dev) (o : Nat) : Nat :=
  if 0x800 ≤ o ∧ o < 0x880 then bufWord d.mode.msixTable (o - 0x800)
  else match o with
    | 0x000 => partWord
    | 0x008 => d.ident.firmware
    | 0x010 => d.logicalCount + 2 ^ 11 * b2n d.ident.owlReady
    | 0x020 => d.ident.offered.toNat % 2 ^ 64
    | 0x028 => d.ident.offered.toNat / 2 ^ 64
    | 0x030 => d.ident.agreed.toNat % 2 ^ 64
    | 0x038 => d.ident.agreed.toNat / 2 ^ 64
    | 0x100 => d.start.bootStatus
    | 0x108 => d.start.fwAddr.toNat
    | 0x110 => d.start.fwBytes.toNat
    | 0x118 => b2n d.start.fwGo
    | 0x200 => d.owl.pcie.lastSeq.toNat
    | 0x208 => d.abaviStatus
    | 0x900 => d.mode.msixPending.toNat
    | _ => 0

/-! ## Mode and paired registers (R306, R307, R349, R362, R372, R379, R384, R472, R512, R531) -/

/-- The WP registers. -/
def wpOffsets : List Nat := [0x3000, 0x3010, 0x3040, 0x3068]

/-- The value in force of a WP register. -/
def Dev.wpValue (d : Dev) (o : Nat) : Nat :=
  match o with
  | 0x3000 => b2n d.mode.det
  | 0x3010 => d.mode.traceCtl.toNat
  | 0x3040 => d.mode.queueCtl.toNat
  | 0x3068 => d.start.kind.toNat + 4 * b2n d.start.preserve + 8 * b2n d.start.perstWarm
  | _ => 0

/-- TRACE_STATUS (R384). -/
def Dev.traceStatus (d : Dev) : Nat :=
  let c := d.mode.traceCtl.toNat
  (if bitOf c 1 then d.journal.injectOff else d.journal.writeOff) % 2 ^ 40 + 2 ^ 40 * b2n (decide (c % 4 ≠ 0)) +
    2 ^ 41 * b2n d.journal.traceFull + 2 ^ 42 * b2n d.journal.diverged

/-- TIME_STATUS (R362). -/
def Time.status (t : Time) : Nat :=
  b2n t.aligned + 2 * b2n t.isRoot + 4 * b2n t.plant + 2 ^ 16 * t.error.toNat + 2 ^ 32 * t.rootId.toNat

/-- QUEUE_STATUS of the queue that QUEUE_SELECT names (R307). -/
def Dev.queueStatus (d : Dev) : Nat :=
  let u := d.queue d.mode.queueSelect.toNat
  u.state.code + 8 * b2n u.enabled + 2 ^ 4 * u.priority.toNat + 2 ^ 7 * b2n u.persistent +
    (match u.slot with
     | some n => 2 ^ 8 * n.toNat + 2 ^ 20
     | none => 0) + 2 ^ 32 * u.gen.toNat

/-- PAIR_STATUS (R472). -/
def Mode.pairStatus (m : Mode) : Nat := b2n (!m.pairs.isEmpty) + 2 * b2n m.mismatch + 2 ^ 16 * m.lastOffset.toNat

/-- Registers 0x003000 to 0x0037FF. -/
def readMode (d : Dev) (o : Nat) : Nat :=
  if wpOffsets.contains o then d.wpValue o
  else match o with
    | 0x3008 => d.modeState
    | 0x3018 => d.traceStatus
    | 0x3020 => d.time.ft.toNat
    | 0x3028 => d.time.status
    | 0x3030 => ceilDiv d.journal.used 4096 + 2 ^ 20 * b2n d.journal.full
    | 0x3038 => d.time.plantOffset.toNat
    | 0x3050 => d.mode.queueSelect.toNat
    | 0x3058 => d.queueStatus
    | 0x3060 => d.mode.pairStatus
    | 0x3070 => d.mode.bar4Base.toNat * 2 ^ 28
    | _ => 0

/-! ## Power and clock (R506 to R510, R524) -/

/-- Code of a power state (R496). -/
def PowerState.code : PowerState → Nat
  | .off => 0 | .denOnly => 0 | .starting => 1 | .active => 2 | .quiet => 3 | .idle => 4 | .failed => 5 | .shutdown => 6

/-- POWER_BOUNDS (R507). -/
def Bounds.powerWord (b : Bounds) : Nat :=
  b.ceilingW.toNat + 2 ^ 16 * b.floorStep.toNat + 2 ^ 24 * b.ceilingStep.toNat + 2 ^ 32 * b.rowFloor.toNat

/-- MEM_CTRL (R407). -/
def Bounds.memWord (b : Bounds) : Nat :=
  b.scrubHours.toNat + 2 ^ 8 * b.correctLimit.toNat + 2 ^ 11 * b2n b.writeback + 2 ^ 16 * b.innerThreshold.toNat

/-- Rows awake. -/
def Dev.awakeRows (d : Dev) : Nat := (d.health.rows.filter (fun r => r.2.awake)).length

/-- POWER_STATUS (R507). -/
def Dev.powerStatus (d : Dev) : Nat :=
  let p := d.power
  p.p1.toNat + 2 ^ 16 * p.p10.toNat + 2 ^ 32 * p.step.toNat + 2 ^ 40 * d.awakeRows + 2 ^ 48 * p.causesNow.toNat +
    2 ^ 57 * b2n (!p.overrides.isEmpty) + 2 ^ 58 * p.state.code

/-- Throttle threshold and shutdown value of a sensor in units of 1/8 °C (R505, R510). -/
def sensorLimits (n : Nat) : Option Int × Option Int :=
  if n < 4 then (some 760, some 880)
  else if n < 12 then (some 760, some 840)
  else if n < 14 then (some 880, some 1000)
  else if n = 15 then (some 520, none)
  else (none, none)

/-- A valid reading at or above a limit. -/
def Sensor.atLeast (s : Sensor) (limit : Option Int) : Bool :=
  !s.isOpen && (match limit with
    | some l => decide (l ≤ s.reading.toInt)
    | none => false)

/-- A SENSOR register (R510). -/
def Sensor.word (n : Nat) (s : Sensor) : Nat :=
  s.reading.toNat + 2 ^ 16 * b2n s.isOpen + 2 ^ 17 * b2n (s.atLeast (sensorLimits n).1) +
    2 ^ 18 * b2n (s.atLeast (sensorLimits n).2)

/-- A ROW register (R509). -/
def RowState.word (r : RowState) : Nat :=
  r.mv.toNat + 2 ^ 10 * b2n r.awake + 2 ^ 11 * b2n r.fault + 2 ^ 12 * b2n r.droop + 2 ^ 16 * r.currentDa.toNat

/-- MGMT_STATUS (R524). -/
def Health.mgmtStatus (h : Health) : Nat := b2n h.smbusStuck + 2 * b2n h.i3cStuck + 4 * b2n h.recovered

/-- Registers 0x004000 to 0x004FFF. -/
def readPower (b : Bounds) (d : Dev) (o : Nat) : Nat :=
  if 0x4020 ≤ o ∧ o < 0x40A0 then (d.sensor ((o - 0x4020) / 8)).word ((o - 0x4020) / 8)
  else if 0x4100 ≤ o ∧ o < 0x41F0 then (d.row ((o - 0x4100) / 8)).word
  else match o with
    | 0x4000 => b.powerWord
    | 0x4008 => d.powerStatus
    | 0x4010 => d.power.cause.toNat
    | 0x4018 => d.power.inputMv.toNat + 2 ^ 16 * d.power.inputFlags.toNat + 2 ^ 32 * d.power.inputCa.toNat
    | 0x41F0 => d.health.mgmtStatus
    | _ => 0

/-! ## Event ring control (R487) -/

/-- Registers 0x005000 to 0x005FFF. -/
def readEvents (e : Events) (o : Nat) : Nat :=
  match o with
  | 0x5000 => e.base.toNat
  | 0x5008 => b2n e.enable + 2 * e.log2.toNat + 2 ^ 16 * e.classEn.toNat
  | 0x5010 => e.producer.toNat
  | 0x5018 => e.consumer.toNat
  | 0x5020 => b2n e.enable + 2 * b2n e.overflow + 4 * b2n e.badBase + 8 * b2n e.badConsumer + 2 ^ 16 * e.held.length
  | _ => 0

/-! ## Fence map (R85 to R88) -/

/-- A row entry (R87); until a start builds the map its counts read 0 and GATED reads 1 (R86). -/
def Dev.rowEntry (d : Dev) (r : Nat) : Nat :=
  let built (n : Nat) := if d.mesh.mapBuilt then n else 0
  built (d.rowPlaces r).length + 2 ^ 6 * built ((rowPositions r).filter d.fenced).length +
    2 ^ 12 * b2n (d.row r).fenced + 2 ^ 13 * b2n (!(d.mesh.mapBuilt && (d.row r).awake))

/-- A logical placement entry (R88). -/
def Dev.placement (d : Dev) (logical : Nat) : Nat :=
  match d.placeOf logical with
  | some p => p
  | none => 0x8000

/-- Registers 0x010000 to 0x01FFFF. -/
def readFenceMap (d : Dev) (o : Nat) : Nat :=
  if o < 0x10000 + 8 * 1260 then
    (if d.mesh.mapBuilt then (d.core ((o - 0x10000) / 8)).entry.bits else CoreEntry.reset.bits)
  else if 0x12800 ≤ o ∧ o < 0x128F0 then d.rowEntry ((o - 0x12800) / 8)
  else if o = 0x12900 then d.mesh.epoch.toNat
  else if 0x13000 ≤ o ∧ o < 0x13960 then
    leNat (((rangeFrom ((o - 0x13000) / 2) 4).map (fun c => leBytes 2 (d.placement c))).flatten)
  else 0

/-! ## Stream engine status and arbitration (R272, R274, R287) -/

/-- Code of a slot state (R272). -/
def SState.code : SState → Nat
  | .idle => 0 | .active => 1 | .wait => 2 | .blocked => 3 | .done => 4 | .killed => 5 | .fault => 6

/-- A status register (R274). -/
def Slot.status (s : Slot) : Nat :=
  s.state.code + 2 ^ 3 * b2n s.shadow.isSome + 2 ^ 4 * b2n s.half + 2 ^ 5 * b2n s.late + 2 ^ 6 * b2n s.spilled +
    2 ^ 7 * b2n s.refused + 2 ^ 16 * s.gen.toNat

/-- Registers 0x020000 to 0x02FFFF: two 32-bit status registers to a word. -/
def readStreams (d : Dev) (o : Nat) : Nat :=
  if o < 0x20000 + 4 * 10080 then
    let s := (o - 0x20000) / 4
    (d.slot s).status + 2 ^ 32 * (d.slot (s + 1)).status
  else if 0x2A000 ≤ o ∧ o < 0x2A018 then
    let n := (o - 0x2A000) / 8
    (d.side n).force.toNat + 4 * b2n (d.side n).mode + 2 ^ 16 * (d.ready n).length
  else 0

/-! ## Exception capture (R115 to R119) -/

/-- Registers 0x030000 to 0x03FFFF. -/
def readCapture (d : Dev) (o : Nat) : Nat :=
  if o < 0x30000 + 32 * 1260 then
    let c := d.core ((o - 0x30000) / 32)
    match (o - 0x30000) % 32 with
    | 0 => c.sticky.toNat
    | 8 => c.capture.wordA
    | 16 => c.capture.wordB
    | _ => c.capture.stamp.toNat
  else if o = 0x3A000 then d.flagSummary.toNat
  else 0

/-! ## Memory (R406 to R408) -/

/-- MEM_STATUS (R408). scrubs: SCRUB_HOURS is not 0. -/
def Memory.status (m : Memory) (scrubs : Bool) : Nat :=
  m.scrubFrame.toNat + 2 ^ 20 * b2n (m.scrubActive && scrubs) + 2 ^ 21 * b2n m.selfRefresh + 2 ^ 22 * m.hot.toNat

/-- Registers 0x050000 to 0x05FFFF. -/
def readMemory (b : Bounds) (d : Dev) (o : Nat) : Nat :=
  if o < 0x52000 then
    match (d.chan ((o - 0x50000) / 32)).capture with
    | some r => field (memRecordBytes r) ((o - 0x50000) % 32) 8
    | none => 0
  else match o with
    | 0x52000 => b.memWord
    | 0x52008 => d.mem.status (b.scrubHours ≠ 0)
    | 0x52010 => d.mem.logNext.toNat + 2 ^ 15 * b2n d.mem.logWrapped
    | _ => 0

/-! ## Fabric and Ethernet (R435 to R438, R464) -/

/-- The fabric status register (R438). -/
def FabricCfg.status (c : FabricCfg) : Nat :=
  c.moduleId.toNat + 2 ^ 14 * (c.sizeX - 1) + 2 ^ 18 * (c.sizeY - 1) + 2 ^ 22 * (c.sizeZ - 1) + 2 ^ 28 * c.wrap.toNat +
    2 ^ 31 * b2n c.configured + 2 ^ 32 * b2n c.resetDone

/-- ENABLE as it reads (R437). -/
def LinkReg.enableReads (r : LinkReg) : Bool := r.enable && decide (r.state ≠ .ethernet)

/-- Registers 0x060000 to 0x07FFFF. -/
def readFabric (d : Dev) (o : Nat) : Nat :=
  if o < 0x60180 then (d.link ((o - 0x60000) / 8)).reg.status
  else if 0x60200 ≤ o ∧ o < 0x60380 then b2n (d.link ((o - 0x60200) / 8)).reg.enableReads
  else if o = 0x60400 then d.fabric.cfg.status
  else if 0x70000 ≤ o ∧ o < 0x70040 then (d.port ((o - 0x70000) / 8)).status
  else 0

/-! ## Completion summary (R316) -/

/-- Top word w: bit j is the OR of summary word 64 × w + j. -/
def Dev.topWord (d : Dev) (w : Nat) : Nat :=
  ((List.range 64).map (fun j => 2 ^ j * b2n (decide (look 0 d.fe.summary (64 * w + j) ≠ 0)))).sum

/-- Registers 0x100000 to 0x10FFFF. -/
def readSummary (d : Dev) (o : Nat) : Nat :=
  if o < 0x108000 then (look 0 d.fe.summary ((o - 0x100000) / 8)).toNat
  else if o < 0x108200 then d.topWord ((o - 0x108000) / 8)
  else 0

/-! ## The whole of BAR0 (R467) -/

/-- The 64-bit word at an aligned offset of BAR0; a reserved offset reads zero. -/
def readReg (b : Bounds) (d : Dev) (o : Nat) : Nat :=
  if o < 0x1000 then readIdentity d o
  else if o < 0x2000 then bufWord d.owl.pcie.request (o - 0x1000)
  else if o < 0x3000 then bufWord d.owl.pcie.response (o - 0x2000)
  else if o < 0x3800 then readMode d o
  else if o < 0x4000 then
    (if wpOffsets.contains (o - 0x800) then 2 ^ 64 - 1 - d.wpValue (o - 0x800) else 0)
  else if o < 0x5000 then readPower b d o
  else if o < 0x6000 then readEvents d.events o
  else if o < 0x10000 then 0
  else if o < 0x20000 then readFenceMap d o
  else if o < 0x30000 then readStreams d o
  else if o < 0x40000 then readCapture d o
  else if o < 0x50000 then d.counter o
  else if o < 0x60000 then readMemory b d o
  else if o < 0x80000 then readFabric d o
  else if o < 0x100000 then 0
  else if o < 0x110000 then readSummary d o
  else if o < 0x400000 then 0
  else if o < 0x580000 then d.counter o
  else 0

/-! ## SNAPSHOT (R486) -/

/-- The first faulty OFFSET of a snapshot: unaligned, in the mailbox buffers or beyond BAR0. -/
def snapFault (b : List Byte) : List Nat → Option Nat
  | [] => none
  | i :: is =>
    let o := field b (0x24 + 4 * i) 4
    if o % 8 ≠ 0 ∨ (0x1000 ≤ o ∧ o < 0x3000) ∨ 2 ^ 24 ≤ o then some (0x24 + 4 * i) else snapFault b is

/-- SNAPSHOT: every value from the last Den clock edge, with that edge's fabric time. -/
def snapshotReq (eb : Bounds) (edge : Dev) (b : List Byte) (d : Dev) : Answer :=
  let n := field b 0x20 4
  if n = 0 ∨ 504 < n then .error (1, 0x20)
  else match snapFault b (List.range n) with
    | some o => .error (1, o)
    | none => .ok (leBytes 8 edge.time.ft.toNat ++
        ((List.range n).map (fun i => leBytes 8 (readReg eb edge (field b (0x24 + 4 * i) 4)))).flatten, d)

/-- The fields of a SNAPSHOT by its COUNT; a COUNT outside 1 to 504 is judged by its own rule, so it asks for the fields that
LENGTH holds. -/
def snapFields (b : List Byte) : List (Nat × Nat) :=
  let n := field b 0x20 4
  u 4 :: List.replicate (if n = 0 ∨ 504 < n then (field b 2 2 - 4) / 4 else n) (u 4)

/-- SNAPSHOT. -/
def execSnapshot (s : State) : Host.Outcome State Fault Refusal :=
  lift (fun d => (serveReq (isOp 3) true true 0 true snapFields (snapshotReq s.edgeBounds s.atEdge) d).1) s

/-! ## The event ring (R487 to R491) -/

/-- A write that sets ENABLE (R488). -/
def startRing (d : Dev) : Dev :=
  let e := d.events
  if e.enable then d
  else if e.base.toNat % 4096 = 0 ∧ d.inWindow e.base.toNat (64 * 2 ^ e.log2.toNat) = true then
    { d with events := { e with enable := true, producer := 0, consumer := 0 } }
  else hwSet 0x5020 2 { d with events := { e with badBase := true } }

/-- A write of EVENT_CTRL (R487, R488): LOG2 outside 6 to 16 keeps its value, and LOG2 is kept while ENABLE is set. -/
def writeEventCtl (v : Nat) (d : Dev) : Dev :=
  let e := d.events
  let l := bits v 5 1
  let d := { d with events := { e with
      classEn := BitVec.ofNat 9 (bits v 24 16),
      log2 := if e.enable = false ∧ 6 ≤ l ∧ l ≤ 16 then BitVec.ofNat 5 l else e.log2 } }
  if bitOf v 0 then startRing d else { d with events := { d.events with enable := false } }

/-- EVENT_RING_ENABLE: a write of EVENT_CTRL with ENABLE set. -/
def execEventRingEnable (value : U64) (s : State) : Host.Outcome State Fault Refusal :=
  lift (guarded (bitOf value.toNat 0) (writeEventCtl value.toNat)) s

/-- EVENT_RING_DISABLE: a write of EVENT_CTRL with ENABLE clear. -/
def execEventRingDisable (value : U64) (s : State) : Host.Outcome State Fault Refusal :=
  lift (guarded (!bitOf value.toNat 0) (writeEventCtl value.toNat)) s

/-- A write to EVENT_CONSUMER (R489). -/
def writeConsumer (v : U32) (d : Dev) : Dev :=
  let e := d.events
  if (e.producer - v).toNat ≤ (e.producer - e.consumer).toNat then { d with events := { e with consumer := v } }
  else bump (cOwl 11) 1 (hwSet 0x5020 3 { d with events := { e with badConsumer := true } })

/-- EVENT_CONSUMER_WRITE. -/
def execEventConsumerWrite (value : U64) (s : State) : Host.Outcome State Fault Refusal :=
  lift (writeConsumer (value.setWidth 32)) s

/-- The bytes of an event record (R491). -/
def Event.bytes (e : Event) : List Byte :=
  leBytes 8 e.stamp.toNat ++ leBytes 2 e.code.toNat ++ leBytes 2 e.source.toNat ++ leBytes 4 e.seq.toNat ++ slice e.detail 0 48

/-- Write the oldest held event to the ring (R490); none in D3hot (R529). -/
def ringWrite (d : Dev) : Dev :=
  let e := d.events
  match e.held with
  | [] => d
  | x :: rest =>
    if e.enable = true ∧ (e.producer - e.consumer).toNat < 2 ^ e.log2.toNat ∧ d.mode.d3hot = false then
      let a := e.base.toNat + 64 * (e.producer.toNat % 2 ^ e.log2.toNat)
      let d := hostWrite a x.bytes false d
      let d := { d with events := { d.events with held := rest, producer := e.producer + 1 } }
      msixBit 1 (bump (cOwl 15) 1 d)
    else d

/-- EVENT_WRITE. -/
def execEventWrite (s : State) : Host.Outcome State Fault Refusal := lift ringWrite s

/-- EVENTS_LOST (R490). -/
def execEventsLost (s : State) : Host.Outcome State Fault Refusal := lift takeLost s

/-! ## Writes with rows of their own (R10, R117, R118) -/

/-- FLAG_SUMMARY_CLEAR (R117). -/
def execFlagSummaryClear (value : U64) (s : State) : Host.Outcome State Fault Refusal :=
  lift (clearSticky (value.setWidth 6)) s

/-- Re-arm a core's capture (R118): a capture of the same Den cycle stands (R473). -/
def rearmCapture (p : Nat) (d : Dev) : Dev :=
  if bitOf (d.clears (0x30008 + 32 * p) 8) 3 then modCore p (fun c => { c with capture := Capture.reset }) d else d

/-- CAPTURE_REARM. -/
def execCaptureRearm (p : PosId) (s : State) : Host.Outcome State Fault Refusal := lift (rearmCapture p.val) s

/-- COUNTER_WRITE (R9, R10). -/
def execCounterWrite (offset : BitVec 24) (value : U64) (s : State) : Host.Outcome State Fault Refusal :=
  lift (writeCounter offset.toNat value.toNat) s

/-! ## Wrong accesses and lost halves (R469, R471) -/

/-- BAD_ACCESS (R469): a read returns all ones. -/
def badAccessDev (isWrite : Bool) (n : Nat) (d : Dev) : Dev :=
  let d := bump (cOwl 11) 1 d
  if isWrite then d
  else { d with out := { d.out with completions := d.out.completions ++ [(List.replicate n 0xFF, false)] } }

/-- Whether BAR0 accepts an access (R469). -/
def goodAccess (o n : Nat) : Bool := decide ((n = 4 ∨ n = 8) ∧ o % n = 0)

/-- BAD_ACCESS: nothing when the access is a good one. -/
def execBadAccess (isWrite : Bool) (offset : BitVec 24) (width : Nat) (s : State) : Host.Outcome State Fault Refusal :=
  lift (guarded (!goodAccess offset.toNat width) (badAccessDev isWrite width)) s

/-- The held halves of a WP register. -/
def Dev.pair (d : Dev) (o : Nat) : PairHalves := look PairHalves.reset d.mode.pairs o

/-- Set the held halves of a WP register. -/
def setPair (o : Nat) (h : PairHalves) (d : Dev) : Dev :=
  { d with mode := { d.mode with pairs := put PairHalves.reset d.mode.pairs o h } }

/-- Drop the halves of a WP register and count it (R471, R472). -/
def dropPair (o : Nat) (d : Dev) : Dev :=
  let d := setPair o PairHalves.reset d
  bump (cOwl 12) 1 (hwSet 0x3060 1 { d with mode := { d.mode with mismatch := true, lastOffset := BitVec.ofNat 12 o } })

/-- The edge at which the one half held came. -/
def PairHalves.since (h : PairHalves) : Option Nat :=
  match h.value, h.complement with
  | some (_, e), none => some e
  | none, some (_, e) => some e
  | _, _ => none

/-- PAIR_TIMEOUT (R471): 1,024 Den cycles without the partner. -/
def execPairTimeout (offset : BitVec 12) (s : State) : Host.Outcome State Fault Refusal :=
  lift (fun d =>
    let o := 0x3000 + offset.toNat
    match (d.pair o).since with
    | some e => guarded (decide (e + 1024 ≤ d.time.edges)) (dropPair o) d
    | none => d) s

/-! ## Parity (R8, R473) -/

/-- Whether an offset holds an RW or WP configuration register, which parity covers (R8). -/
def parityCovers (o : Nat) : Bool :=
  [0x108, 0x110, 0x118, 0x3000, 0x3010, 0x3040, 0x3050, 0x3068, 0x3070, 0x4000, 0x5000, 0x5008, 0x5018, 0x2A000, 0x2A008,
    0x2A010, 0x52000].contains o || (decide (0x60200 ≤ o ∧ o < 0x60380) && decide (o % 8 = 0))

/-- A parity mismatch (R473): the event, the count, and the reload, which leaves every register at its copy's value, the value
last in effect; held halves in the block are dropped without PAIR_MISMATCH. -/
def parityReload (o : Nat) (d : Dev) : Dev :=
  let d := bump (cOwl 13) 1 (raiseEvent 0x6005 0x8001 (leBytes 4 o) d)
  if 0x3000 ≤ o ∧ o < 0x4000 then { d with mode := { d.mode with pairs := [] } } else d

/-- CONFIG_PARITY. -/
def execConfigParity (offset : BitVec 24) (s : State) : Host.Outcome State Fault Refusal :=
  lift (guarded (parityCovers offset.toNat) (parityReload offset.toNat)) s

/-! ## DET and the trace (R350, R379, R382) -/

/-- A refused write of the mode register or TRACE_CTRL. -/
def refuseMode (d : Dev) : Dev := hwSet 0x3008 2 { d with mode := { d.mode with refused := true } }

/-- A paired write of DET (R350, R485). -/
def detWrites (v : Nat) (d : Dev) : Dev :=
  if d.quiescent = false ∨ (bitOf v 0 = true ∧ d.agreed 1 = false) then refuseMode d
  else { d with mode := { d.mode with det := bitOf v 0 } }

/-- DET_WRITE. -/
def execDetWrite (value : U64) (s : State) : Host.Outcome State Fault Refusal := lift (detWrites value.toNat) s

/-- Recording begins: the header of the region (R380). -/
def startRecording (base : Nat) (ctl : Nat) (d : Dev) : Dev :=
  let src := bits ctl 8 2
  let header := leBytes 4 0x54524345 ++ leBytes 4 src ++ leBytes 8 d.time.ft.toNat ++ leBytes 8 256 ++ leBytes 8 0 ++
    leBytes 8 0 ++ leBytes 8 0 ++ leBytes 4 0xFFFFFFFF ++ zeros 204
  let d := memWrite 4 base header false d
  { d with journal := { d.journal with
      traceRecords := 0, writeOff := 256, startedAt := d.time.ft, traceFull := false, divergeOff := 0, divergeAt := 0,
      divergeCore := 0xFFFFFFFF, sources := BitVec.ofNat 7 src } }

/-- Replay of the region begins (R382). -/
def startTraceReplay (base : Nat) (d : Dev) : Dev :=
  let h := d.bytesAt base 256
  { d with journal := { d.journal with
      traceRecords := field h 0x18 8, startedAt := d.time.ft, injectOff := 256, injected := 0, admits := [], publishes := [],
      sources := BitVec.ofNat 7 (field h 4 1), divergeOff := 0, divergeAt := 0, divergeCore := 0xFFFFFFFF } }

/-- A paired write of TRACE_CTRL (R379, R485). -/
def traceWrites (v : Nat) (d : Dev) : Dev :=
  let rec_ := bitOf v 0
  let play := bitOf v 1
  let old := d.mode.traceCtl.toNat
  if (rec_ && play) || (play && !d.quiescent) || ((rec_ || play) && (d.journal.region.isNone || !d.agreed 12)) then refuseMode d
  else
    let d := { d with mode := { d.mode with traceCtl := BitVec.ofNat 10 v } }
    match d.journal.region with
    | none => d
    | some (base, _) =>
      if rec_ && !bitOf old 0 then startRecording base v d
      else if play && !bitOf old 1 then startTraceReplay base d
      else d

/-- TRACE_RECORD: a write of TRACE_CTRL with RECORD set. -/
def execTraceRecord (value : U64) (s : State) : Host.Outcome State Fault Refusal :=
  lift (guarded (bitOf value.toNat 0) (traceWrites value.toNat)) s

/-- TRACE_REPLAY: a write of TRACE_CTRL with REPLAY set. -/
def execTraceReplay (value : U64) (s : State) : Host.Outcome State Fault Refusal :=
  lift (guarded (bitOf value.toNat 1) (traceWrites value.toNat)) s

/-- The slot of a global stream number. -/
def Dev.slotOfGlobal (d : Dev) (n : Nat) : Option Nat := d.slotOfStream (n % 2 ^ 14)

/-- A recorded half lands as its STREAM_DATA would (R380 TYPE 0x14). -/
def injectHalf (bytes : List Byte) (s : Nat) (d : Dev) : Dev :=
  match (d.slot s).desc with
  | none => d
  | some x =>
    if (d.slot s).state = .active ∧ x.farKind = 5 ∧ x.out = false then
      slotProgress s (landBytes s x (bytes.map (fun b => (b, false))) d)
    else d

/-- A recorded request goes to the Owl (R380 TYPE 0x16). -/
def injectRequest (bytes : List Byte) (d : Dev) : Dev :=
  { d with owl := { d.owl with current := some { path := .pcie, bytes := slice bytes 0 4096, injected := true } } }

/-- Whether a recorded input can go in now: a request waits for a free Owl, and a half or host data for the slot that takes
it. -/
def Dev.canInject (d : Dev) (r : JRecord) : Bool :=
  match r.type.toNat with
  | 0x14 => (match d.slotOfGlobal r.source.toNat with
      | some s => decide ((d.slot s).state = .active ∧ (d.slotRun s).landed = 0)
      | none => false)
  | 0x15 => (match d.slotOfGlobal r.source.toNat with
      | some s => (d.outstanding s).isSome
      | none => false)
  | 0x16 => d.owl.current.isNone
  | _ => true

/-- Inject one record (R382). Admissions, publications and digests are no inputs of their own. -/
def injectRecord (r : JRecord) (d : Dev) : Dev :=
  match r.type.toNat with
  | 0x11 => badHeads r.queue.toNat 16 (settle r.queue.toNat (takeEntries r.queue.toNat r.index [{ bytes := r.payload, poisoned := false }] d))
  | 0x12 => doorbellDev r.queue.toNat 8 (field r.payload 0 8) d
  | 0x13 => (match (d.port r.source.toNat).cfg with
      | some c => frameIn r.source.toNat c r.payload true d
      | none => d)
  | 0x14 => (match d.slotOfGlobal r.source.toNat with
      | some s => injectHalf r.payload s d
      | none => d)
  | 0x15 => (match d.slotOfGlobal r.source.toNat with
      | some s => hostDataArrives s (d.slot s).gen r.payload false d
      | none => d)
  | 0x16 => injectRequest r.payload d
  | _ => d

/-- REPLAY clears itself (R382). -/
def endTraceReplay (d : Dev) : Dev :=
  { d with mode := { d.mode with traceCtl := d.mode.traceCtl &&& ~~~2 } }

/-- Inject the next record of the trace once its offset from START has come (R382). -/
def traceInjects (d : Dev) : Dev :=
  match if d.replaying then d.journal.region else none with
  | none => d
  | some (base, len) =>
    let j := d.journal
    if j.traceRecords ≤ j.injected ∨ len ≤ j.injectOff then endTraceReplay d
    else
      let r := traceRead d (base + j.injectOff)
      let start := BitVec.ofNat 64 (field (d.bytesAt base 256) 8 8)
      if (d.time.ft - j.startedAt).toNat < (r.stamp - start).toNat ∨ d.canInject r = false then d
      else
        let d := { d with journal := { j with injectOff := j.injectOff + r.size, injected := j.injected + 1 } }
        let d := injectRecord r d
        if j.traceRecords ≤ j.injected + 1 then endTraceReplay d else d

/-- TRACE_INJECT. -/
def execTraceInject (s : State) : Host.Outcome State Fault Refusal := lift traceInjects s

end Sys2Proof.Machine
end

