-- ==== Sys2Proof/Machine/Power.lean ====
section
/-! DEFINITION. The power manager: bounds, the health tick, safety limits, rows, idling, management-bus faults, and the fence and health requests (R496 to R511, R518 to R527). -/

namespace Sys2Proof.Machine
open Sys2Proof

/-! ## Causes and events (R504, R508, R526, R533) -/

/-- Set bits of THROTTLE_CAUSE; a bit that becomes set is the cause of vector 4. -/
def setCause (c : BitVec 9) (d : Dev) : Dev :=
  let d := hwSets 0x4010 9 c.toNat d
  let d' := { d with power := { d.power with cause := d.power.cause ||| c } }
  if d'.power.cause = d.power.cause then d else msixBit 4 d'

/-- 0x6001 THROTTLE with its source, causes, steps, and the sensor that throttles; with no sensor its READING is open (log
entry 17). -/
def throttleEvent (source cause before after : Nat) (sensor : Option Nat) (d : Dev) : Dev :=
  let (n, r, d) := match sensor with
    | some i => (i, (d.sensor i).reading.toNat, d)
    | none => let (v, d) := drawFree d; (0xFF, v.toNat % 2 ^ 16, d)
  raiseEvent 0x6001 source (pack [(2, cause), (1, before), (1, after), (1, n), (2, r)] []) d

/-- The cause bit of a sensor (R508). -/
def sensorCause (n : Nat) : BitVec 9 := if n < 4 then 8 else if n < 12 then 16 else if n < 14 then 32 else 64

/-- The sensors that a rule picks. -/
def Dev.sensorsWith (d : Dev) (p : Nat → Sensor → Bool) : List Nat := (List.range 16).filter (fun i => p i (d.sensor i))

/-- The sensors at or above their throttle thresholds. -/
def Dev.hotSensors (d : Dev) : List Nat := d.sensorsWith (fun i s => s.atLeast (sensorLimits i).1)

/-- Whether every sensor lies more than 5 °C below its threshold. -/
def Dev.allCool (d : Dev) : Bool :=
  (List.range 16).all (fun i => match (sensorLimits i).1 with
    | some l => decide ((d.sensor i).reading.toInt < l - 40)
    | none => true)

/-! ## Sensors (R510, R523) -/

/-- A sensor's wire opens: 0x6004 and SENSOR_FAULTS once per opening. -/
def openSensor (n : Nat) (d : Dev) : Dev :=
  let was := (d.sensor n).isOpen
  let d := setSensor n { reading := 0x7FFF, isOpen := true } d
  if was then d else raiseEvent 0x6004 0x8003 [BitVec.ofNat 8 n] (bump (cPower 6) 1 d)

/-- SENSOR_OPEN. -/
def execSensorOpen (sensor : Fin 16) (s : State) : Host.Outcome State Fault Refusal := lift (openSensor sensor.val) s

/-- The tick's readings. -/
def readSensors (env : TickEnv) (d : Dev) : Dev :=
  forEach (fun i d => match env.readings[i]? with
    | none => d
    | some r => if env.opens.getD i false then openSensor i d else setSensor i { reading := r, isOpen := false } d)
    (List.range 16) d

/-- HOT of MEM_STATUS: stacks above 85 °C (R394); an open sensor leaves its bit. -/
def hotBits (d : Dev) : Dev :=
  let bit (s : Nat) : Nat :=
    let x := d.sensor (4 + s)
    b2n (if x.isOpen then bitOf d.mem.hot.toNat s else decide (680 < x.reading.toInt))
  { d with mem := { d.mem with hot := BitVec.ofNat 8 ((List.range 8).map (fun s => 2 ^ s * bit s)).sum } }

/-! ## Floors and overrides (R449, R498, R503, R526) -/

/-- Rows that are not fenced. -/
def Dev.openRows (d : Dev) : List Nat := (List.range 30).filter (fun r => !(d.row r).fenced && !(d.row r).fault)

/-- The cores that the floors of enabled entries keep awake (R449). -/
def Dev.serviceFloor (d : Dev) : List Nat :=
  (d.service.services.map (fun s => match decide (s.2.state ≠ .disabled), s.2.cfg, s.2.layout with
    | true, some x, some l => floorCores x l
    | _, _, _ => [])).flatten

/-- The cause of an override that the clock floor meets at a step (R503): the tick's, else the one it had, else none where the
ceiling lies below the floor. -/
def floorOverride (b : Bounds) (step : Nat) (cause : BitVec 9) (old : List (Nat × BitVec 9)) : Option (BitVec 9) :=
  if b.floorStep.toNat ≤ step then none
  else if cause ≠ 0 then some cause
  else match old.find? (fun o => o.1 = 1) with
    | some o => some o.2
    | none => if b.ceilingStep.toNat < b.floorStep.toNat then some 0 else none

/-- The rows of a list of cores, and those of them whose regulator has not failed. -/
def Dev.floorRows (d : Dev) (cores : List Nat) : List Nat × List Nat :=
  let rows := (cores.map (· / 40)).eraseDups
  (rows, rows.filter (fun r => !(d.row r).fault))

/-- The overrides after a tick: bound, cause, REQUESTED and IN_FORCE (R503, R526). -/
def Dev.overridesNow (b : Bounds) (d : Dev) (before step : Nat) (cause : BitVec 9) : List ((Nat × BitVec 9) × Nat × Nat) :=
  let power := decide (before = 10 ∧ step = 10 ∧ b.ceilingW.toNat < 1500 ∧ b.ceilingW.toNat < d.power.p1.toNat)
  let service := d.floorRows d.serviceFloor
  let rowCut := decide (d.openRows.length < b.rowFloor.toNat) && (List.range 30).any (fun r => (d.row r).fault)
  (if power then [((0, 0), b.ceilingW.toNat, d.power.p1.toNat)] else []) ++
    (match floorOverride b step cause d.power.overrides with
     | some c => [((1, c), b.floorStep.toNat, step)]
     | none => []) ++
    (if rowCut then [((3, 0), b.rowFloor.toNat, d.openRows.length)] else []) ++
    (if service.2.length < service.1.length then [((4, 0), service.1.length, service.2.length)] else [])

/-- Take the overrides of a tick: 0x6002 and the count where one begins or its cause changes. -/
def takeOverrides (now : List ((Nat × BitVec 9) × Nat × Nat)) (d : Dev) : Dev :=
  let old := d.power.overrides
  let new := now.filter (fun o => !old.contains o.1)
  let d := { d with power := { d.power with overrides := now.map (·.1) } }
  let d := forEach (fun (o : (Nat × BitVec 9) × Nat × Nat) d =>
    raiseEvent 0x6002 0x8003 (pack [(1, o.1.1), (2, o.1.2.toNat), (2, o.2.1), (2, o.2.2)] []) (bump (cPower 3) 1 d)) new d
  if old.isEmpty && !now.isEmpty then msixBit 4 d else d

/-- The override of the clock floor between ticks; the others stand (R28, R503). -/
def Dev.floorNow (b : Bounds) (d : Dev) (step : Nat) (cause : BitVec 9) : List ((Nat × BitVec 9) × Nat × Nat) :=
  ((d.power.overrides.filter (fun o => o.1 ≠ 1)).map (fun o => (o, 0, 0))) ++
    (match floorOverride b step cause d.power.overrides with
     | some c => [((1, c), b.floorStep.toNat, step)]
     | none => [])

/-- The floors that a thermal shutdown ends (R28, R503): the clock floor, ROW_FLOOR and the service floors, where one is set. -/
def Dev.floorsEnded (b : Bounds) (d : Dev) : List ((Nat × BitVec 9) × Nat × Nat) :=
  let service := (d.floorRows d.serviceFloor).1
  if d.power.state = .active then
    [((1, 0x100), b.floorStep.toNat, 0)] ++ (if b.rowFloor = 0 then [] else [((3, 0x100), b.rowFloor.toNat, 0)]) ++
      (if service.isEmpty then [] else [((4, 0x100), service.length, 0)])
  else []

/-! ## Stopping the module (R505, R523) -/

/-- Every group stops and no command receives a completion; device memory is lost, and the 54 V regulators go off. -/
def powerDown (st : PowerState) (d : Dev) : Dev :=
  { d with
    power := { d.power with state := st, regulators54 := false, step := 0, throttleRun := false },
    start := { d.start with retainValid := false }, ident := { d.ident with owlReady := false },
    fe := { d.fe with running := false, runs := [], pollList := [] },
    mesh := { d.mesh with jobs := [], cores := d.mesh.cores.map (fun c => (c.1, { c.2 with lm := [], lmPoison := [], acc := [], accPoison := [], dense := Dense.reset, waiting := [], threads := [] })) },
    scoring := { d.scoring with groups := [] }, retries := [], streams := { d.streams with runs := [], spill := [] },
    mem := { d.mem with cells := [], poison := [], selfRefresh := false, scrubActive := false },
    health := { d.health with rows := d.health.rows.map (fun r => (r.1, { r.2 with awake := false, mv := 0, currentDa := 0 })) } }

/-- A shutdown: SHUTDOWN in THROTTLE_CAUSE, 0x6001, and the state SHUTDOWN with THERMTRIP# asserted. floors: the bounds that
it overrides (R28). -/
def shutDown (sensor : Option Nat) (floors : List ((Nat × BitVec 9) × Nat × Nat)) (d : Dev) : Dev :=
  let step := d.power.step.toNat
  let d := throttleEvent 0x8003 0x100 step 0 sensor (setCause 0x100 d)
  let d := powerDown .shutdown (takeOverrides floors d)
  { d with health := { d.health with thermtrip := true },
           power := { d.power with causesNow := d.power.causesNow ||| 0x100 } }

/-- Whether the 54 V regulators run. -/
def Dev.powered (d : Dev) : Bool :=
  decide (d.power.state = .active ∨ d.power.state = .quiet ∨ d.power.state = .idle ∨ d.power.state = .starting)

/-- End a start that a shutdown meets. -/
def abortStart (d : Dev) : Dev :=
  if d.start.running then
    msixBit 3 { d with start := { d.start with running := false, failed := true, completed := false, test := none } }
  else d

/-- SHUTDOWN: a valid reading at or above a shutdown value. -/
def execShutdown (sensor : Fin 16) (reading : U16) (s : State) : Host.Outcome State Fault Refusal :=
  lift (fun d =>
    let x : Sensor := { reading := reading, isOpen := (d.sensor sensor.val).isOpen }
    guarded (d.powered && x.atLeast (sensorLimits sensor.val).2)
      (fun d => abortStart (shutDown (some sensor.val) (d.floorsEnded s.bounds) (setSensor sensor.val x d))) d) s

/-- PRESENT, REVERSED, UNDER and OVER of an input (R508). -/
def inputBits (mv : Nat) (reversed : Bool) : BitVec 4 :=
  BitVec.ofNat 4 (b2n (!reversed && decide (44000 ≤ mv ∧ mv ≤ 60000)) + 2 * b2n reversed + 4 * b2n (decide (mv < 44000)) +
    8 * b2n (decide (60000 < mv)))

/-- INPUT_STATUS of an input. -/
def setInput (mv : U16) (reversed : Bool) (d : Dev) : Dev :=
  { d with power := { d.power with inputMv := mv, inputFlags := inputBits mv.toNat reversed } }

/-- INPUT_OUT_OF_RANGE (R523): outside 44 to 60 V for 1 ms while running. -/
def execInputOutOfRange (millivolts : U16) (s : State) : Host.Outcome State Fault Refusal :=
  lift (fun d =>
    let out := decide (millivolts.toNat < 44000 ∨ 60000 < millivolts.toNat)
    guarded (out && d.powered) (fun d => abortStart (shutDown none [] (setInput millivolts false d))) d) s

/-- A reversed input (R523): blocked, with REVERSED and 0x6003; a running module goes down with its input. -/
def reversedInput (mv : U16) (d : Dev) : Dev :=
  let d := raiseEvent 0x6003 0x8003 (leBytes 2 mv.toNat) (setInput mv true d)
  if d.powered then abortStart (shutDown none [] d) else { d with power := { d.power with state := .denOnly } }

/-- INPUT_REVERSED. -/
def execInputReversed (millivolts : U16) (s : State) : Host.Outcome State Fault Refusal :=
  lift (fun d => guarded (decide (d.power.state ≠ .off)) (reversedInput millivolts) d) s

/-! ## Rows (R498, R500, R501, R518) -/

/-- Whether a row is needed (R498): a job, a task, a batch or a thread-mode image on one of its cores, a service floor, or
ROW_FLOOR. -/
def Dev.rowNeeded (b : Bounds) (d : Dev) (r : Nat) : Bool :=
  let here (l : List Nat) : Bool := l.any (fun c => decide (c / 40 = r))
  d.mesh.jobs.any (fun j => here j.cores) ||
    d.fe.tasks.any (fun t => t.2.present && (match d.imageVersion t.2.image t.2.version with
      | some v => here (v.image.cores.map (·.toNat))
      | none => false)) ||
    d.scoring.groups.any (fun g => (g.2.active.isSome || g.2.finishing.isSome) && (match g.2.layout with
      | some l => here l.ring
      | none => false)) ||
    (rowPositions r).any (fun p => (d.core p).entry.thread) ||
    here d.serviceFloor || (d.openRows.take b.rowFloor.toNat).contains r

/-- A row is gated: its cores lose their logic state (R23). -/
def gateRow (r : Nat) (d : Dev) : Dev :=
  if (d.row r).awake then modRow r (fun x => { x with awake := false }) (forEach loseLogic (rowPositions r) d) else d

/-- ROW_GATE: a row needed by nothing for 50 µs is gated. -/
def execRowGate (row : Fin 30) (s : State) : Host.Outcome State Fault Refusal :=
  lift (fun d => guarded (decide (d.power.state = .active) && !d.rowNeeded s.bounds row.val)
    (gateRow row.val) d) s

/-- The rows of ROW_FLOOR wake (R498). -/
def wakeFloor (b : Bounds) (d : Dev) : Dev :=
  guarded (decide (d.power.state = .active)) (forEach wakeRow (d.openRows.take b.rowFloor.toNat)) d

/-- A supply inside 620 to 880 mV. -/
def clampMv (mv : Nat) : BitVec 10 := BitVec.ofNat 10 (max 620 (min 880 mv))

/-- ROW_VOLTAGE_LOOP (R500): the lowest voltage at which the monitors report margin; with the row's current. -/
def execRowVoltageLoop (row : Fin 30) (lowest : BitVec 10) (currentDa : U16) (s : State) : Host.Outcome State Fault Refusal :=
  lift (fun d => guarded (d.row row.val).awake
    (modRow row.val (fun r => { r with mv := clampMv lowest.toNat, currentDa := currentDa })) d) s

/-- Before a step rises every awake row's voltage is raised to the value that the step needs (R500), which is open (log
entry 4): at least what it is. -/
def raiseRows (d : Dev) : Dev :=
  forEach (fun r d =>
    if (d.row r).awake then
      (let (v, d) := drawFree d
       modRow r (fun x => { x with mv := clampMv (max 620 x.mv.toNat + v.toNat % 261) }) d)
    else d) (List.range 30) d

/-- DROOP_STRETCH (R501): no event; cycles grow longer, which the model has no state for. -/
def execDroopStretch (row : Fin 30) (s : State) : Host.Outcome State Fault Refusal :=
  lift (fun d => guarded (d.row row.val).awake
    (fun d => bump (cPower 2) 1 (hwSet (0x4100 + 8 * row.val) 12 (modRow row.val (fun r => { r with droop := true }) d))) d) s

/-- A regulator that reaches 45 A (R518): output off, FAULT, 0x6001 of the row limit, the row fenced with cause 0x4. -/
def regulatorFails (row : Nat) (d : Dev) : Dev :=
  let step := d.power.step.toNat
  let d := throttleEvent (0x8100 + row) d.power.causesNow.toNat step step none d
  let d := modRow row (fun r => { r with fault := true, awake := false, mv := 0, currentDa := 450 }) d
  faultFence (42 * row) 4 d

/-- REGULATOR_FAULT. -/
def execRegulatorFault (row : Fin 30) (s : State) : Host.Outcome State Fault Refusal :=
  lift (fun d => guarded (!(d.row row.val).fault) (regulatorFails row.val) d) s

/-! ## Idling (R497) -/

/-- Whether nothing keeps the module ACTIVE. -/
def Dev.mayIdle (b : Bounds) (d : Dev) : Bool :=
  d.fe.queues.all (fun q => match q.2.state with
    | .unused | .stopped | .idle => true
    | .parked => (match d.blockedWait q.1 with
      | some c => namesFence c.bytes
      | none => false)
    | _ => false) && d.fe.pollList.isEmpty &&
    d.streams.slots.all (fun s => decide (s.2.state ≠ .active ∧ s.2.state ≠ .wait ∧ s.2.state ≠ .blocked)) &&
    d.service.services.all (fun s => decide (s.2.state = .disabled)) && decide (d.mode.traceCtl.toNat % 4 = 0) &&
    decide (b.rowFloor = 0)

/-- The module enters IDLE, or QUIET while a link is ACTIVE or ETHERNET: rows gated, stacks in self-refresh. -/
def idleNow (d : Dev) : Dev :=
  let linked := d.fabric.links.any (fun l => decide (l.2.reg.state = .active ∨ l.2.reg.state = .ethernet))
  let d := forEach gateRow (List.range 30) d
  { d with power := { d.power with state := if linked then .quiet else .idle },
           mem := { d.mem with selfRefresh := true } }

/-- IDLE_ENTRY. -/
def execIdleEntry (s : State) : Host.Outcome State Fault Refusal :=
  lift (fun d => guarded (decide (d.power.state = .active) && d.mayIdle s.bounds) idleNow d) s

/-! ## The step (R502 to R504) -/

/-- The power limit in force. -/
def Bounds.limit (b : Bounds) : Nat := min b.ceilingW.toNat 1500

/-- The step's target and the cause, before the clock ceiling (R504). -/
def stepTarget (b : Bounds) (p1 : Nat) (lowers : Bool) (d : Dev) : Nat × BitVec 9 :=
  let step := d.power.step.toNat
  if !(d.sensorsWith (fun _ s => s.isOpen)).isEmpty then (10, 0x80)
  else if !d.hotSensors.isEmpty then (max 10 (step - 2), d.hotSensors.foldl (fun c i => c ||| sensorCause i) 0)
  else if b.limit < p1 then (max 10 (step - 1), if b.limit = 1500 then 2 else 1)
  else if lowers then (max b.floorStep.toNat (step - 1), 0)
  else if 100 * p1 < 97 * b.limit ∧ d.allCool = true then (step + 1, 0)
  else (step, 0)

/-- 0x6001 at the start of a run of throttled ticks, and the run's state. held: the causes; before: the step it had. -/
def throttleRuns (b : Bounds) (held : BitVec 9) (before : Nat) (d : Dev) : Dev :=
  let step := d.power.step.toNat
  let run := decide (held ≠ 0 ∧ step < b.ceilingStep.toNat)
  let begins := run && !d.power.throttleRun
  let d := { d with power := { d.power with throttleRun := run } }
  let sensor := ((d.sensorsWith (fun _ s => s.isOpen)) ++ d.hotSensors).head?
  if begins then throttleEvent 0x8003 held.toNat before step sensor d else d

/-- The step, causes and overrides of a tick while the arithmetic clock runs. A cause that held since the last tick counts in
this one. -/
def stepControl (b : Bounds) (lowers : Bool) (d : Dev) : Dev :=
  let before := d.power.step.toNat
  let (t, c) := stepTarget b d.power.p1.toNat lowers d
  let t := min t b.ceilingStep.toNat
  let held := c ||| (d.power.causesNow &&& 4)
  let d := if before < t then raiseRows d else d
  let d := setCause c { d with power := { d.power with step := BitVec.ofNat 6 t, causesNow := c } }
  let d := if held = 0 then d else bump (cPower 1) 1 d
  takeOverrides (d.overridesNow b before t held) (throttleRuns b held before d)

/-- CURRENT_LIMIT (R504): 36 A for 10 µs lowers the step by 4, to no less than 10; a clock floor above that step is overridden
(R28). -/
def execCurrentLimit (centiamps : U16) (s : State) : Host.Outcome State Fault Refusal :=
  lift (fun d => guarded (decide (3600 ≤ centiamps.toNat ∧ d.power.state = .active)) (fun d =>
    let before := d.power.step.toNat
    let d := setCause 4 { d with power := { d.power with
      inputCa := centiamps, step := BitVec.ofNat 6 (max 10 (before - 4)), causesNow := d.power.causesNow ||| 4 } }
    let d := throttleRuns s.bounds d.power.causesNow before (bump (cPower 8) 1 d)
    takeOverrides (d.floorNow s.bounds d.power.step.toNat d.power.causesNow) d) d) s

/-! ## One state for each unit (R522) -/

/-- The data path's state of a unit, by its code (R86, R448, R496). -/
def Dev.viewOf (d : Dev) (kind index : Nat) : Nat :=
  match kind with
  | 0 => (match (d.core index).entry.state with
      | .active => 0
      | .spare => 1
      | .fenced => 2)
  | 1 => if (d.row index).fenced || (d.row index).fault then 2 else 0
  | 2 => (d.serv index).state.code
  | _ => d.power.state.code

/-- How restrictive a state of a unit is, most restrictive first. -/
def viewRank (kind code : Nat) : Nat :=
  match kind with
  | 0 | 1 => if code = 2 then 0 else 1
  | 2 => if code = 0 then 0 else if code = 2 then 1 else 2
  | _ => if code = 5 ∨ code = 6 then 0 else 1

/-- Apply a more restrictive management state to a unit's data path. -/
def applyView (kind index code : Nat) (cause : BitVec 4) (d : Dev) : Dev :=
  match kind with
  | 0 => fenceAll cause [index] d
  | 1 => fenceAll cause (rowPositions index) (modRow index (fun r => { r with fenced := true }) d)
  | 2 => disableService index d
  | _ =>
    let d := powerDown (if code = 6 then .shutdown else .failed) d
    { d with health := { d.health with thermtrip := d.health.thermtrip || decide (code = 6) } }

/-- Compare one unit's views. -/
def compareView (v : Nat × Nat × Nat × BitVec 4) (d : Dev) : Dev :=
  let (kind, index, code, cause) := v
  let data := d.viewOf kind index
  let a := viewRank kind code
  let b := viewRank kind data
  if a = b then d
  else
    let applied := if a < b then code else data
    let d := raiseEvent 0x7002 0x8001 (pack [(1, kind), (2, index), (1, code), (1, data), (1, applied)] []) (bump (cPower 5) 1 d)
    if a < b then applyView kind index code cause d else d

/-! ## The health tick (R504, R395, R522) -/

/-- A tick's measurements: power, input and energy. P10_W is the mean of the last ten P1, how its fraction is dropped being
open (log entry 4). -/
def measure (env : TickEnv) (d : Dev) : Dev :=
  let hist := (env.p1 :: d.power.history).take 10
  let sum := (hist.map (·.toNat)).sum
  let (v, d) := drawFree d
  let p10 := sum / 10 + (if sum % 10 = 0 then 0 else v.toNat % 2)
  let d := { d with power := { d.power with
    p1 := env.p1, history := hist, p10 := BitVec.ofNat 11 p10, inputMv := env.inputMv, inputCa := env.inputCa,
    inputFlags := inputBits env.inputMv.toNat (bitOf d.power.inputFlags.toNat 1) } }
  bump (cPower 0) env.energyMj d

/-- A channel's inner corrections of the tick (R395): counted, and at INNER_THRESHOLD logged with KIND 0x04 and 0x4001. Its
record names no granule: ADDRESS is open (log entry 4). -/
def innerCount (b : Bounds) (k n : Nat) (d : Dev) : Dev :=
  let d := bump (cChan k 0) n d
  if b.innerThreshold = 0 ∨ n < b.innerThreshold.toNat then d
  else
    let (v, d) := drawFree d
    let r : MemRecord :=
      { stamp := d.time.ft, address := BitVec.ofNat 40 (v.toNat / 64 * 64), kind := 4, source := 0, symbols := 0,
        channel := BitVec.ofNat 8 k, flags := 1, positions := 0xFFFFFFFF, inner := BitVec.ofNat 32 n }
    raiseEvent 0x4001 (0x6800 + k) ((memRecordBytes r).drop 8) (logRecord r d)

/-- What lasts for one tick begins again: the first record, retry, drop and refusal of the next tick count anew (R401, R404,
R421, R444, R453). -/
def newTick (d : Dev) : Dev :=
  let ch := mapKeep Channel.reset (fun c => { c with ceLogged := false, poisonLogged := false }) d.mem.channels
  let ls := mapKeep Link.reset (fun l => { l with run := { l.run with retried := false } }) d.fabric.links
  let ps := mapKeep Port.reset (fun p => { p with dropTick := false }) d.service.ports
  let ss := mapKeep Service.reset (fun v => { v with refusedTick := false }) d.service.services
  { d with
    mem := { d.mem with channels := ch },
    fabric := { d.fabric with links := ls },
    service := { ports := ps, services := ss } }

/-- A reading at a shutdown value acts (R505). -/
def tickShutdown (b : Bounds) (d : Dev) : Dev :=
  match d.sensorsWith (fun i s => s.atLeast (sensorLimits i).2) with
  | [] => d
  | i :: _ => if d.powered then abortStart (shutDown (some i) (d.floorsEnded b) d) else d

/-- One health tick. -/
def tick (b : Bounds) (env : TickEnv) (d : Dev) : Dev :=
  let d := newTick (hotBits (readSensors env (measure env d)))
  let d := if d.power.state = .active then stepControl b env.effLower d else d
  let d := forEach (fun (c : Nat × Nat) d => if c.1 < 256 then innerCount b c.1 c.2 d else d) env.innerCounts d
  tickShutdown b (forEach compareView env.views d)

/-- HEALTH_TICK. -/
def execHealthTick (env : TickEnv) (s : State) : Host.Outcome State Fault Refusal :=
  lift (fun d => guarded (decide (d.power.state ≠ .off)) (tick s.bounds env) d) s

/-! ## Management buses (R524) -/

/-- MGMT_BUS_RECOVERY: the port's state machine resets. -/
def execMgmtBusRecovery (i3c : Bool) (s : State) : Host.Outcome State Fault Refusal :=
  lift (fun d =>
    let d := modMgmt i3c (fun x => { x with gathered := none, nextFrag := 0, readFrag := 0, recovering := true }) d
    bump (cPower 7) 1 (hwSet 0x41F0 2 { d with health := { d.health with recovered := true } })) s

/-- Set a port's STUCK bit. -/
def setStuck (i3c v : Bool) (d : Dev) : Dev :=
  if i3c then { d with health := { d.health with i3cStuck := v } } else { d with health := { d.health with smbusStuck := v } }

/-- MGMT_PORT_STUCK: the line is still low 100 ms after a recovery. -/
def execMgmtPortStuck (i3c : Bool) (s : State) : Host.Outcome State Fault Refusal :=
  lift (fun d => guarded (d.mgmt i3c).recovering (setStuck i3c true) d) s

/-- MGMT_PORT_RELEASED: the lines have stayed high for 10 ms. -/
def execMgmtPortReleased (i3c : Bool) (s : State) : Host.Outcome State Fault Refusal :=
  lift (fun d => setStuck i3c false (modMgmt i3c (fun x => { x with recovering := false }) d)) s

/-! ## POWER_BOUNDS (R511) -/

/-- A clock in MHz that a request may name. -/
def badMhz (m : Nat) : Bool := decide (m ≠ 0 ∧ (m < 250 ∨ 850 < m ∨ m % 25 ≠ 0))

/-- The first faulty field of a POWER_BOUNDS request. -/
def boundsFault (b : List Byte) : Option (Nat × Nat) :=
  let w := field b 0x20 2
  let r := field b 0x26 1
  if field b 0x27 1 ≠ 0 then some (1, 0x27)
  else if w ≠ 0 ∧ (w < 300 ∨ 1500 < w) then some (5, 0x20)
  else if badMhz (field b 0x22 2) then some (5, 0x22)
  else if badMhz (field b 0x24 2) then some (5, 0x24)
  else if r ≠ 0xFF ∧ 30 < r then some (5, 0x26)
  else none

/-- The bounds after a request: 0, or 0xFF of ROW_FLOOR, leaves one unchanged. -/
def newBounds (b : Bounds) (r : List Byte) : Bounds :=
  let w := field r 0x20 2
  let lo := field r 0x22 2
  let hi := field r 0x24 2
  let f := field r 0x26 1
  { b with ceilingW := if w = 0 then b.ceilingW else BitVec.ofNat 11 w,
           floorStep := if lo = 0 then b.floorStep else BitVec.ofNat 6 (lo / 25),
           ceilingStep := if hi = 0 then b.ceilingStep else BitVec.ofNat 6 (hi / 25),
           rowFloor := if f = 0xFF then b.rowFloor else BitVec.ofNat 5 f }

/-- OVERRIDDEN of the response: clock floor, ROW_FLOOR, a service floor, power ceiling. -/
def Power.overrideBits (p : Power) : Nat :=
  let on (n : Nat) : Nat := b2n (p.overrides.any (fun o => o.1 = n))
  on 1 + 2 * on 3 + 4 * on 4 + 8 * on 0

/-- POWER_BOUNDS: checked and answered with the bounds in force. -/
def powerBoundsReq (b : Bounds) (r : List Byte) (d : Dev) : Answer :=
  match boundsFault r with
  | some e => .error e
  | none =>
    let n := newBounds b r
    .ok (pack [(2, n.ceilingW.toNat), (2, 25 * n.floorStep.toNat), (2, 25 * n.ceilingStep.toNat), (1, n.rowFloor.toNat),
      (1, d.power.overrideBits)] [], wakeFloor n d)

/-- POWER_BOUNDS. -/
def execPowerBounds (s : State) : Host.Outcome State Fault Refusal :=
  let r := serveReq (isOp 0x80) true false 0 false (fun _ => [u 2, u 2, u 2, u 1, u 1]) (powerBoundsReq s.bounds) s.dev
  let bytes := match s.dev.owl.current with
    | some q => q.bytes
    | none => []
  .next { s with dev := r.1, bounds := if r.2 then newBounds s.bounds bytes else s.bounds }

/-! ## CORE_FENCE (R521) -/

/-- A CORE_FENCE request of an OP; a reserved OP is judged with FENCE. -/
def isFenceReq (op : Nat) (b : List Byte) : Bool :=
  isOp 0x81 b && decide (if op = 0 then field b 0x20 1 ≠ 1 ∧ field b 0x20 1 ≠ 2 else field b 0x20 1 = op)

/-- The first fault of a CORE_FENCE request. -/
def fenceFault (d : Dev) (b : List Byte) : Option (Nat × Nat) :=
  let op := field b 0x20 1
  let r := field b 0x21 1
  let c := field b 0x22 1
  if 3 ≤ op then some (1, 0x20)
  else if op = 2 ∧ c ≠ 0 then some (1, 0x22)
  else if field b 0x23 1 ≠ 0 then some (1, 0x23)
  else if 30 ≤ r then some (5, 0x21)
  else if 42 ≤ c then some (5, 0x22)
  else if op = 1 ∧ (d.fenced (42 * r + c) = false ∨ (d.core (42 * r + c)).entry.cause ≠ 5) then some (5, 0x20)
  else none

/-- Serve a CORE_FENCE request: the map changes, and the response carries the epoch and the count. -/
def fenceReq (act : Nat → Nat → Dev → Dev) (b : List Byte) (d : Dev) : Answer :=
  match fenceFault d b with
  | some e => .error e
  | none =>
    let d := act (field b 0x21 1) (field b 0x22 1) d
    .ok (pack [(8, d.mesh.epoch.toNat), (4, d.logicalCount), (4, 0)] [], d)

/-- Serve a CORE_FENCE request of an OP. -/
def serveFence (op : Nat) (act : Nat → Nat → Dev → Dev) (d : Dev) : Dev :=
  (serveReq (isFenceReq op) true false 0 false (fun _ => [u 1, u 1, u 1, u 1]) (fenceReq act) d).1

/-- FENCE. -/
def execFence (s : State) : Host.Outcome State Fault Refusal :=
  lift (serveFence 0 (fun r c d => fenceAll 5 [42 * r + c] d)) s

/-- UNFENCE: ROW_FENCED clears when a position of the row returns to health (R82). -/
def execUnfence (s : State) : Host.Outcome State Fault Refusal :=
  lift (serveFence 1 (fun r c d => unfenceAll [42 * r + c] (modRow r (fun x => { x with fenced := false }) d))) s

/-- FENCE_ROW. -/
def execFenceRow (s : State) : Host.Outcome State Fault Refusal :=
  lift (serveFence 2 (fun r _ d => fenceAll 5 (rowPositions r) (modRow r (fun x => { x with fenced := true }) d))) s

/-! ## HEALTH_READ (R525) -/

/-- The 112 bytes of a health record. -/
def healthRecord (d : Dev) : List Byte :=
  let p := d.power
  let h := d.health
  let flags := b2n (decide (p.causesNow ≠ 0)) + 2 * b2n (!p.overrides.isEmpty) + 4 * b2n h.smbusStuck + 8 * b2n h.i3cStuck +
    16 * b2n (bitOf p.inputFlags.toNat 1) + 32 * b2n d.start.retainValid
  [BitVec.ofNat 8 p.state.code, BitVec.ofNat 8 (d.start.bootStatus % 256)] ++ leBytes 2 flags ++ leBytes 4 p.inputMv.toNat ++
    leBytes 4 (10 * p.inputCa.toNat) ++ leBytes 2 p.p1.toNat ++ leBytes 2 p.p10.toNat ++ leBytes 2 (25 * p.step.toNat) ++
    [BitVec.ofNat 8 d.awakeRows, 0] ++ ((List.range 16).map (fun i => leBytes 2 (d.sensor i).reading.toNat)).flatten ++
    ((List.range 30).map (fun r => leBytes 2 (d.row r).mv.toNat)).flatten

/-- HEALTH_READ. -/
def execHealthRead (s : State) : Host.Outcome State Fault Refusal :=
  lift (fun d => (serveReq (isOp 0x82) true true 0 true (fun _ => []) (fun _ d => .ok (healthRecord d, d)) d).1) s

end Sys2Proof.Machine
end

