-- ==== Sys2Proof/Machine/Starts.lean ====
section
/-! DEFINITION. Starts, firmware, resets from the host, D3hot, auxiliary power and the Den clock edge (R358, R433, R512 to R519, R529, R533 to R538). -/

namespace Sys2Proof.Machine
open Sys2Proof

/-! ## What a start ends and what it keeps (R494, R514, R516) -/

/-- The entry of a position as a cold start leaves it before its map is built: a software fence survives (R514). -/
def CoreEntry.coldStart (e : CoreEntry) : CoreEntry :=
  if e.state = .fenced ∧ e.cause = 5 then { CoreEntry.reset with cause := 5 } else CoreEntry.reset

/-- A core after a start began: its work and its memories are gone (log entry 32). -/
def Core.started (warm : Bool) (c : Core) : Core :=
  { Core.reset with entry := if warm then { c.entry with thread := false } else c.entry.coldStart }

/-- A queue through a warm start with PRESERVE: STOPPED, its indices kept (R516). -/
def Queue.preserved (u : Queue) : Queue :=
  if u.state = .unused then u else { u with state := .stopped, enabled := false, slot := none }

/-- The front end after a start began: nothing runs; the objects stay with PRESERVE (R516). -/
def FrontEnd.started (keep : Bool) (ft : U64) (f : FrontEnd) : FrontEnd :=
  if keep then
    let tasks := f.tasks.map (fun t => (t.1, { t.2 with halves := [], running := none }))
    let users (i : Nat) (n : Nat) : Nat := (tasks.filter (fun t => decide (t.2.present ∧ t.2.image = i ∧ t.2.version = n))).length
    { FrontEnd.reset with
      queues := f.queues.map (fun u => (u.1, u.2.preserved)),
      runs := mapKeep QueueRun.reset (fun r => { QueueRun.reset with doorbell := r.doorbell, doorbellFt := r.doorbellFt }) f.runs,
      fences := f.fences, tasks := tasks,
      images := f.images.map (fun i => (i.1, { i.2 with versions := i.2.versions.map (fun v => { v with users := users i.1 v.number }) })),
      lastMove := ft }
  else { FrontEnd.reset with lastMove := ft }

/-- The memory block after a start began: every granule zero in a cold start, the software range in a warm one without
PRESERVE (R515 step 4; log entry 32). -/
def Memory.started (warm keep : Bool) (m : Memory) : Memory :=
  if warm then
    let c := if keep then m else clearCells 0 softEnd m
    { Memory.reset with
      cells := c.cells, poison := c.poison, logNext := m.logNext, logWrapped := m.logWrapped, logLost := m.logLost,
      allocs := if keep then m.allocs else [] }
  else Memory.reset

/-- A table through a warm start with PRESERVE: its jobs are gone. -/
def Table.preserved (t : Table) : Table :=
  { t with gathers := [], unlogged := [], undo := [], jobs := [], sent := 0, away := [], applying := false, incomplete := t.incomplete || t.applying }

/-- A link after a start began: a warm start keeps an ACTIVE one with its protocol (R414); coefficients stay (R514). -/
def Link.started (warm : Bool) (l : Link) : Link :=
  if l.reg.state = .ethernet ∨ (warm = true ∧ l.reg.state = .active) then l
  else { reg := LinkReg.reset, run := { LinkRun.reset with coefficients := l.run.coefficients } }

/-- The fabric after a start began: configuration and coefficients stay; a cold start does the fabric reset again (R433). -/
def Fabric.started (warm keep : Bool) (f : Fabric) : Fabric :=
  { cfg := if warm then f.cfg else
      { f.cfg with resetDone := false, breaks := [], unreachable := [], ready := [], readySent := false, t0 := none },
    links := mapKeep Link.reset (Link.started warm) f.links,
    groups := if keep then mapKeep Group.reset (fun g => { g with running := none, early := [] }) f.groups else [],
    parts := [] }

/-- A port through a start: its configuration stays (R514); its buffers are empty. -/
def Port.started (warm : Bool) (p : Port) : Port :=
  { Port.reset with cfg := p.cfg, up := warm && p.up, ptpLocked := warm && p.ptpLocked, syncEvery := p.syncEvery,
                    lastSync := p.lastSync }

/-- A service entry through a warm start with PRESERVE: DISABLED, nothing in hand. -/
def Service.preserved (s : Service) : Service :=
  { s with state := .disabled, openBatch := [], closed := [], inFlight := 0, dropped := [], refusedTick := false, deleted := false }

/-- Ports and the service table after a start began. -/
def ServiceBlock.started (warm keep : Bool) (b : ServiceBlock) : ServiceBlock :=
  { ports := mapKeep Port.reset (Port.started warm) b.ports,
    services := if keep then mapKeep Service.reset Service.preserved b.services else [] }

/-- Fabric time through a start: the Den's count goes on (R359); alignment stays in a warm start. -/
def Time.started (warm : Bool) (t : Time) : Time :=
  if warm then { t with admitted := false } else { Time.reset with ft := t.ft, edges := t.edges }

/-- The mode registers through a start: DET in a warm one (R514), and what belongs to configuration space (log entry 32). -/
def Mode.started (warm : Bool) (m : Mode) : Mode :=
  { Mode.reset with
    det := warm && m.det, bar4Log2 := m.bar4Log2, d3hot := m.d3hot, msixTable := m.msixTable, msixPending := m.msixPending,
    msixCause := m.msixCause }

/-- The event block through a start: the holding queue stays (R514). -/
def Events.started (e : Events) : Events :=
  { Events.reset with held := e.held, seq := e.seq, lost := e.lost, lostFirst := e.lostFirst, lostLast := e.lostLast }

/-- Rows through a start: gated while it runs; FAULT clears at a cold start (R518), and ROW_FENCED with its map. -/
def RowState.started (warm : Bool) (r : RowState) : RowState :=
  if warm then { r with awake := false, mv := 0, currentDa := 0 } else { RowState.reset with fenced := r.fenced }

/-- Everything but the start's own registers and the power state, after a start began (R494, R514, R516). -/
def afterStart (warm keep : Bool) (d : Dev) : Dev :=
  { d with
    out := { d.out with waiting := [] }, time := d.time.started warm, mode := d.mode.started warm, events := d.events.started,
    health := { d.health with rows := mapKeep RowState.reset (RowState.started warm) d.health.rows, thermtrip := false },
    ident := Identity.reset, owl := { Owl.reset with i3c := { MgmtPort.reset with address := d.owl.i3c.address } },
    fe := d.fe.started keep d.time.ft,
    mesh := { cores := mapKeep Core.reset (Core.started warm) d.mesh.cores, mapBuilt := warm && d.mesh.mapBuilt,
              epoch := if warm then d.mesh.epoch else 0, jobs := [], stashes := [], packets := [], served := [] },
    streams := { Streams.reset with
      slots := if warm then mapKeep Slot.reset (fun x => { Slot.reset with gen := x.gen }) d.streams.slots else [] },
    mem := d.mem.started warm keep,
    scoring := { ensembles := if keep then d.scoring.ensembles.map (fun e => (e.1,
                   { e.2 with versions := e.2.versions.map (fun v => { v with batches := 0 }) })) else [], groups := [] },
    sessions := [], retries := [],
    embed := { Embed.reset with tables := if keep then mapKeep Table.reset Table.preserved d.embed.tables else [] },
    fabric := d.fabric.started warm keep, service := d.service.started warm keep, journal := Journal.reset,
    counters := if warm then d.counters else [], cycle := DenCycle.reset }

/-! ## Starting and failing (R513, R515, R519) -/

/-- A start fails (R513): FAILED, with RETAIN_VALID clear; vector 3 (R533). -/
def failStart (err : Byte) (d : Dev) : Dev :=
  let d := { d with
    start := { d.start with running := false, failed := true, error := err, retainValid := false, completed := false, test := none },
    power := { d.power with state := .failed, step := 0 } }
  msixBit 3 { d with health := { d.health with
    rows := mapKeep RowState.reset (fun r => { r with awake := false, mv := 0, currentDa := 0 }) d.health.rows } }

/-- A start begins (R512 to R516): KIND reads 0, and BOOT_STATUS tells of it. A start that ended another shows that one's
failure until it ends itself (log entry 33). -/
def openStart (warm : Bool) (repeated : Bool) (d : Dev) : Dev :=
  let keep := warm && d.start.preserve
  let d := afterStart warm keep d
  { d with
    start := { d.start with
      kind := 0, step := 1, running := true, failed := repeated, warm := warm, preserved := keep,
      error := if repeated then 0x0B else 0, retainValid := warm && d.start.retainValid, completed := false, test := none,
      fwAddr := 0, fwBytes := 0, fwGo := false },
    power := { d.power with state := .starting, step := 0, overrides := [], throttleRun := false, causesNow := 0 } }

/-- Steps 1 to 4 of R515, and the wait for FW_GO in step 5. -/
def firstSteps (env : StartEnv) (d : Dev) : Dev :=
  let d := setInput env.inputMv env.reversed d
  if env.reversed then
    let d := failStart 1 (raiseEvent 0x6003 0x8003 (leBytes 2 env.inputMv.toNat) d)
    { d with power := { d.power with state := .denOnly } }
  else if env.inputMv.toNat < 44000 ∨ 60000 < env.inputMv.toNat then failStart 1 d
  else if env.regulatorFail then failStart 2 d
  else
    let d := { d with power := { d.power with regulators54 := true } }
    if env.trainingFail && !d.start.warm then failStart 3 { d with start := { d.start with step := 3 } }
    else { d with start := { d.start with step := 5 } }

/-- A start is requested (R513): warm only when asked, with RETAIN_VALID set and the previous start completed; one requested
while another runs ends that one with ERROR 0x0B and is cold. The bounded registers take their reset values (log entry 32). -/
def requestStart (asked : Bool) (env : StartEnv) (s : State) : State :=
  let d := s.dev
  let repeated := d.start.running
  let warm := asked && d.start.retainValid && d.start.completed && !repeated
  let d := if repeated then failStart 0x0B d else d
  { s with dev := firstSteps env (openStart warm repeated d), bounds := Bounds.reset }

/-- A paired write of START_CTRL (R512). -/
def startWrite (v : Nat) (env : StartEnv) (s : State) : State :=
  let d := { s.dev with start := { s.dev.start with preserve := bitOf v 2, perstWarm := bitOf v 3 } }
  let s := { s with dev := d }
  match bits v 1 0 with
  | 1 => requestStart true env s
  | 2 => requestStart false env s
  | _ => s

/-- Whether the Den runs (R496). -/
def Dev.denRuns (d : Dev) : Bool := decide (d.power.state ≠ .off)

/-- START_WARM: START_CTRL with KIND 0b01. -/
def execStartWarm (value : U64) (env : StartEnv) (s : State) : Host.Outcome State Fault Refusal :=
  if s.dev.denRuns = true ∧ bits value.toNat 1 0 = 1 then .next (startWrite value.toNat env s) else .next s

/-- START_COLD: START_CTRL with KIND 0b10. -/
def execStartCold (value : U64) (env : StartEnv) (s : State) : Host.Outcome State Fault Refusal :=
  if s.dev.denRuns = true ∧ bits value.toNat 1 0 = 2 then .next (startWrite value.toNat env s) else .next s

/-- AUX_POWER_ON (R512): the first auxiliary power starts the Den with every register at its reset value and requests a cold
start. -/
def execAuxPowerOn (env : StartEnv) (s : State) : Host.Outcome State Fault Refusal :=
  if s.dev.power.state = .off ∨ s.dev.start = Start.reset then
    .next (requestStart false env { s with dev := { Dev.reset with out := s.dev.out, free := s.dev.free } })
  else .next s

/-- What a reset of configuration space changes (R535 step 6): D0, every MSI-X vector masked, BAR4 at 64 GiB. -/
def resetConfigSpace (d : Dev) : Dev :=
  { d with mode := { d.mode with bar4Log2 := 36, d3hot := false, msixTable := msixReset, msixPending := 0, msixCause := 0 } }

/-- FUNDAMENTAL_RESET (R512, R538): PERST# goes away and requests a start under PERST_WARM. -/
def execFundamentalReset (env : StartEnv) (s : State) : Host.Outcome State Fault Refusal :=
  if s.dev.denRuns then .next (requestStart s.dev.start.perstWarm env { s with dev := resetConfigSpace s.dev }) else .next s

/-- AUX_POWER_LOSS (R496, R514): OFF, with everything that the Den retained lost. -/
def execAuxPowerLoss (s : State) : Host.Outcome State Fault Refusal :=
  let d := { Dev.reset with out := { s.dev.out with waiting := [] }, free := s.dev.free }
  let d := { d with power := { d.power with state := .off } }
  .next { s with dev := d, bounds := Bounds.reset, atEdge := d, edgeBounds := Bounds.reset }

/-! ## Firmware (R517) -/

/-- Whether the header of a firmware image is good for its length, FW_BYTES and FW_ADDR. -/
def fwFormat (s : Start) (img : List Byte) : Bool :=
  let body := field img 0x10 8
  decide (s.fwAddr.toNat % 4096 = 0) && decide (img.length = s.fwBytes.toNat) && decide (img.length = 256 + body) &&
    decide (2 ^ 20 ≤ body ∧ body ≤ 2 ^ 26) && decide (field img 0 4 = 0x4657514C) && decide (field img 4 2 = 1) &&
    zeroAt img 6 2 && zeroAt img 0x0C 4 && zeroAt img 0x50 80

/-- Whether the digest of the body is the one in the header. -/
def fwDigest (img : List Byte) : Bool := decide (sha384 (img.drop 256) = slice img 0x20 48)

/-- Whether the signature over header bytes 0x00 to 0x9F verifies. -/
def fwSigned (img : List Byte) : Bool :=
  Config.signatureGood (sha384 (slice img 0 0xA0)) (slice img 0xA0 48) (slice img 0xD0 48)

/-- Step 10 of R515: OWL_READY, with every feature bit offered (R484), the clock step open between 10 and the ceiling (log
entry 4), and a cold start's RETAIN_VALID (R514). -/
def endStart (b : Bounds) (d : Dev) : Dev :=
  let (v, d) := drawFree d
  let d := { d with
    ident := { d.ident with owlReady := true, offered := 0x1FFFFF },
    start := { d.start with step := 10, running := false, failed := false, error := 0, completed := true, retainValid := true, test := none },
    power := { d.power with state := .active, step := BitVec.ofNat 6 (10 + v.toNat % (b.ceilingStep.toNat - 9)) },
    fe := { d.fe with running := true, lastMove := d.time.ft } }
  msixBit 3 d

/-- The links that a warm start did not keep train after OWL_READY (R515 step 7). -/
def trainOthers (d : Dev) : Dev :=
  forEach (fun n d => if (d.link n).reg.state = .disabled then trainLink n d else d) (List.range 48) d

/-- What a self-test found of a position and its row, as a cause; software fences are kept first (R514, R515 step 9). -/
def testCause (t : SelfTest) (p : Nat) : Option (BitVec 4) :=
  if t.badRouterRows.any (fun r => r.val = p / 42) then some 3
  else if t.badRegulatorRows.any (fun r => r.val = p / 42) then some 4
  else if t.badCores.any (fun c => c.val = p) then some 1
  else none

/-- The entry of a position as the built map begins. -/
def builtEntry (t : SelfTest) (p : Nat) (e : CoreEntry) : CoreEntry :=
  if e.cause = 5 then { e with state := .fenced, thread := false, epoch := 1 }
  else match testCause t p with
    | some c => { CoreEntry.reset with cause := c, epoch := 1 }
    | none => { CoreEntry.reset with state := .spare, epoch := 1 }

/-- Rows that a self-test leaves: fenced whole with a bad router or regulator, or still fenced whole, as no position of the
row has returned to health (R82); the others awake while the test runs. -/
def builtRow (t : SelfTest) (r : Nat) (allFenced : Bool) (x : RowState) : RowState :=
  let reg := t.badRegulatorRows.any (fun i => i.val = r)
  { x with fenced := reg || t.badRouterRows.any (fun i => i.val = r) || (x.fenced && allFenced), fault := x.fault || reg,
           awake := x.awake && !reg }

/-- Step 9 of R515: the fence map is built, with map epoch 1. -/
def buildMap (t : SelfTest) (d : Dev) : Dev :=
  let d := forEach (fun p d => modCore p (fun c => { c with entry := builtEntry t p c.entry }) d) (List.range 1260) d
  let d := forEach (fun r d => modRow r (builtRow t r ((rowPositions r).all d.fenced)) d) (List.range 30) d
  let d := { d with mesh := { d.mesh with mapBuilt := true, epoch := 1 } }
  forEach (relabelRow d) (List.range 30) d

/-- Step 8: every core in thread mode runs its self-test, in rows that are awake. -/
def runSelfTest (t : SelfTest) (d : Dev) : Dev :=
  let d := forEach (fun p d => modCore p (fun c => { c with entry := { c.entry with thread := true } }) d) (List.range 1260) d
  let d := forEach (fun r d => modRow r (fun x => { x with awake := true }) d) (List.range 30) d
  { d with start := { d.start with test := some t } }

/-- The other modules of the configured box. -/
def FabricCfg.others (c : FabricCfg) : List Nat :=
  let all := (List.range c.sizeZ).flatMap (fun z => (List.range c.sizeY).flatMap (fun y =>
    (List.range c.sizeX).map (fun x => moduleAt x y z)))
  all.filter (fun m => decide (m ≠ c.moduleId.toNat))

/-- Steps 6 and 7 of a cold start: the root of time is chosen (R359), the configured links train, and the fabric resets; a
module with no fabric goes on to step 8. -/
def afterFirmware (d : Dev) : Dev :=
  let c := d.fabric.cfg
  let d := takeRoot (selectRoot c.timeSource.toNat c.others c.moduleId.toNat) d
  let wait := d.fabric.cfg.configured && !d.fabric.cfg.resetDone
  let d := { d with start := { d.start with step := if wait then 7 else 8 } }
  if wait then tryReady (forEach trainLink (List.range 48) d) else d

/-- The image that FW_GO hands over is checked, and the start goes on. -/
def bootFirmware (b : Bounds) (img : List Byte) (t : SelfTest) (d : Dev) : Dev :=
  let d := hostRead (2 ^ 21) d.start.fwAddr.toNat d.start.fwBytes.toNat d
  if !fwFormat d.start img then failStart 5 d
  else if !fwDigest img then failStart 6 d
  else if !fwSigned img then failStart 7 d
  else
    let d := { d with ident := { d.ident with
      major := byteAt img 8, minor := byteAt img 9, build := BitVec.ofNat 16 (field img 0x0A 2) } }
    if d.start.warm then trainOthers (endStart b d)
    else if t.sharedFail then failStart 8 { d with start := { d.start with step := 8 } }
    else afterFirmware (runSelfTest t d)

/-- Whether the boot ROM waits for FW_GO. -/
def Dev.awaitsFirmware (d : Dev) : Bool := d.start.running && decide (d.start.step = 5)

/-- FW_GO: the host hands over the image that lies at FW_ADDR. In D3hot the image is not read, and FW_GO stays 1 (R529). -/
def execFwGo (image : List Byte) (test : SelfTest) (s : State) : Host.Outcome State Fault Refusal :=
  lift (fun d =>
    if d.awaitsFirmware && !d.mode.d3hot then bootFirmware s.bounds image test { d with start := { d.start with fwGo := false } }
    else guarded d.denRuns (fun d => { d with start := { d.start with fwGo := true } }) d) s

/-- FW_TIMEOUT: 60 s without FW_GO. -/
def execFwTimeout (s : State) : Host.Outcome State Fault Refusal := lift (fun d => guarded d.awaitsFirmware (failStart 4) d) s

/-- STEP_LIMIT (R515): the step that runs exceeded its limit. -/
def execStepLimit (step : BitVec 4) (s : State) : Host.Outcome State Fault Refusal :=
  lift (fun d => guarded (d.start.running && decide (d.start.step = step)) (failStart 0x0A) d) s

/-- FABRIC_RESET_LOAD (R433 step 5): at the first Den edge at or after T0 the module's own estimate of root time is loaded. -/
def execFabricResetLoad (s : State) : Host.Outcome State Fault Refusal :=
  lift (fun d =>
    match d.fabric.cfg.t0 with
    | none => d
    | some (t0, off) =>
      if d.awaitsReset = false ∨ (d.time.ft + off).toNat < t0.toNat then d
      else { d with
        time := { d.time with ft := d.time.ft + off, aligned := true, error := 0 },
        fabric := { d.fabric with cfg := { d.fabric.cfg with resetDone := true } },
        start := { d.start with step := 8 } }) s

/-! ## Resets and power states of the PCIe function (R529, R535 to R537) -/

/-- An FLR discards a PENDING request of the PCIe mailbox (R479). -/
def discardPending (d : Dev) : Dev :=
  if d.owl.pcie.state = .pending then
    { d with owl := { d.owl with pcie := { d.owl.pcie with state := d.owl.pcie.before },
                                 waiting := d.owl.waiting.filter (fun p => p ≠ .pcie) } }
  else d

/-- What a function-level reset does to work (R535 steps 1 to 5): host windows go first, so that no record reaches host
memory. -/
def dropHostWork (d : Dev) : Dev :=
  let d := { d with mem := { d.mem with windows := [] }, out := { d.out with waiting := [] } }
  let d := forEach killQueue (d.fe.queues.map (·.1)) d
  let d := forEach killSlot (d.streams.slots.map (·.1)) d
  let d := discardPending d
  { d with events := { d.events with enable := false }, mode := { d.mode with traceCtl := d.mode.traceCtl &&& ~~~3 } }

/-- FUNCTION_LEVEL_RESET, hot reset or link down. -/
def execFunctionLevelReset (s : State) : Host.Outcome State Fault Refusal :=
  lift (fun d => guarded d.denRuns (fun d => resetConfigSpace (dropHostWork d)) d) s

/-- D3HOT_ENTRY (R529). -/
def execD3hotEntry (s : State) : Host.Outcome State Fault Refusal :=
  lift (fun d => guarded d.denRuns (fun d => { d with mode := { d.mode with d3hot := true } }) d) s

/-- D0_RETURN (R529): the writes that waited go out. -/
def execD0Return (s : State) : Host.Outcome State Fault Refusal :=
  lift (fun d => { d with mode := { d.mode with d3hot := false },
                          out := { d.out with hostWrites := d.out.hostWrites ++ d.out.waiting, waiting := [] } }) s

/-! ## The Den clock edge (R6, R7, R358, R359, R533) -/

/-- Slewing (R359 step 4): at most 100 parts per million, one unit in every 16 edges (log entry 3). -/
def slewEdge (t : Time) : Time :=
  if t.edges % 16 ≠ 0 ∨ t.slew = 0 then t
  else if 0 < t.slew then { t with ft := t.ft + 1, slew := t.slew - 1 }
  else { t with ft := t.ft - 1, slew := t.slew + 1 }

/-- One edge of the Den's count (R358). -/
def Time.edge (t : Time) : Time := slewEdge { t with ft := t.ft + 640, edges := t.edges + 1 }

/-- Whether the port can carry a message: the link is up and the function is in D0 (R496, R529). -/
def Dev.pcieUp (d : Dev) : Bool := !d.mode.d3hot && decide (d.power.state ≠ .off ∧ d.power.state ≠ .denOnly ∧ d.power.state ≠ .shutdown)

/-- One vector at a Den clock edge (R533): a new cause or a pending bit sends it when it is not masked, and else stays pending. -/
def sendVector (v : Nat) (d : Dev) : Dev :=
  let due := bitOf d.mode.msixCause.toNat v || bitOf d.mode.msixPending.toNat v
  let masked := bitOf (look 0 d.mode.msixTable (16 * v + 12)).toNat 0
  let bit : Byte := 1 <<< v
  if !due then d
  else if masked || !d.pcieUp then { d with mode := { d.mode with msixPending := d.mode.msixPending ||| bit } }
  else { d with mode := { d.mode with msixPending := d.mode.msixPending &&& ~~~bit }, out := { d.out with msix := d.out.msix ++ [v] } }

/-- Send the vectors whose causes arose since the last edge. -/
def sendVectors (d : Dev) : Dev :=
  let d := forEach sendVector (List.range 8) d
  { d with mode := { d.mode with msixCause := 0 } }

/-- A start whose self-test has run builds the map and ends (R515 steps 8 to 10). -/
def finishStart (b : Bounds) (d : Dev) : Dev :=
  match d.start.test with
  | some t => if d.start.running = true ∧ d.start.step = 8 then endStart b (buildMap t d) else d
  | none => d

end Sys2Proof.Machine
end

