-- ==== Sys2Proof/Machine/Edges.lean ====
section
/-! DEFINITION. What takes effect at a Den clock edge, in the order of its rules, and the block accesses of the memory sides (R6, R10, R63, R156, R170, R202, R257, R284 to R287, R308, R358, R533, R544). -/

namespace Sys2Proof.Machine
open Sys2Proof

/-! ## Publications before admissions (R156, R202, R544) -/

/-- A GROW that could not publish tries again (R202). -/
def retryPublication (q : Nat) (c : Cmd) (d : Dev) : Dev :=
  match c.work with
  | .growRetry n => (match d.retries.find? (fun r => r.1 = n) with
    | some r => publishGrown q c n r.2 d
    | none => d)
  | _ => d

/-- The GROW commands of a queue that could not publish try again. -/
def retryQueue (q : Nat) (d : Dev) : Dev := forEach (retryPublication q) (d.live q) d

/-- GROW_PUBLISH_RETRY (R202). -/
def execGrowPublishRetry (q : QueueId) (s : State) : Host.Outcome State Fault Refusal := lift (retryQueue q.toNat) s

/-- Put a number into a rising list. -/
def insertRising (x : Nat) : List Nat → List Nat
  | [] => [x]
  | y :: ys => if x ≤ y then x :: y :: ys else y :: insertRising x ys

/-- Numbers in rising order. -/
def rising (l : List Nat) : List Nat := l.foldr insertRising []

/-- The publications of queue commands that are due at an edge, by increasing queue number (R156). -/
def duePublications (d : Dev) : Dev :=
  forEach retryQueue (rising ((d.fe.queues.map (·.1)).filter (fun q => (d.live q).any (fun c => match c.work with
    | .growRetry _ => true
    | _ => false)))) d

/-- ENSEMBLE_PUBLISH: a request comes after the queue commands' publications of its edge (R156). -/
def execEnsemblePublish (s : State) : Host.Outcome State Fault Refusal :=
  lift (fun d =>
    let d := duePublications d
    guarded (d.publishDue) (servePcie 0x41 3 [u 4, u 4, u 8] ensemblePublishReq) d) s

/-- BATCH_ADMIT: an admission reads the version that the publications of its edge leave (R156). -/
def execBatchAdmit (first : BitVec 11) (records : List (List Byte × Bool)) (poisoned : List (Fin 80 × BitVec 14)) (s : State) :
    Host.Outcome State Fault Refusal :=
  lift (fun d => batchAdmits first.toNat records (poisoned.map (fun g => (g.1.val, g.2.toNat))) (duePublications d)) s

/-- The first cores of the groups for which a batch waits. -/
def Dev.waitingGroups (d : Dev) : List Nat :=
  let scores := (d.fe.queues.map (fun u => (d.live u.1).filterMap (fun c => match c.work with
    | .score l _ _ _ _ => match scoreService c.bytes with
      | none => some [l.firstCore.toNat]
      | some e => some ((d.serviceGroups e).map (fun g => g.2.firstCore.toNat))
    | _ => none))).flatten
  let services := d.service.services.map (fun s => (d.serviceGroups s.1).map (fun g => g.2.firstCore.toNat))
  rising ((scores ++ services).flatten.eraseDups)

/-- Every group admits a batch whose records are in the stacks or in a receive buffer, where it can (R170). -/
def dueAdmissions (d : Dev) : Dev := forEach (fun g d => batchAdmits g [] [] d) d.waitingGroups d

/-! ## Bubble windows that close (R257) -/

/-- A batch that still runs when its window closes holds the training group until it completes, and counts one BUBBLE_OVERRUN. -/
def overrunJob (j : Job) (d : Dev) : Dev :=
  match d.jobImage j with
  | none => d
  | some v =>
    forEach (fun (g : Nat × ScoreGroup) d => match g.2.layout with
      | none => d
      | some l =>
        if g.2.batches.any (·.window) = true ∧ l.ring.all j.cores.contains = true ∧ j.overruns.contains g.1 = false ∧
            (windowLeft v.image j.cycle l).isNone = true then
          modJob j.queue j.index (fun j => { j with
            held := true, heldSince := if j.held then j.heldSince else d.time.ft, overruns := j.overruns ++ [g.1] })
            (countRing l 23 1 d)
        else d) d.scoring.groups d

/-- The bubble windows at an edge. -/
def overrunEdge (d : Dev) : Dev := forEach overrunJob d.mesh.jobs d

/-! ## The edge (R358, R544) -/

/-- What a Den clock edge does, in this order: the count advances, the cycle's counter writes are over (R10, R11), arbitration modes
follow, the mesh has run, windows close, publications, admissions of batches and of queues, vectors, and the end of a start (the
order of one cycle's happenings: log entry 104). -/
def edgeDev (b : Bounds) (d : Dev) : Dev :=
  let d := { d with time := d.time.edge, cycle := DenCycle.reset }
  let d := dueAdmissions (duePublications (overrunEdge (meshEdge (sideEdge d))))
  finishStart b (sendVectors (guarded d.fe.running (admitUpTo 4) d))

/-- DEN_CLOCK_EDGE: the count advances, what is due takes effect, and the RS registers take what holds at the edge (R6). -/
def execDenClockEdge (s : State) : Host.Outcome State Fault Refusal :=
  if s.dev.denRuns then
    let d := edgeDev s.bounds s.dev
    .next { s with dev := d, atEdge := d, edgeBounds := s.bounds }
  else .next s

/-! ## Block accesses of a side (R63, R283 to R287) -/

/-- Errors that local memory finds as an engine drains a half (R63, R373, R520): those of the half that the access reads. A
corrected one counts; an uncorrectable one poisons its granule, and the command is replayed in place of the access. -/
def drainErrors (s : Nat) (x : Desc) (errors : LmErrors) (f : Dev → Dev) (d : Dev) : Dev :=
  let a := x.half (d.slot s).half
  let here := errors.filter (fun e => x.out && decide (a ≤ e.1.toNat ∧ e.1.toNat < a + x.halfBytes.toNat))
  let p := s / 8
  let d := bump (cCore p 6) (here.filter (fun e => !e.2)).length d
  match (here.filter (·.2)).map (·.1) with
  | [] => f d
  | bad =>
    let d := forEach (lmUncorrectable p) bad d
    if d.ueFences p then faultFence p 2 d
    else match (d.slotRun s).owner with
      | some (q, i) => faultReplays q i d
      | none => f d

/-- STREAM_BLOCK_ISSUE: the chosen ready stream of a side issues one access. Without host access, in D3hot, the PCIe
port issues none (R529). -/
def execStreamBlockIssue (side : IssueOp) (s : State) : Host.Outcome State Fault Refusal :=
  lift (fun d =>
    match if side.side.val = 2 ∧ d.mode.d3hot = true then none else d.chosen side.side.val with
    | none => d
    | some sl => match (d.slot sl).desc, d.readyAccess sl with
      | some x, some a => drainErrors sl x side.lmErrors (issueBlock side.side.val sl x a) d
      | _, _ => d) s

end Sys2Proof.Machine
end

