-- ==== Sys2Proof/Machine/Images.lean ====
section
/-! DEFINITION. Load images: the checks at load and patch, versions, unloading, persistent tasks (R22, R62 to R66, R76, R77, R81, R91 to R104, R113, R123, R176, R238 to R260, R269 to R295, R332 to R337, R352, R366, R367). -/

namespace Sys2Proof.Machine
open Sys2Proof

/-! ## What the loader checks -/

/-- Whether two elements of a list meet. -/
def anyPair {α : Type} (p : α → α → Bool) : List α → Bool
  | [] => false
  | x :: xs => xs.any (p x) || anyPair p xs

/-- Whether a half of a sharded tensor's layout is whole banks that the image names for it on each core of its stage (R62, R240). -/
def halfNamed (im : LoadImage) (s : StageDecl) (t : TensorDecl) (back b : Bool) : Bool :=
  let g := (stageRing s).length
  let n := ((List.range g).map (shardBytes t back g)).foldl max 0
  decide (halfOf t back b % 65536 = 0) && (stageRing s).all (fun c => (banksOf (halfOf t back b) n).all (fun k =>
    im.banks.any (fun x => decide (x.core.toNat = c ∧ x.bank.toNat = k ∧ x.owner = .weightHalf t.id back b))))

/-- Banks and schedule of local memory (R62): one owner a bank, so no half shares a bank with its partner; one access a
bank and cycle; no access to a half that is filling; the halves of sharded tensors whole banks of their own (R240). -/
def localFails (im : LoadImage) : Bool :=
  im.towers.any (fun w => w.stages.any (fun s => s.tensors.any (fun t => t.sharded &&
    !([(false, false), (false, true)].all (fun h => halfNamed im s t h.1 h.2) &&
      (t.kind.val != 1 || [(true, false), (true, true)].all (fun h => halfNamed im s t h.1 h.2)))))) ||
  anyPair (fun a b => decide (a.core = b.core ∧ a.bank = b.bank)) im.banks ||
  anyPair (fun (a b : Nat × Nat × Nat) => decide (a = b)) im.accesses ||
  im.accesses.any (fun a => im.fillings.any (fun f =>
    decide (f.1 = a.1 ∧ f.2.1 = a.2.2 ∧ f.2.2.1 ≤ a.2.1 ∧ a.2.1 ≤ f.2.2.2)))

/-- Whether a format is one of the two 8-bit floating-point formats. -/
def isLf8 (f : Fmt) : Bool := decide (f = .lf8r ∨ f = .lf8p)

/-- A matrix instruction that the loader refuses (R64, R90, R91, R95, R100, R238). -/
def matFails (d : Dev) (m : MatDecl) : Bool :=
  (stepShape m.left m.weight).isNone || m.wgrad || ((isLf8 m.left || isLf8 m.weight) && !d.agreed 20) ||
    (match accCtl m.control with
      | none => true
      | some c => (decide (c.order = .tile) && decide (m.left = .lf32)) || (d.mode.det && decide (c.chunk ≠ 1)))

/-- Terms of a chunk (R90). -/
def chunkTerms (c : BitVec 2) : Nat := [0, 256, 1024, 4096].getD c.toNat 0

/-- A matrix reduction that the loader refuses (R98, R99, R100, R104). A promotion of no term is that of a preload. -/
def redFails (det : Bool) (r : RedDecl) : Bool :=
  let n := chunkTerms r.chunk
  if n = 0 then det || anyPair (fun a b => decide (a.core ≠ b.core)) r.steps
  else
    let ends := (List.range (ceilDiv r.kEnd n)).map (fun j => min (n * (j + 1)) r.kEnd)
    let coreAt (e : Nat) : Option (BitVec 11) := (r.steps.find? (fun s => decide (s.k0 / n = (e - 1) / n))).map (·.core)
    (det && decide (r.chunk ≠ 1)) ||
    r.steps.any (fun s => if s.k0 % n = 0 then !s.first else s.first) ||
    anyPair (fun a b => decide (a.k0 / n = b.k0 / n ∧ a.core ≠ b.core)) r.steps ||
    ends.any (fun e => !(r.promotions.any (fun p => decide (p.2 = e ∧ coreAt e = some p.1)))) ||
    r.promotions.any (fun p => decide (p.2 ≠ 0) && !ends.contains p.2) ||
    decide (1 < r.preloadContributors) || r.preloadStartsChunk

/-- A vector sum along a tensor that the loader refuses (R106): a chunked one by the rules of chunks, with element positions for k
positions; one without chunking lies on one core. -/
def vectorSumFails (det : Bool) (r : RedDecl) : Bool :=
  if r.chunk = 0 then anyPair (fun a b => decide (a.core ≠ b.core)) r.steps else redFails det r || decide (r.chunk ≠ 1)

/-- Whether totals that an image adds to one another differ in width or base (R44, R101). -/
def xsAddFails (im : LoadImage) : Bool := im.xsAdds.any (anyPair (fun a b => decide (a ≠ b)))

/-- The rest of the static schedule (R65, R66, R76). -/
def scheduleFails (im : LoadImage) : Bool :=
  im.weightSwaps.any (fun w => decide (w.2.2 < w.2.1 + blockBytes w.1 / 256)) ||
  im.tileClashes.any (fun t => decide (t.1 = t.2)) ||
  im.arrivals.any (fun a => decide (a.2.2.1 < a.2.2.2))

/-- Output-stage fields and conversions (R52, R113, R485). -/
def convFails (d : Dev) (im : LoadImage) : Bool :=
  im.conversions.any (fun c => !convOffered c.1 c.2 || ((isLf8 c.1 || isLf8 c.2) && !d.agreed 20)) ||
  im.outControls.any (fun c => outControlBad c.toNat || (decide (bits c.toNat 13 12 ≠ 0) && !d.agreed 18))

/-- A preemptible image's declarations (R123, R345). -/
def preemptFails (im : LoadImage) : Bool :=
  im.preemptible && (decide (im.saveBanks.eraseDups.length ≠ 2) || decide (im.preemptLimit < 1024 ∨ 2 ^ 24 < im.preemptLimit) ||
    decide (2 ^ 24 < im.preemptGap) ||
    im.banks.any (fun b => im.saveBanks.contains b.bank || im.lendBanks.contains b.bank))

/-- Hops between two neighbours of a stage's ring, at most, for the core map in force (R72). -/
def stageHops (d : Dev) (s : StageDecl) : Nat :=
  let ps := (stageRing s).filterMap d.placeOf
  (ps.zip (ps.drop 1 ++ ps.take 1)).foldl (fun h x => max h ((pathTo 72 x.1 x.2).length - 1)) 0

/-- Whether the schedule gives a rotation step of a layout less than its length: its array steps, and the shard's lines with their
way to the successor (R169, R240). -/
def stepShort (d : Dev) (s : StageDecl) (t : TensorDecl) (back : Bool) : Bool :=
  let g := (stageRing s).length
  let lines := ((List.range g).map (fun i => ceilDiv (shardBytes t back g i) 256)).foldl max 0
  let x := if back then t.bwdSteps else t.fwdSteps
  decide (x.2 < max x.1 (lines + stageHops d s + 1))

/-- A tensor that the loader refuses: OPT of R248, a sharded one with fewer tiles than cores in either layout (R239), a rotation step
that is too short (R240), or slots that are not four in each layout (R249). -/
def tensorFails (d : Dev) (s : StageDecl) (t : TensorDecl) : Bool :=
  let g := (stageRing s).length
  let mat := decide (t.kind.val = 1)
  !([1, 2, 4] : List Byte).contains t.opt || decide (t.kind.val = 0 ∨ t.n = 0 ∨ t.k = 0 ∨ (t.kind.val ≠ 1 ∧ t.k ≠ 1)) ||
    (stepShape t.fmt t.fmt).isNone && mat || decide (t.fwdSlots.length ≠ 4) || (mat && decide (t.bwdSlots.length ≠ 4)) ||
    (t.sharded && (decide (tensorTiles t false < g) || stepShort d s t false ||
      (mat && (decide (tensorTiles t true < g) || stepShort d s t true))))

/-- A schedule in which contributions for update n + 2 can arrive before update n has run (R249). -/
def stashOverrun (w : TowerDecl) : Bool :=
  w.updates.any (fun x => w.contribs.any (fun y => decide (x.1 + 2 ≤ y.1 ∧ y.2 ≤ x.2)))

/-- A tower that the loader refuses (R165, R239, R249, R254). -/
def towerFails (d : Dev) (w : TowerDecl) : Bool :=
  decide (softEnd < w.header.toNat + 64) || stashOverrun w || (w.micro && (decide (w.lag = 0 ∨ w.u = 0) || !d.agreed 7)) ||
    w.stages.any (fun s => (stageRing s).isEmpty || s.tensors.any (tensorFails d s))

/-- A micro-batch whose cores' shares are not its range in whole chunks (R242, R98, R100). -/
def microFails (det : Bool) (n : Nat) (m : (Nat × Nat) × List (BitVec 11 × Nat × Nat)) : Bool :=
  decide ((m.2.map (fun s => s.2.2)).sum ≠ m.1.2) || (det && decide (n ≠ 256)) ||
    m.2.any (fun s => decide (s.2.1 < m.1.1 ∨ m.1.1 + m.1.2 < s.2.1 + s.2.2) || decide (n = 0) ||
      decide (s.2.1 % n ≠ 0) || (decide (s.2.2 % n ≠ 0) && (det || decide (s.2.1 + s.2.2 ≠ m.1.1 + m.1.2))))

/-- A deferred-work entry that the loader does not write (R244): a reserved KIND or bit, no cycles, a row tile or a contributor where
there is none, or an OWNER that R241 does not give. -/
def deferFails (im : LoadImage) (array : Bool) (b : List Byte) : Bool :=
  let i := parseDefer 0 b
  let k := i.kind.toNat
  (if array then decide (k ≠ 1) else decide (k < 2 ∨ 5 < k)) || decide (2 ^ 11 ≤ field b 8 2 ∨ i.cycles = 0) ||
    (decide (k ≠ 1) && decide (i.kTile ≠ 0)) || (decide (k = 5) && decide (2 ^ 11 ≤ i.chunk.toNat)) ||
    (decide (k ≠ 5) && (match sumTensor im i.layer k with
      | some (_, s, t) => decide (ownerCore s t (32 * i.nTile.toNat) ≠ i.owner.toNat ∨ t.n ≤ 32 * i.nTile.toNat ∨
          t.k ≤ 32 * i.kTile.toNat)
      | none => true))

/-- Whether a deferred-work list lies in a bank that the image names for its core (R244). -/
def listNamed (im : LoadImage) (l : DeferDecl) : Bool :=
  (banksOf l.listAt.toNat (16 * l.entries.length)).all (fun k =>
    im.banks.any (fun x => decide (x.core = l.core ∧ x.bank.toNat = k ∧ x.owner = .program)))

/-- The dense declarations (R239 to R260). -/
def denseFails (d : Dev) (im : LoadImage) : Bool :=
  im.towers.any (towerFails d) || im.microBatches.any (microFails d.mode.det im.chunkRecords) ||
    im.deferred.any (fun l => !listNamed im l || l.entries.any (fun e => deferFails im l.array e.2)) || im.rowSpans.any (fun n => decide (1 < n))

/-- The stream of an image with a local stream number. -/
def imageStream (im : LoadImage) (n : Nat) : Option (Nat × Desc) :=
  (im.streams.find? (fun s => s.1 = n)).map (fun s => (s.1, parseDesc s.2))

/-- A chain that R281 and R282 do not allow, from a stage on (fuel: the stages left). -/
def chainFails (im : LoadImage) : Nat → Nat × Desc → Bool
  | 0, _ => true
  | k + 1, (n, x) =>
    x.chained && (match imageStream im x.next.toNat with
      | none => true
      | some (m, y) => decide (n / 8 ≠ m / 8) || !chainLink x y || chainFails im k (m, y))

/-- The slot whose halves a stream uses: that of the IN stage that feeds it (R281). -/
def halvesOwner (im : LoadImage) (n : Nat) : Nat :=
  match im.streams.find? (fun s => let x := parseDesc s.2; decide (x.next.toNat = n) && !x.out && decide (s.1 / 8 = n / 8)) with
  | some s => s.1 % 8
  | none => n % 8

/-- Whether an image's descriptor is refused (R269, R281, R282). -/
def streamFails (d : Dev) (im : LoadImage) (s : Nat × List Byte) : Bool :=
  let core := s.1 / 8
  let slot := halvesOwner im s.1
  let gives (x : Desc) : Bool :=
    givesBanks im core slot false x.nearA.toNat x.halfBytes.toNat && givesBanks im core slot true x.nearB.toNat x.halfBytes.toNat
  decide (9600 ≤ s.1) || (descFault d (slice s.2 0 128) gives).isSome || chainFails im 4 (s.1, parseDesc s.2)

/-- Streams, swaps and their barriers (R269, R271, R280, R281). -/
def streamsFail (d : Dev) (im : LoadImage) : Bool :=
  im.streams.any (streamFails d im) || im.swaps.any (fun s => decide (s.2.1 < s.1) || s.2.2) || im.outThenIn.any (!·)

/-- The owner of a bank of a core in an image. -/
def bankOwner (im : LoadImage) (core bank : Nat) : Option BankOwner :=
  (im.banks.find? (fun b => decide (b.core.toNat = core ∧ b.bank.toNat = bank))).map (·.owner)

/-- Whether a bank of a layout belongs to what the layout makes of it: a node-store half, or the program (R62, R166). -/
def layoutBankOk (im : LoadImage) (i core bank : Nat) : Bool :=
  match bankOwner im core bank, i with
  | some (.nodeHalf h), 0 => !h
  | some (.nodeHalf h), 1 => h
  | some .program, i => decide (2 ≤ i)
  | _, _ => false

/-- Whether a preemptible resident image does not lend what a service on its cores would use (R123, R295). -/
def lendFails (d : Dev) (im : LoadImage) (l : Layout) : Bool :=
  let mine := (l.masks.map (fun m => maskBanks m.toNat)).flatten
  let hosts := ((d.fe.images.map (fun o => o.2.versions.map (·.image))).flatten).filter (fun v =>
    v.preemptible && l.ring.any (fun c => v.cores.contains (BitVec.ofNat 11 c)))
  hosts.any (fun v => mine.any (fun b => !v.lendBanks.contains (BitVec.ofNat 4 b)) ||
    im.banks.any (fun b => v.cores.contains b.core && !v.lendBanks.contains b.bank) ||
    im.streams.any (fun s => v.cores.contains (BitVec.ofNat 11 (s.1 / 8)) && !(v.lendSlots.any (fun x => x.val = s.1 % 8))))

/-- A scoring layout that an image binds (R123, R176, R295). -/
def imageLayoutFails (d : Dev) (im : LoadImage) (b : List Byte) : Bool :=
  let l := parseLayout b
  bindFails d (fun _ => []) l ||
    (List.range 9).any (fun i => l.ring.any (fun c => (maskBanks (l.mask i)).any (fun k => !layoutBankOk im i c k))) ||
    lendFails d im l

/-- Streams reachable along dependencies in at most n steps. -/
def reachEdges (es : List (U32 × U32)) : Nat → List U32 → List U32
  | 0, xs => xs
  | n + 1, xs => reachEdges es n ((xs ++ (es.filter (fun e => xs.contains e.1)).map (·.2)).eraseDups)

/-- Streams on a cycle of dependencies (R293). -/
def onCycle (es : List (U32 × U32)) : List U32 :=
  ((es.map (·.1)).eraseDups).filter (fun x => (reachEdges es es.length ((es.filter (fun e => e.1 = x)).map (·.2))).contains x)

/-- Whether a static order places a forward of version n before the backward pass that retires version n − 4 (R253). -/
def orderStalls : List OrderStep → Bool
  | [] => false
  | .forward n :: rest => decide (4 ≤ n) && rest.contains (.retire (n - 4)) || orderStalls rest
  | .retire _ :: rest => orderStalls rest

/-- The stream number at which a load finds a cycle (R253, R293): which of a cycle's streams is left open; for a stash that would
stall it is the stream that brings the core its activations (DESIGN CHOICE, log entry 118). -/
def cycleFound (d : Dev) (im : LoadImage) : Option Nat :=
  match im.orders.find? (fun o => orderStalls o.2) with
  | some o => some o.1.toNat
  | none =>
    let xs := onCycle im.waitEdges
    (xs[(Config.freeValue d.free).toNat % xs.length]?).map (·.toNat)

/-- Whether an image fails a check other than that of a cycle. -/
def imageFails (d : Dev) (im : LoadImage) : Bool :=
  decide (d.logicalCount < im.builtFor) || im.threadMode || im.cores.any (fun c => (d.placeOf c.toNat).isNone) ||
  localFails im || im.matrix.any (matFails d) || im.reductions.any (redFails d.mode.det) ||
  im.vectorSums.any (vectorSumFails d.mode.det) || xsAddFails im || scheduleFails im ||
  convFails d im || preemptFails im || denseFails d im || streamsFail d im || im.layouts.any (imageLayoutFails d im) ||
  im.carriesTransient || im.overwritesInputs || im.features.any (fun f => !d.agreed f.val) ||
  (im.group.isSome && !d.agreed 16)

/-- The refusal of an image, if any: a cycle comes first (R347). -/
def imageFault (d : Dev) (im : LoadImage) : Option (Nat × Nat) :=
  match cycleFound d im with
  | some n => some (0xD, n)
  | none => if imageFails d im then some (0xC, 0xFFFFFFFF) else none

/-! ## The Owl's choice of arbitration (R286) -/

/-- The most streams that resident images can have ready at once on a side. -/
def Dev.readyMost (d : Dev) (f : LoadImage → Nat) : Nat :=
  (d.fe.images.map (fun o => (o.2.versions.map (fun v => f v.image)).foldl max 0)).sum

/-- The Owl chooses the mode of both memory sides anew; the mode follows at the next Den clock edge. -/
def chooseModes (d : Dev) : Dev :=
  let one (n : Nat) (most : Nat) (d : Dev) : Dev := modSide n (fun x => { x with owlChoice := decide (256 < most) }) d
  one 1 (d.readyMost (·.readySouth)) (one 0 (d.readyMost (·.readyNorth)) d)

/-! ## IMAGE_LOAD, IMAGE_PATCH, IMAGE_UNLOAD (R334 to R337) -/

/-- A new version of an image. -/
def newVersion (d : Dev) (n : Nat) (im : LoadImage) : ImageVersion :=
  { number := n, state := .newest, users := 0, image := im, checkedDet := d.mode.det }

/-- IMAGE_LOAD: a load creates version 1. -/
def imageLoadReq (im : LoadImage) (b : List Byte) (d : Dev) : Answer :=
  let i := field b 0x20 4
  if 1024 ≤ i then .error (1, 0x20)
  else if (d.image i).loaded then .error (0xA, 0x20)
  else if !inSoft (field b 0x28 8) (field b 0x30 8) then .error (0xF, 0x28)
  else match imageFault d im with
    | some e => .error e
    | none =>
      let d := modImage i (fun _ => { loaded := true, unloading := false, versions := [newVersion d 1 im] }) d
      .ok (leBytes 4 1, chooseModes d)

/-- A request that may draw a free value. -/
def withDraw (f : Dev → Dev) (d : Dev) : Dev := (drawFree (f d)).2

/-- IMAGE_LOAD. -/
def execImageLoad (image : LoadImage) (s : State) : Host.Outcome State Fault Refusal :=
  lift (withDraw (servePcie 0x30 0 [u 4, u 8, u 8] (imageLoadReq image))) s

/-- IMAGE_PATCH: version newest + 1, checked as a load. -/
def imagePatchReq (im : LoadImage) (b : List Byte) (d : Dev) : Answer :=
  let i := field b 0x20 4
  let base := field b 0x24 4
  let o := d.image i
  let top := (o.versions.map (·.number)).foldl max 0
  let live := (pruneImage { o with versions := o.versions ++ [newVersion d (top + 1) im] }).versions
  if 1024 ≤ i then .error (1, 0x20)
  else if base = 0 ∨ 65535 < base then .error (1, 0x24)
  else if o.loaded = false ∨ o.unloading = true ∨ (o.versions.any (fun v => v.number = base)) = false then .error (9, 0)
  else if !inSoft (field b 0x28 8) (field b 0x30 8) then .error (0xF, 0x28)
  else if 65535 ≤ top then .error (0xC, 0xFFFFFFFF)
  else match imageFault d im with
    | some e => .error e
    | none =>
      if 16 < live.length then .error (0xB, (pruneImage o).versions.length)
      else .ok (leBytes 4 (top + 1), chooseModes (modImage i (fun o => { o with versions := live }) d))

/-- IMAGE_PATCH. -/
def execImagePatch (image : LoadImage) (s : State) : Host.Outcome State Fault Refusal :=
  lift (withDraw (servePcie 0x31 11 [u 4, u 4, u 8, u 8] (imagePatchReq image))) s

/-- The task that uses an image, if any. -/
def Dev.taskOn (d : Dev) (i : Nat) : Option Nat :=
  (d.fe.tasks.find? (fun t => t.2.present && decide (t.2.image = i))).map (·.1)

/-- IMAGE_UNLOAD: launches are refused at once; the image is freed when the last of them retires. -/
def imageUnloadReq (b : List Byte) (d : Dev) : Answer :=
  let i := field b 0x20 4
  if 1024 ≤ i then .error (1, 0x20)
  else if !(d.image i).loaded then .error (9, 0)
  else match d.taskOn i with
    | some t => .error (0xA, t)
    | none => .ok ([], chooseModes (modImage i (fun o => pruneImage { o with unloading := true }) d))

/-- IMAGE_UNLOAD. -/
def execImageUnload (s : State) : Host.Outcome State Fault Refusal := lift (servePcie 0x32 0 [u 4] imageUnloadReq) s

/-! ## Persistent tasks (R332) -/

/-- The fields of TASK_CREATE; COUNT outside 1 to 64 is judged by its own field. -/
def taskFields (b : List Byte) : List (Nat × Nat) :=
  let n := field b 0x2C 4
  [u 4, u 4, u 4, u 4] ++ List.replicate (if 1 ≤ n ∧ n ≤ 64 then n else (field b 2 2 - 16) / 4) (u 4)

/-- The queues that a TASK_CREATE names. -/
def taskQueues (b : List Byte) : List Nat := (List.range (field b 0x2C 4)).map (fun i => field b (0x30 + 4 * i) 4)

/-- Who holds a core: a task, or the queue of a job (R482). -/
def Dev.holderOf (d : Dev) (core : Nat) : Nat :=
  match d.fe.tasks.find? (fun t => (d.taskCores t.2).contains core) with
  | some t => t.1
  | none => ((d.jobAt core).map (·.queue)).getD 0

/-- The first queue that a task cannot bind, with its refusal. -/
def queuesFault (d : Dev) : List Nat → Nat → Option (Nat × Nat)
  | [], _ => none
  | q :: qs, o =>
    if 2 ^ 18 ≤ q then some (1, o)
    else if (d.queue q).state = .unused then some (9, 0)
    else match (d.queue q).task with
      | some t => some (0xA, t.toNat)
      | none => queuesFault d qs (o + 4)

/-- The task is created: its queues are bound, its version pinned and its image loaded. -/
def beginTask (t i v : Nat) (qs : List Nat) (im : LoadImage) (d : Dev) : Dev :=
  let d := forEach (fun q d => modQueue q (fun x => { x with persistent := true, task := some (BitVec.ofNat 8 t) }) d) qs d
  let d := modImage i (fun o => { o with
    versions := updateFirst (fun x => x.number = v) (fun x => { x with users := x.users + 1 }) o.versions }) d
  let d := modTask t (fun _ => { Task.reset with present := true, image := i, version := v, queues := qs }) d
  loadOntoCores im d

/-- TASK_CREATE. -/
def taskCreateReq (b : List Byte) (d : Dev) : Answer :=
  let t := field b 0x20 4
  let i := field b 0x24 4
  let v := field b 0x28 4
  let n := field b 0x2C 4
  let o := d.image i
  if 256 ≤ t then .error (1, 0x20)
  else if 1024 ≤ i then .error (1, 0x24)
  else if v = 0 ∨ 65535 < v then .error (1, 0x28)
  else if n = 0 ∨ 64 < n then .error (1, 0x2C)
  else if (d.task t).present then .error (0xA, 0x20)
  else if o.loaded = false ∨ o.unloading = true then .error (9, 0)
  else match queuesFault d (taskQueues b) 0x30, o.versions.find? (fun x => x.number = v) with
    | some e, _ => .error e
    | none, none => .error (9, 0)
    | none, some x =>
      if (d.mode.det && !x.checkedDet) || x.image.cores.any (fun c => (d.placeOf c.toNat).isNone) then .error (0xC, 0xFFFFFFFF)
      else match x.image.cores.find? (fun c => d.coreBusy c.toNat) with
        | some c => .error (0xA, d.holderOf c.toNat)
        | none => .ok ([], beginTask t i v (taskQueues b) x.image (wakeCores (x.image.cores.map (·.toNat)) d))

/-- TASK_CREATE. -/
def execTaskCreate (s : State) : Host.Outcome State Fault Refusal :=
  lift (fun d => (serveReq (isOp 0x33) false false 10 false taskFields taskCreateReq d).1) s

/-- TASK_END: a task with a launch in hand is in use; its version is released. -/
def taskEndReq (b : List Byte) (d : Dev) : Answer :=
  let t := field b 0x20 4
  let k := d.task t
  if 256 ≤ t then .error (1, 0x20)
  else if !k.present then .error (9, 0)
  else match k.running, k.halves with
    | some r, _ => .error (0xA, r.1)
    | none, h :: _ => .error (0xA, h.1)
    | none, [] =>
      let d := forEach (fun q d => modQueue q (fun x => { x with task := none }) d) k.queues d
      .ok ([], chooseModes (releaseVersion k.image k.version (modTask t (fun _ => Task.reset) d)))

/-- TASK_END. -/
def execTaskEnd (s : State) : Host.Outcome State Fault Refusal := lift (servePcie 0x34 10 [u 4] taskEndReq) s

end Sys2Proof.Machine
end

