-- ==== Sys2Proof/Machine/RegWrites.lean ====
section
/-! DEFINITION. REGISTER_WRITE: what a write to each register of BAR0 does (R4 to R10, R469 to R472, and the register tables of every chapter). -/

namespace Sys2Proof.Machine
open Sys2Proof

/-! ## The written bits -/

/-- A write as it lands in the 64-bit word of its register: the word's offset, the written bits as a mask, and their values. -/
structure RegWord where
  base : Nat
  mask : Nat
  bits : Nat
deriving DecidableEq, Repr

/-- The word of a write of 4 or 8 bytes. -/
def regWord (offset : Nat) (wide : Bool) (v : Nat) : RegWord :=
  let sh := 8 * (offset % 8)
  if wide then { base := offset, mask := 2 ^ 64 - 1, bits := v % 2 ^ 64 }
  else { base := offset - offset % 8, mask := (2 ^ 32 - 1) <<< sh, bits := (v % 2 ^ 32) <<< sh }

/-- The word after the write, over what it held. -/
def RegWord.over (w : RegWord) (old : Nat) : Nat := (old &&& (2 ^ 64 - 1 - w.mask)) ||| w.bits

/-! ## Bounded configuration (R407, R507) -/

/-- A field with a value in its range, else what it held. -/
def inRange {n : Nat} (lo hi v : Nat) (old : BitVec n) : BitVec n := if lo ≤ v ∧ v ≤ hi then BitVec.ofNat n v else old

/-- A write of POWER_BOUNDS (R507). -/
def writePowerBounds (v : Nat) (b : Bounds) : Bounds :=
  { b with ceilingW := inRange 300 1500 (bits v 10 0) b.ceilingW, floorStep := inRange 10 34 (bits v 21 16) b.floorStep,
           ceilingStep := inRange 10 34 (bits v 29 24) b.ceilingStep, rowFloor := inRange 0 30 (bits v 36 32) b.rowFloor }

/-- A write of MEM_CTRL (R407). -/
def writeMemCtrl (v : Nat) (b : Bounds) : Bounds :=
  { b with scrubHours := BitVec.ofNat 8 v, correctLimit := inRange 0 4 (bits v 10 8) b.correctLimit, writeback := bitOf v 11,
           innerThreshold := BitVec.ofNat 8 (bits v 23 16) }

/-! ## Identity and mode registers (R307, R349, R472, R474, R517, R531, R533) -/

/-- Store written bytes of a word in a byte table. -/
def storeWord (m : Sparse Byte) (at_ : Nat) (word : Nat) : Sparse Byte := putAll 0 m at_ (leBytes 8 word)

/-- Writes to 0x000000 to 0x000FFF. v: the word after the write; c: the bits written. The doorbell word is written when its low
half is. -/
def writeIdentity (w : RegWord) (v : Nat) (d : Dev) : Dev :=
  if 0x800 ≤ w.base ∧ w.base < 0x880 then { d with mode := { d.mode with msixTable := storeWord d.mode.msixTable (w.base - 0x800) v } }
  else match w.base with
    | 0x108 => { d with start := { d.start with fwAddr := BitVec.ofNat 64 v } }
    | 0x110 => { d with start := { d.start with fwBytes := BitVec.ofNat 32 v } }
    | 0x118 => { d with start := { d.start with fwGo := bitOf v 0 } }
    | 0x200 => if bitOf w.mask 0 then ringMail .pcie (BitVec.ofNat 32 w.bits) d else d
    | 0x208 => if bitOf w.bits 2 then modMail .pcie (fun m => { m with refused := false }) d else d
    | _ => d

/-- Writes to the plain registers of 0x003000 to 0x0037FF. -/
def writeMode (w : RegWord) (v : Nat) (d : Dev) : Dev :=
  match w.base with
  | 0x3008 => if bitOf w.bits 2 then { d with mode := { d.mode with refused := false } } else d
  | 0x3018 => if bitOf w.bits 42 then { d with journal := { d.journal with diverged := false } } else d
  | 0x3050 => { d with mode := { d.mode with queueSelect := BitVec.ofNat 64 (bits v 17 0) } }
  | 0x3060 => if bitOf w.bits 1 then { d with mode := { d.mode with mismatch := false } } else d
  | 0x3070 => setBar4Base v d
  | _ => d

/-! ## Power, events, streams, captures, fabric and Ethernet -/

/-- Writes to 0x004000 to 0x004FFF but POWER_BOUNDS (R508, R509, R524). -/
def writePower (w : RegWord) (d : Dev) : Dev :=
  if w.base = 0x4010 then { d with power := { d.power with cause := d.power.cause &&& ~~~(BitVec.ofNat 9 w.bits) } }
  else if 0x4100 ≤ w.base ∧ w.base < 0x41F0 then
    (if bitOf w.bits 12 then modRow ((w.base - 0x4100) / 8) (fun r => { r with droop := false }) d else d)
  else if w.base = 0x41F0 ∧ bitOf w.bits 2 = true then { d with health := { d.health with recovered := false } }
  else d

/-- A write of EVENT_BASE (R487, R488): ignored while ENABLE is set. -/
def writeEventBase (v : Nat) (d : Dev) : Dev :=
  if d.events.enable then d else { d with events := { d.events with base := BitVec.ofNat 64 v } }

/-- A write of the event status register (R487): W1C of OVERFLOW, BAD_BASE and BAD_CONSUMER. -/
def clearEventBits (c : Nat) (d : Dev) : Dev :=
  let e := d.events
  { d with events := { e with overflow := e.overflow && !bitOf c 1, badBase := e.badBase && !bitOf c 2,
                              badConsumer := e.badConsumer && !bitOf c 3 } }

/-- Writes to 0x005000 to 0x005FFF. -/
def writeEvents (w : RegWord) (v : Nat) (d : Dev) : Dev :=
  match w.base with
  | 0x5000 => writeEventBase v d
  | 0x5008 => writeEventCtl v d
  | 0x5018 => if bitOf w.mask 0 then writeConsumer (BitVec.ofNat 32 w.bits) d else d
  | 0x5020 => clearEventBits w.bits d
  | _ => d

/-- W1C of LATE and REFUSED of a slot (R274). -/
def clearSlotBits (s c : Nat) (d : Dev) : Dev :=
  modSlot s (fun x => { x with late := x.late && !bitOf c 5, refused := x.refused && !bitOf c 7 }) d

/-- Writes to 0x020000 to 0x02FFFF (R274, R287). -/
def writeStreams (w : RegWord) (v : Nat) (d : Dev) : Dev :=
  if w.base < 0x20000 + 4 * 10080 then
    let s := (w.base - 0x20000) / 4
    clearSlotBits (s + 1) (w.bits / 2 ^ 32) (clearSlotBits s w.bits d)
  else if 0x2A000 ≤ w.base ∧ w.base < 0x2A018 then forceSide ((w.base - 0x2A000) / 8) (v % 4) d
  else d

/-- Writes to 0x030000 to 0x03FFFF (R116 to R118). -/
def writeCapture (w : RegWord) (d : Dev) : Dev :=
  if w.base < 0x30000 + 32 * 1260 then
    let p := (w.base - 0x30000) / 32
    match (w.base - 0x30000) % 32 with
    | 0 => clearFlags (w.bits % 64) p d
    | 8 => if bitOf w.bits 3 then rearmCapture p d else d
    | _ => d
  else if w.base = 0x3A000 then clearSticky (BitVec.ofNat 6 w.bits) d
  else d

/-- Writes to a channel capture (R406): VALID lies in bit 32 of the record's third word. -/
def writeChannel (w : RegWord) (d : Dev) : Dev :=
  if w.base < 0x52000 ∧ (w.base - 0x50000) % 32 = 16 ∧ bitOf w.bits 32 = true then
    rearmChannel ((w.base - 0x50000) / 32) d
  else d

/-- Writes to 0x060000 to 0x07FFFF (R436, R437, R464). -/
def writeFabric (w : RegWord) (v : Nat) (d : Dev) : Dev :=
  if w.base < 0x60180 then
    (if bitOf w.bits 16 then modLinkReg ((w.base - 0x60000) / 8) (fun r => { r with miswire := false }) d else d)
  else if 0x60200 ≤ w.base ∧ w.base < 0x60380 then
    (if bitOf w.mask 0 = false then d
     else if bitOf v 0 then enableLink ((w.base - 0x60200) / 8) d else disableLink ((w.base - 0x60200) / 8) d)
  else if 0x70000 ≤ w.base ∧ w.base < 0x70040 ∧ bitOf w.bits 3 = true then
    modPort ((w.base - 0x70000) / 8) (fun p => { p with dropping := false }) d
  else d

/-- W1C of a completion summary word (R316). -/
def clearSummary (i c : Nat) (d : Dev) : Dev :=
  { d with fe := { d.fe with summary := upd 0 d.fe.summary i (fun x => x &&& ~~~(BitVec.ofNat 64 c)) } }

/-- Writes to a counter slot (R9): the written bits over what the slot holds, where [63] of a P48 counter is W1C. -/
def writeSlot (w : RegWord) (v : Nat) (d : Dev) : Dev := writeCounter w.base (v % 2 ^ 63 + w.bits / 2 ^ 63 * 2 ^ 63) d

/-- A write to a register that is neither paired nor bounded; a reserved or read-only one takes nothing (R6), and a bit that the
block has set in the same Den cycle is not cleared (R473). -/
def writeReg (w : RegWord) (v : Nat) (d : Dev) : Dev :=
  let o := w.base
  let w := { w with bits := d.clears o w.bits }
  if o < 0x1000 then writeIdentity w v d
  else if o < 0x2000 then modMail .pcie (fun m => { m with request := storeWord m.request (o - 0x1000) v }) d
  else if o < 0x3000 then d
  else if o < 0x3800 then writeMode w v d
  else if o < 0x4000 then d
  else if o < 0x5000 then writePower w d
  else if o < 0x6000 then writeEvents w v d
  else if o < 0x20000 then d
  else if o < 0x30000 then writeStreams w v d
  else if o < 0x40000 then writeCapture w d
  else if o < 0x50000 then writeSlot w v d
  else if o < 0x60000 then writeChannel w d
  else if o < 0x80000 then writeFabric w v d
  else if 0x100000 ≤ o ∧ o < 0x108000 then clearSummary ((o - 0x100000) / 8) w.bits d
  else if 0x400000 ≤ o ∧ o < 0x580000 then writeSlot w v d
  else d

/-! ## Paired registers (R471) -/

/-- Hold a half: the written words over the half already held there, else over what is in force or its complement (R471). -/
def holdHalf (a : Nat) (complement : Bool) (w : RegWord) (d : Dev) : Dev :=
  let h := d.pair a
  let force := d.wpValue a
  let old := match (if complement then h.complement else h.value) with
    | some (x, _) => x.toNat
    | none => if complement then 2 ^ 64 - 1 - force else force
  let new := some (BitVec.ofNat 64 (w.over old), d.time.edges)
  setPair a (if complement then { h with complement := new } else { h with value := new }) d

/-- What the halves of a register come to: a value when they are complements of each other, a mismatch when they are not. -/
def PairHalves.judge (h : PairHalves) : Option (Option U64) :=
  match h.value, h.complement with
  | some (v, _), some (c, _) => some (if c = ~~~v then some v else none)
  | _, _ => none

/-- What the first steps of a start requested by a register write meet: the input as last measured, and no failure (log entry
34). -/
def Dev.measuredEnv (d : Dev) : StartEnv :=
  { inputMv := d.power.inputMv, reversed := bitOf d.power.inputFlags.toNat 1, regulatorFail := false, trainingFail := false }

/-- A queue control command (R306). -/
def queueCtlWrites (v : Nat) (d : Dev) : Dev :=
  let q := bits v 17 0
  let op := bits v 19 18
  noteQueueCtl q op (match op with
    | 0 => enableQueue q d
    | 1 => disableQueue q d
    | 2 => killQueue q d
    | _ => resetQueue q d)

/-- The effect of a paired value. -/
def pairTakes (a v : Nat) (s : State) : State :=
  match a with
  | 0x3000 => { s with dev := detWrites v s.dev }
  | 0x3010 => { s with dev := traceWrites v s.dev }
  | 0x3040 => { s with dev := queueCtlWrites v s.dev }
  | _ => startWrite v s.dev.measuredEnv s

/-- A write to a half of a WP register: held, judged at once, and dropped or taken. -/
def writeHalf (a : Nat) (complement : Bool) (w : RegWord) (s : State) : State :=
  let d := holdHalf a complement w s.dev
  match (d.pair a).judge with
  | none => { s with dev := d }
  | some none => { s with dev := dropPair a d }
  | some (some v) => pairTakes a v.toNat { s with dev := setPair a PairHalves.reset d }

/-! ## REGISTER_WRITE -/

/-- A write to the word of a register. -/
def writeWord (w : RegWord) (s : State) : State :=
  let o := w.base
  let v := w.over (readReg s.bounds s.dev o)
  if wpOffsets.contains o then writeHalf o false w s
  else if 0x3800 ≤ o ∧ wpOffsets.contains (o - 0x800) = true then writeHalf (o - 0x800) true w s
  else if o = 0x4000 then
    let b := writePowerBounds v s.bounds
    { s with bounds := b, dev := wakeFloor b s.dev }
  else if o = 0x52000 then { s with bounds := writeMemCtrl v s.bounds }
  else { s with dev := writeReg w v s.dev }

/-- REGISTER_WRITE: of 4 or 8 bytes at an aligned offset; any other is a bad access (R469). -/
def execRegisterWrite (offset : BitVec 24) (wide : Bool) (value : U64) (s : State) : Host.Outcome State Fault Refusal :=
  let n := if wide then 8 else 4
  if s.dev.denRuns = false then .next s
  else if goodAccess offset.toNat n then .next (writeWord (regWord offset.toNat wide value.toNat) s)
  else lift (badAccessDev true n) s

end Sys2Proof.Machine
end

