-- ==== Sys2Proof/Machine/Squirrel.lean ====
section
/-! DEFINITION. The program's Squirrel instruction: binning and walking from local memory (R71, R147, R152, R159, R161, R162, R164). -/

namespace Sys2Proof.Machine
open Sys2Proof

/-- Banks that the image of a position's job gives to an owner there, in order (R62). -/
def Dev.banksFor (d : Dev) (p : Nat) (owner : BankOwner) : List Nat :=
  match (d.ownerOf p).bind (fun k => d.job k.1 k.2), (d.core p).entry.logical with
  | some j, core => match d.jobImage j with
    | some v => (List.range 16).filter (fun b => v.image.banks.any (fun x => x.core = core ∧ x.bank.toNat = b ∧ x.owner = owner))
    | none => []
  | none, _ => []

/-- Whether n bytes at a local address lie in banks of the program (R71); a core that no job holds has no owners. -/
def Dev.inProgram (d : Dev) (p a n : Nat) : Bool :=
  inLm a n && ((d.ownerOf p).isNone || decide (n = 0) ||
    ((rangeFrom (a / 65536) ((a + n - 1) / 65536 + 1 - a / 65536)).all (d.banksFor p .program).contains))

/-- Boundary tables of the raw features as they lie one after another in local memory. -/
def localFeatures (c : Core) : List Feature → Nat → List Feature
  | [], _ => []
  | f :: fs, a =>
    if f.rawFmt.toNat < 2 then
      { f with bounds := (wordsAt (c.bytesAt a (4 * f.bounds.length)) 0 4 f.bounds.length).map (BitVec.ofNat 32) } ::
        localFeatures c fs (a + 4 * f.bounds.length)
    else f :: localFeatures c fs a

/-- One record of a Squirrel instruction in local memory: its codes and poison mark. -/
def localRecord (c : Core) (e : Ensemble) (op : SquirrelOp) (i : Nat) : List U32 × Bool :=
  let n := e.recordBytes op.raw
  let a := op.records.toNat + n * i
  let fs := if op.raw then localFeatures c e.features op.boundsAt.toNat else e.features
  ({ e with features := fs }.codesOf op.raw (c.bytesAt a n), c.poisonedIn a n)

/-- Whether a Squirrel instruction emits a tree's key. -/
def squirrelEmits (op : SquirrelOp) (t : Nat) : Bool :=
  if op.keys = 1 then true else if op.keys = 2 then decide (op.keyFirst.toNat ≤ t ∧ t ≤ op.keyLast.toNat) else false

/-- KEYS of a Squirrel instruction is a reserved encoding (R5, R152). -/
def squirrelKeysBad (op : SquirrelOp) (trees : Nat) : Bool :=
  decide (op.keys = 3 ∨ (op.keys = 2 ∧ (op.keyLast.toNat < op.keyFirst.toNat ∨ trees ≤ op.keyLast.toNat)))

/-- Word w of a block. -/
def blockWord (block : List Byte) (w : Nat) : U64 := BitVec.ofNat 64 (leNat (slice block (8 * w) 8))

/-- Whether a record goes left at a word in shard form (R139, R159): a categorical word names the slot of its map. -/
def Ensemble.leftIn (e : Ensemble) (t : Tree) (block : List Byte) (codes : List U32) (w : U64) : Bool :=
  let c := (codes.getD (wFeature w) 0).toNat
  let miss := (e.features[wFeature w]?.map Feature.missing).getD 0xFF
  if c = miss then wMissLeft w
  else if wKind w = 2 then bitOf (byteAt block (8 * t.words.length + 32 * wThreshold w + c / 8)).toNat (c % 8)
  else decide (c ≤ wThreshold w)

/-- Walk a general block from word w (fuel: the depth): the leaf's word. -/
def Ensemble.walkBlock (e : Ensemble) (t : Tree) (block : List Byte) (codes : List U32) : Nat → Nat → Nat
  | 0, w => w
  | n + 1, w =>
    let x := blockWord block w
    if wKind x = 1 then w
    else e.walkBlock t block codes n (if e.leftIn t block codes x then w + 1 else w + wLink x)

/-- What a record reaches in a tree's block: the K leaf values as bytes, and the ordinal (R159, R161, R162). -/
def Ensemble.reachBlock (e : Ensemble) (t : Tree) (block : List Byte) (codes : List U32) : List Byte × Nat :=
  let n := 4 * e.outputs
  if t.symmetric then
    let o := (List.range t.depth).foldl (fun o k => 2 * o + b2n (!e.leftIn t block codes (blockWord block k))) 0
    (slice block (8 * t.depth + n * o) n, o)
  else
    let x := blockWord block (e.walkBlock t block codes t.depth 0)
    let o := x.toNat % 65536
    (if e.outputs = 1 then leBytes 4 (x.toNat / 2 ^ 32) else slice block (8 * t.words.length + 32 * t.maps.length + n * o) n, o)

/-- The blocks of trees as they lie one after another in a half: each tree with its index and marked bytes. -/
def blocksIn (e : Ensemble) : List Nat → List (Byte × Bool) → List (Nat × Tree × List (Byte × Bool))
  | [], _ => []
  | t :: ts, data => match e.trees[t]? with
    | none => []
    | some x => (t, x, data.take (x.block e.outputs)) :: blocksIn e ts (data.drop (x.block e.outputs))

/-- The blocks that a Squirrel instruction walks, from the active half. -/
def squirrelBlocks (d : Dev) (p : Nat) (e : Ensemble) (op : SquirrelOp) : List (Nat × Tree × List (Byte × Bool)) :=
  let ts := rangeFrom op.treeFirst.toNat op.treeCount.toNat
  let n := ((ts.filterMap (fun t => e.trees[t]?)).map (Tree.block e.outputs)).sum
  blocksIn e ts ((d.core p).banksMarked (d.banksFor p (.nodeHalf op.nodeB)) n)

/-- Whether what a record's walk reads of a block is poisoned (R175). -/
def blockSpoils (e : Ensemble) (codes : List U32) (b : Nat × Tree × List (Byte × Bool)) : Bool :=
  (e.readsOf codes b.2.1).any (fun r => ((b.2.2.drop r.1).take r.2).any (·.2))

/-- The leaf values, keys and codes of one record, as bytes: where each goes, and its mark. -/
def squirrelRecord (e : Ensemble) (core : Nat) (op : SquirrelOp) (blocks : List (Nat × Tree × List (Byte × Bool))) (c : Core)
    (i : Nat) : List (Nat × List Byte × Bool) :=
  let (codes, p) := localRecord c e op i
  let p := p || blocks.any (blockSpoils e codes)
  let walks := blocks.map (fun b => (b.1, e.reachBlock b.2.1 (b.2.2.map (·.1)) codes))
  let vals := (walks.map (fun w =>
    if p then (List.replicate e.outputs (leBytes 4 (poisonElem .lf32 core 0))).flatten else w.2.1)).flatten
  let keys := ((walks.filter (fun w => squirrelEmits op w.1)).map (fun w => leafKey w.1 w.2.2)).flatten
  let back := if op.writeCodes then binnedBytes e.features codes [] else []
  [(op.leavesAt.toNat + vals.length * i, vals, p), (op.keysAt.toNat + keys.length * i, keys, p),
   (op.records.toNat + e.recordBytes false * i, back, p)]

/-- The Squirrel instruction on a version: its writes go to banks of the program alone. -/
def squirrelOn (p : Nat) (op : SquirrelOp) (e : Ensemble) (d : Dev) : Dev :=
  let blocks := squirrelBlocks d p e op
  let out := ((List.range op.count.val).map (squirrelRecord e (d.nanCore p) op blocks (d.core p))).flatten
  if !out.all (fun w => d.inProgram p w.1 w.2.1.length) then d
  else
    let groups := ceilDiv op.count.val 32
    let trees := blocks.map (fun b => b.2.1)
    let gen := ((trees.filter (fun t => !t.symmetric)).map (fun t => 32 * t.cost * groups)).sum
    let d := modCore p (fun c => out.foldl (fun c w => if w.2.1.isEmpty then c else c.write w.1 w.2.1 w.2.2) c) d
    let d := bump (cCore p 9) (32 * groups * (trees.filter (fun t => t.symmetric)).length) (bump (cCore p 8) gen d)
    if op.raw then bump (cCore p 10) (32 * groups * (e.features.map (fun f => ceilLog2 f.bounds.length)).sum) d else d

/-- SQUIRREL_INSTRUCTION: the records are binned and walked through the blocks of the active half; leaf values by tree and
output, leaf keys and, where asked, the codes go to local memory. A reserved KEYS is a bad command (R5, R152). The manual gives
the instruction's operands and their local layout no form (log entry 20). -/
def squirrelRuns (p : Nat) (op : SquirrelOp) (d : Dev) : Dev :=
  let o := d.ens op.ensemble.toNat
  match o.versions.find? (fun v => v.number = op.version ∧ v.era = o.era) with
  | none => d
  | some v =>
    if squirrelKeysBad op v.content.trees.length then badControl p d
    else withLmErrors p op.lmErrors (squirrelOn p op v.content) d

/-- SQUIRREL_INSTRUCTION. -/
def execSquirrelInstruction (p : PosId) (op : SquirrelOp) (s : State) : Host.Outcome State Fault Refusal :=
  lift (coreRun p.val (squirrelRuns p.val op)) s

end Sys2Proof.Machine
end

