-- ==== Sys2Proof/Machine/Dispatch.lean ====
section
/-! DEFINITION. The one dispatch: each command to its meaning. -/

namespace Sys2Proof.Machine
open Sys2Proof

/-- The effect of a command on everything but the queue of waiting commands. -/
def exec (i : Instr) (s : State) : Host.Outcome State Fault Refusal :=
  match i with
  | .nop q => Sys2Proof.Machine.execNop q s
  | .launch q => Sys2Proof.Machine.execLaunch q s
  | .launchComplete q index => Sys2Proof.Machine.execLaunchComplete q index s
  | .score q => Sys2Proof.Machine.execScore q s
  | .growLevel q peers => Sys2Proof.Machine.execGrowLevel q peers s
  | .growEndTree q crcs => Sys2Proof.Machine.execGrowEndTree q crcs s
  | .growDiscard q crcs => Sys2Proof.Machine.execGrowDiscard q crcs s
  | .growClose q crcs => Sys2Proof.Machine.execGrowClose q crcs s
  | .growPublishRetry q => Sys2Proof.Machine.execGrowPublishRetry q s
  | .embStepBegin q => Sys2Proof.Machine.execEmbStepBegin q s
  | .embStepApply q others => Sys2Proof.Machine.execEmbStepApply q others s
  | .embStepAbandon q => Sys2Proof.Machine.execEmbStepAbandon q s
  | .copy q => Sys2Proof.Machine.execCopy q s
  | .wait q => Sys2Proof.Machine.execWait q s
  | .waitPoll => Sys2Proof.Machine.execWaitPoll s
  | .signal q => Sys2Proof.Machine.execSignal q s
  | .barrierQueue q => Sys2Proof.Machine.execBarrierQueue q s
  | .barrierFabric q => Sys2Proof.Machine.execBarrierFabric q s
  | .stamp q => Sys2Proof.Machine.execStamp q s
  | .taskIteration t => Sys2Proof.Machine.execTaskIteration t s
  | .doorbell q width value => Sys2Proof.Machine.execDoorbell q width value s
  | .queueEnable q => Sys2Proof.Machine.execQueueEnable q s
  | .queueDisable q => Sys2Proof.Machine.execQueueDisable q s
  | .queueKill q => Sys2Proof.Machine.execQueueKill q s
  | .queueReset q => Sys2Proof.Machine.execQueueReset q s
  | .queueAdmit => Sys2Proof.Machine.execQueueAdmit s
  | .ringFetchReturn q first entries => Sys2Proof.Machine.execRingFetchReturn q first entries s
  | .slotTimeslice q => Sys2Proof.Machine.execSlotTimeslice q s
  | .noProgressWindow q index => Sys2Proof.Machine.execNoProgressWindow q index s
  | .frontEndReset => Sys2Proof.Machine.execFrontEndReset s
  | .completionTimeout q index => Sys2Proof.Machine.execCompletionTimeout q index s
  | .abaviDoorbell seq => Sys2Proof.Machine.execAbaviDoorbell seq s
  | .abaviNoProgress => Sys2Proof.Machine.execAbaviNoProgress s
  | .unknownOpcode => Sys2Proof.Machine.execUnknownOpcode s
  | .identify => Sys2Proof.Machine.execIdentify s
  | .features => Sys2Proof.Machine.execFeatures s
  | .snapshot => Sys2Proof.Machine.execSnapshot s
  | .memAlloc => Sys2Proof.Machine.execMemAlloc s
  | .memFree => Sys2Proof.Machine.execMemFree s
  | .hostWindowAdd => Sys2Proof.Machine.execHostWindowAdd s
  | .hostWindowRemove => Sys2Proof.Machine.execHostWindowRemove s
  | .reservedRead => Sys2Proof.Machine.execReservedRead s
  | .queueCreate => Sys2Proof.Machine.execQueueCreate s
  | .queueModify => Sys2Proof.Machine.execQueueModify s
  | .queueDelete => Sys2Proof.Machine.execQueueDelete s
  | .fenceRegister => Sys2Proof.Machine.execFenceRegister s
  | .fenceRelease => Sys2Proof.Machine.execFenceRelease s
  | .imageLoad image => Sys2Proof.Machine.execImageLoad image s
  | .imagePatch image => Sys2Proof.Machine.execImagePatch image s
  | .imageUnload => Sys2Proof.Machine.execImageUnload s
  | .taskCreate => Sys2Proof.Machine.execTaskCreate s
  | .taskEnd => Sys2Proof.Machine.execTaskEnd s
  | .ensembleCreate => Sys2Proof.Machine.execEnsembleCreate s
  | .ensemblePublish => Sys2Proof.Machine.execEnsemblePublish s
  | .ensembleDelete => Sys2Proof.Machine.execEnsembleDelete s
  | .ensembleRead => Sys2Proof.Machine.execEnsembleRead s
  | .tableCreate => Sys2Proof.Machine.execTableCreate s
  | .tableDelete => Sys2Proof.Machine.execTableDelete s
  | .pin => Sys2Proof.Machine.execPin s
  | .unpin => Sys2Proof.Machine.execUnpin s
  | .placement => Sys2Proof.Machine.execPlacement s
  | .tablePages => Sys2Proof.Machine.execTablePages s
  | .portSet => Sys2Proof.Machine.execPortSet s
  | .portClear => Sys2Proof.Machine.execPortClear s
  | .serviceWrite => Sys2Proof.Machine.execServiceWrite s
  | .serviceEnable => Sys2Proof.Machine.execServiceEnable s
  | .serviceDisable => Sys2Proof.Machine.execServiceDisable s
  | .serviceRead => Sys2Proof.Machine.execServiceRead s
  | .serviceDelete => Sys2Proof.Machine.execServiceDelete s
  | .fabricConfig => Sys2Proof.Machine.execFabricConfig s
  | .collectiveGroup => Sys2Proof.Machine.execCollectiveGroup s
  | .collectiveGroupClear => Sys2Proof.Machine.execCollectiveGroupClear s
  | .powerBounds => Sys2Proof.Machine.execPowerBounds s
  | .fence => Sys2Proof.Machine.execFence s
  | .unfence => Sys2Proof.Machine.execUnfence s
  | .fenceRow => Sys2Proof.Machine.execFenceRow s
  | .healthRead => Sys2Proof.Machine.execHealthRead s
  | .traceRegion => Sys2Proof.Machine.execTraceRegion s
  | .mgmtBlockWrite i3c frag last start bytes pecOk => Sys2Proof.Machine.execMgmtBlockWrite i3c frag last start bytes pecOk s
  | .mgmtBlockRead i3c => Sys2Proof.Machine.execMgmtBlockRead i3c s
  | .mgmtByteRead i3c => Sys2Proof.Machine.execMgmtByteRead i3c s
  | .detWrite value => Sys2Proof.Machine.execDetWrite value s
  | .traceRecord value => Sys2Proof.Machine.execTraceRecord value s
  | .traceReplay value => Sys2Proof.Machine.execTraceReplay value s
  | .traceInject => Sys2Proof.Machine.execTraceInject s
  | .startWarm value env => Sys2Proof.Machine.execStartWarm value env s
  | .startCold value env => Sys2Proof.Machine.execStartCold value env s
  | .auxPowerOn env => Sys2Proof.Machine.execAuxPowerOn env s
  | .fundamentalReset env => Sys2Proof.Machine.execFundamentalReset env s
  | .fwGo image test => Sys2Proof.Machine.execFwGo image test s
  | .fwTimeout => Sys2Proof.Machine.execFwTimeout s
  | .stepLimit step => Sys2Proof.Machine.execStepLimit step s
  | .functionLevelReset => Sys2Proof.Machine.execFunctionLevelReset s
  | .d3hotEntry => Sys2Proof.Machine.execD3hotEntry s
  | .d0Return => Sys2Proof.Machine.execD0Return s
  | .eventRingEnable value => Sys2Proof.Machine.execEventRingEnable value s
  | .eventRingDisable value => Sys2Proof.Machine.execEventRingDisable value s
  | .eventConsumerWrite value => Sys2Proof.Machine.execEventConsumerWrite value s
  | .eventWrite => Sys2Proof.Machine.execEventWrite s
  | .eventsLost => Sys2Proof.Machine.execEventsLost s
  | .flagSummaryClear value => Sys2Proof.Machine.execFlagSummaryClear value s
  | .captureRearm p => Sys2Proof.Machine.execCaptureRearm p s
  | .channelCaptureRearm k => Sys2Proof.Machine.execChannelCaptureRearm k s
  | .counterWrite offset value => Sys2Proof.Machine.execCounterWrite offset value s
  | .arbitrationForce side value => Sys2Proof.Machine.execArbitrationForce side value s
  | .linkEnable n => Sys2Proof.Machine.execLinkEnable n s
  | .linkDisable n => Sys2Proof.Machine.execLinkDisable n s
  | .bar4BaseWrite value => Sys2Proof.Machine.execBar4BaseWrite value s
  | .bar4Read offset length => Sys2Proof.Machine.execBar4Read offset length s
  | .bar4Write offset bytes poisoned => Sys2Proof.Machine.execBar4Write offset bytes poisoned s
  | .registerWrite offset wide value => Sys2Proof.Machine.execRegisterWrite offset wide value s
  | .badAccess isWrite offset width => Sys2Proof.Machine.execBadAccess isWrite offset width s
  | .pairTimeout offset => Sys2Proof.Machine.execPairTimeout offset s
  | .configParity offset => Sys2Proof.Machine.execConfigParity offset s
  | .arrayStep p op => Sys2Proof.Machine.execArrayStep p op s
  | .weightLoad p fmt addr => Sys2Proof.Machine.execWeightLoad p fmt addr s
  | .weightSwap p => Sys2Proof.Machine.execWeightSwap p s
  | .vectorOp p op => Sys2Proof.Machine.execVectorOp p op s
  | .promotion p op => Sys2Proof.Machine.execPromotion p op s
  | .preload p op => Sys2Proof.Machine.execPreload p op s
  | .outputStage p op => Sys2Proof.Machine.execOutputStage p op s
  | .moments p op => Sys2Proof.Machine.execMoments p op s
  | .sumsq p op => Sys2Proof.Machine.execSumsq p op s
  | .momentsFinish p op => Sys2Proof.Machine.execMomentsFinish p op s
  | .squirrelInstruction p op => Sys2Proof.Machine.execSquirrelInstruction p op s
  | .arm slot addr => Sys2Proof.Machine.execArm slot addr s
  | .swap slot => Sys2Proof.Machine.execSwap slot s
  | .groupResume q index => Sys2Proof.Machine.execGroupResume q index s
  | .barrierArrive p channel => Sys2Proof.Machine.execBarrierArrive p channel s
  | .barrierRelease q index channel => Sys2Proof.Machine.execBarrierRelease q index channel s
  | .collectiveStart p descriptor => Sys2Proof.Machine.execCollectiveStart p descriptor s
  | .threadIssue p instr => Sys2Proof.Machine.execThreadIssue p instr s
  | .threadReadReturn p thread bytes => Sys2Proof.Machine.execThreadReadReturn p thread bytes s
  | .wgradTile p op => Sys2Proof.Machine.execWgradTile p op s
  | .biasSum p op => Sys2Proof.Machine.execBiasSum p op s
  | .scaleSum p op => Sys2Proof.Machine.execScaleSum p op s
  | .normSum p op => Sys2Proof.Machine.execNormSum p op s
  | .add p => Sys2Proof.Machine.execAdd p s
  | .weightUpdate p op => Sys2Proof.Machine.execWeightUpdate p op s
  | .streamBlockIssue side => Sys2Proof.Machine.execStreamBlockIssue side s
  | .blockReturn slot errors => Sys2Proof.Machine.execBlockReturn slot errors s
  | .transferComplete slot => Sys2Proof.Machine.execTransferComplete slot s
  | .chainHandover slot => Sys2Proof.Machine.execChainHandover slot s
  | .streamSpill cycle => Sys2Proof.Machine.execStreamSpill cycle s
  | .spillRefill slot => Sys2Proof.Machine.execSpillRefill slot s
  | .gather request slot => Sys2Proof.Machine.execGather request slot s
  | .scatterAdd request slot => Sys2Proof.Machine.execScatterAdd request slot s
  | .batchAdmit first records poisoned => Sys2Proof.Machine.execBatchAdmit first records poisoned s
  | .shardStepEnd first lmErrors => Sys2Proof.Machine.execShardStepEnd first lmErrors s
  | .batchFinish first => Sys2Proof.Machine.execBatchFinish first s
  | .preemptRestore first => Sys2Proof.Machine.execPreemptRestore first s
  | .deadlineMiss first => Sys2Proof.Machine.execDeadlineMiss first s
  | .frameReceive port frame fcsOk corrected => Sys2Proof.Machine.execFrameReceive port frame fcsOk corrected s
  | .replySend port => Sys2Proof.Machine.execReplySend port s
  | .ptpSync port offset intervalNs => Sys2Proof.Machine.execPtpSync port offset intervalNs s
  | .ptpAnnounce port dataset => Sys2Proof.Machine.execPtpAnnounce port dataset s
  | .delayReq port => Sys2Proof.Machine.execDelayReq port s
  | .ptpLost port => Sys2Proof.Machine.execPtpLost port s
  | .streamData n f => Sys2Proof.Machine.execStreamData n f s
  | .streamOpen n f => Sys2Proof.Machine.execStreamOpen n f s
  | .streamAck n f => Sys2Proof.Machine.execStreamAck n f s
  | .fabricRead n f => Sys2Proof.Machine.execFabricRead n f s
  | .fabricWrite n f => Sys2Proof.Machine.execFabricWrite n f s
  | .badger n f => Sys2Proof.Machine.execBadger n f s
  | .gatherData n f => Sys2Proof.Machine.execGatherData n f s
  | .collective n f => Sys2Proof.Machine.execCollective n f s
  | .barrierFlitArrive n f => Sys2Proof.Machine.execBarrierFlitArrive n f s
  | .barrierFlitRelease n f => Sys2Proof.Machine.execBarrierFlitRelease n f s
  | .timeSync n f => Sys2Proof.Machine.execTimeSync n f s
  | .timeSyncSend => Sys2Proof.Machine.execTimeSyncSend s
  | .timeSyncLost => Sys2Proof.Machine.execTimeSyncLost s
  | .rootChange reachable => Sys2Proof.Machine.execRootChange reachable s
  | .stop n f => Sys2Proof.Machine.execStop n f s
  | .resetSyncReady n f => Sys2Proof.Machine.execResetSyncReady n f s
  | .resetSyncGo n f => Sys2Proof.Machine.execResetSyncGo n f s
  | .fabricResetLoad => Sys2Proof.Machine.execFabricResetLoad s
  | .notice n f => Sys2Proof.Machine.execNotice n f s
  | .controlFlit n c => Sys2Proof.Machine.execControlFlit n c s
  | .badFlit n f => Sys2Proof.Machine.execBadFlit n f s
  | .retrain n => Sys2Proof.Machine.execRetrain n s
  | .linkDown n => Sys2Proof.Machine.execLinkDown n s
  | .linkDetectRetry n => Sys2Proof.Machine.execLinkDetectRetry n s
  | .linkTrainingComplete n r => Sys2Proof.Machine.execLinkTrainingComplete n r s
  | .linkTrainingFailed n r => Sys2Proof.Machine.execLinkTrainingFailed n r s
  | .linkJoin n => Sys2Proof.Machine.execLinkJoin n s
  | .faultReplay q index => Sys2Proof.Machine.execFaultReplay q index s
  | .coreFaultFence p cause => Sys2Proof.Machine.execCoreFaultFence p cause s
  | .regulatorFault row => Sys2Proof.Machine.execRegulatorFault row s
  | .healthTick env => Sys2Proof.Machine.execHealthTick env s
  | .currentLimit centiamps => Sys2Proof.Machine.execCurrentLimit centiamps s
  | .shutdown sensor reading => Sys2Proof.Machine.execShutdown sensor reading s
  | .inputOutOfRange millivolts => Sys2Proof.Machine.execInputOutOfRange millivolts s
  | .inputReversed millivolts => Sys2Proof.Machine.execInputReversed millivolts s
  | .sensorOpen sensor => Sys2Proof.Machine.execSensorOpen sensor s
  | .droopStretch row => Sys2Proof.Machine.execDroopStretch row s
  | .rowVoltageLoop row lowest currentDa => Sys2Proof.Machine.execRowVoltageLoop row lowest currentDa s
  | .rowGate row => Sys2Proof.Machine.execRowGate row s
  | .idleEntry => Sys2Proof.Machine.execIdleEntry s
  | .mgmtBusRecovery i3c => Sys2Proof.Machine.execMgmtBusRecovery i3c s
  | .mgmtPortStuck i3c => Sys2Proof.Machine.execMgmtPortStuck i3c s
  | .mgmtPortReleased i3c => Sys2Proof.Machine.execMgmtPortReleased i3c s
  | .patrolScrub k errors => Sys2Proof.Machine.execPatrolScrub k errors s
  | .bankRefresh k => Sys2Proof.Machine.execBankRefresh k s
  | .auxPowerLoss => Sys2Proof.Machine.execAuxPowerLoss s
  | .denClockEdge => Sys2Proof.Machine.execDenClockEdge s
  | .transitFlit n f => Sys2Proof.Machine.execTransitFlit n f s
  | .uncorrectableFlit n seq => Sys2Proof.Machine.execUncorrectableFlit n seq s
  | .pcsLockGained port => Sys2Proof.Machine.execPcsLockGained port s
  | .pcsLockLost port => Sys2Proof.Machine.execPcsLockLost port s
  | .pcieCompletion slot bytes poisoned => Sys2Proof.Machine.execPcieCompletion slot bytes poisoned s
  | .entdaa address => Sys2Proof.Machine.execEntdaa address s

end Sys2Proof.Machine
end

