-- ==== Sys2Proof/WellFormed.lean ====
section
/-! DEFINITION. Well-formed commands: operands as wide as the rules give them. -/

namespace Sys2Proof

/-- A ring entry of 64 bytes (R300, R310). -/
def RingEntry.ok (e : RingEntry) : Bool := decide (e.bytes.length = 64)

/-- Symbol errors at distinct positions, each with a difference (R396, R398). -/
def symbolsOk (es : List SymbolError) : Bool :=
  decide ((es.map (·.position)).Nodup) && es.all (fun e => decide (e.flips ≠ 0))

/-- Error lists of the four granules of a block (R396, R402). -/
def blockErrorsOk (errors : List (List SymbolError)) : Bool := decide (errors.length ≤ 4) && errors.all symbolsOk

/-- A data flit: LEN counts the payload's bytes, at most 240 of them (R418). -/
def flitOk (f : Flit) : Bool := decide (f.payload.length = f.len.toNat ∧ f.len.toNat ≤ 240)

/-- What a training found: every lane seen once (R414). -/
def trainOk (r : TrainResult) : Bool := decide (r.laneOrder.length ≤ 4)

/-- A fragment of a management request: 1 to 240 bytes (R540). -/
def fragmentOk (bytes : List Byte) : Bool := decide (1 ≤ bytes.length ∧ bytes.length ≤ 240)

/-- Readings of at most the sixteen sensors (R510). -/
def tickOk (env : TickEnv) : Bool := decide (env.readings.length ≤ 16 ∧ env.opens.length ≤ 16)

/-- A command whose operands are as wide as its rule gives them. -/
def Instr.wellFormed (i : Instr) : Bool :=
  match i with
  | .doorbell _ width _ => [1, 2, 4, 8].contains width
  | .ringFetchReturn _ _ entries => entries.all RingEntry.ok
  | .badAccess _ _ width => decide (0 < width)
  | .collectiveStart _ descriptor => decide (descriptor.length = 64)
  | .blockReturn _ errors => blockErrorsOk errors
  | .patrolScrub _ errors => blockErrorsOk errors
  | .gather request _ => decide (32 ≤ request.length)
  | .scatterAdd request _ => decide (32 ≤ request.length)
  | .mgmtBlockWrite _ _ _ _ bytes _ => fragmentOk bytes
  | .healthTick env => tickOk env
  | .linkTrainingComplete _ r => trainOk r
  | .linkTrainingFailed _ r => trainOk r
  | .bar4Write _ bytes marks => decide (bytes ≠ []) && marks.errors.all symbolsOk
  | .bar4Read _ length => decide (0 < length.bytes) && length.errors.all symbolsOk
  | .streamData _ f => flitOk f
  | .streamOpen _ f => flitOk f
  | .streamAck _ f => flitOk f
  | .fabricRead _ f => flitOk f
  | .fabricWrite _ f => flitOk f
  | .badger _ f => flitOk f
  | .gatherData _ f => flitOk f
  | .collective _ f => flitOk f
  | .barrierFlitArrive _ f => flitOk f
  | .barrierFlitRelease _ f => flitOk f
  | .timeSync _ f => flitOk f
  | .stop _ f => flitOk f
  | .resetSyncReady _ f => flitOk f
  | .resetSyncGo _ f => flitOk f
  | .notice _ f => flitOk f
  | .badFlit _ f => flitOk f
  | .transitFlit _ f => flitOk f
  | .nop _ | .launch _ | .launchComplete _ _ | .score _ | .growLevel _ _ | .growEndTree _ _ | .growDiscard _ _
  | .growClose _ _ | .growPublishRetry _ | .embStepBegin _ | .embStepApply _ _ | .embStepAbandon _ | .copy _ | .wait _
  | .waitPoll | .signal _ | .barrierQueue _ | .barrierFabric _ | .stamp _ | .taskIteration _ | .queueEnable _
  | .queueDisable _ | .queueKill _ | .queueReset _ | .queueAdmit | .slotTimeslice _ | .noProgressWindow _ _
  | .frontEndReset | .completionTimeout _ _ | .abaviDoorbell _ | .abaviNoProgress | .unknownOpcode | .identify
  | .features | .snapshot | .memAlloc | .memFree | .hostWindowAdd | .hostWindowRemove | .reservedRead | .queueCreate
  | .queueModify | .queueDelete | .fenceRegister | .fenceRelease | .imageLoad _ | .imagePatch _ | .imageUnload
  | .taskCreate | .taskEnd | .ensembleCreate | .ensemblePublish | .ensembleDelete | .ensembleRead | .tableCreate
  | .tableDelete | .pin | .unpin | .placement | .tablePages | .portSet | .portClear | .serviceWrite | .serviceEnable
  | .serviceDisable | .serviceRead | .serviceDelete | .fabricConfig | .collectiveGroup | .collectiveGroupClear
  | .powerBounds | .fence | .unfence | .fenceRow | .healthRead | .traceRegion | .mgmtBlockRead _ | .mgmtByteRead _
  | .detWrite _ | .traceRecord _ | .traceReplay _ | .traceInject | .startWarm _ _ | .startCold _ _ | .auxPowerOn _
  | .fundamentalReset _ | .fwGo _ _ | .fwTimeout | .stepLimit _ | .functionLevelReset | .d3hotEntry | .d0Return
  | .eventRingEnable _ | .eventRingDisable _ | .eventConsumerWrite _ | .eventWrite | .eventsLost | .flagSummaryClear _
  | .captureRearm _ | .channelCaptureRearm _ | .counterWrite _ _ | .arbitrationForce _ _ | .linkEnable _ | .linkDisable _
  | .bar4BaseWrite _ | .registerWrite _ _ _ | .pairTimeout _ | .configParity _ | .arrayStep _ _ | .weightLoad _ _ _
  | .weightSwap _ | .vectorOp _ _ | .promotion _ _ | .preload _ _ | .outputStage _ _ | .moments _ _ | .sumsq _ _
  | .momentsFinish _ _ | .squirrelInstruction _ _ | .arm _ _ | .swap _ | .groupResume _ _ | .barrierArrive _ _
  | .barrierRelease _ _ _ | .threadIssue _ _ | .threadReadReturn _ _ _ | .wgradTile _ _ | .biasSum _ _ | .scaleSum _ _
  | .normSum _ _ | .add _ | .weightUpdate _ _ | .streamBlockIssue _ | .transferComplete _ | .chainHandover _
  | .streamSpill _ | .spillRefill _ | .batchAdmit _ _ _ | .shardStepEnd _ _ | .batchFinish _ | .preemptRestore _
  | .deadlineMiss _ | .frameReceive _ _ _ _ | .replySend _ | .ptpSync _ _ _ | .ptpAnnounce _ _ | .delayReq _ | .ptpLost _
  | .timeSyncSend | .timeSyncLost | .rootChange _ | .fabricResetLoad | .controlFlit _ _ | .retrain _ | .linkDown _
  | .linkDetectRetry _ | .linkJoin _ | .faultReplay _ _ | .coreFaultFence _ _ | .regulatorFault _ | .currentLimit _
  | .shutdown _ _ | .inputOutOfRange _ | .inputReversed _ | .sensorOpen _ | .droopStretch _ | .rowVoltageLoop _ _ _
  | .rowGate _ | .idleEntry | .mgmtBusRecovery _ | .mgmtPortStuck _ | .mgmtPortReleased _ | .bankRefresh _
  | .auxPowerLoss | .denClockEdge | .uncorrectableFlit _ _ | .pcsLockGained _ | .pcsLockLost _ | .pcieCompletion _ _ _
  | .entdaa _ => true

end Sys2Proof
end

