-- ==== Sys2Proof/Safety.lean ====
section
/-! DEFINITION. What a safe state and a safe run are, and the conditions on a state that the statements share. -/

namespace Sys2Proof.Safety
open Sys2Proof Sys2Proof.Machine

/-! ## Safe states and runs -/

/-- The bounded configuration registers hold values in their ranges (R407, R507). -/
def boundsLegal (b : Bounds) : Bool :=
  decide (300 ≤ b.ceilingW.toNat ∧ b.ceilingW.toNat ≤ 1500 ∧ 10 ≤ b.floorStep.toNat ∧ b.floorStep.toNat ≤ 34 ∧
    10 ≤ b.ceilingStep.toNat ∧ b.ceilingStep.toNat ≤ 34 ∧ b.rowFloor.toNat ≤ 30 ∧ b.correctLimit.toNat ≤ 4)

/-- A step of this machine that stops: no command of the block does, but an access beyond the BAR4 window. -/
def stops : Host.Outcome State Fault Refusal → Bool
  | .next _ => false
  | .fault _ => true
  | .refused _ => true

/-- A command that never leaves the BAR4 window. -/
def inBar4 (c : Instr) (s : State) : Bool :=
  match c with
  | .bar4Read offset length => decide (offset.toNat + length.bytes ≤ 2 ^ s.dev.mode.bar4Log2)
  | .bar4Write offset bytes _ => decide (offset.toNat + bytes.length ≤ 2 ^ s.dev.mode.bar4Log2)
  | _ => true

/-! ## Conditions on a state that statements share -/

/-- The head of queue q is a command of bytes b in n entries that the front end takes: it may start, no entry was read
poisoned, its feature is agreed and its header is in order (R311, R312, R317, R485). -/
def ReadyHead (d : Dev) (q : Nat) (feature : Nat) (b : List Byte) (n : Nat) : Prop :=
  d.head q = some (b, n, 0) ∧ badFirst b = none ∧ d.mayStart q b = true ∧ d.agreed feature = true ∧
    headerFault (d.queue q) b = none

/-- Nothing else runs or waits on queue q: its only entries are the n of its head (R311, R313). -/
def Alone (d : Dev) (q n : Nat) : Prop := (d.qrun q).running = [] ∧ (d.queue q).avail = n

/-- From d to e queue q started and retired its only command, of n entries, and let its slot go (R309, R311, R313, R316). -/
def Completed (d e : Dev) (q n : Nat) : Prop :=
  (e.queue q).started = (d.queue q).started + BitVec.ofNat 32 n ∧
    (e.queue q).retired = (d.queue q).retired + BitVec.ofNat 64 n ∧ (e.qrun q).running = [] ∧ (e.queue q).state = .idle ∧
    (e.queue q).slot = none ∧ bitOf (look 0 e.fe.summary (q / 64)).toNat (q % 64) = true

/-- The last write to host memory is the completion record of the command at index i of queue q, where the ring lies in a
registered window and the module is in D0 (R314): 64 bytes with a status and a detail. -/
def RecordedAt (d e : Dev) (q : Nat) (i : U32) (status detail : Nat) : Prop :=
  (d.queue q).inDevice = false → d.mode.d3hot = false → d.inWindow ((d.queue q).entryAddr i.toNat) 64 = true →
    ∃ r : List Byte, e.out.hostWrites.getLast? = some ⟨BitVec.ofNat 64 ((d.queue q).entryAddr i.toNat), r, false⟩ ∧
      r.length = 64 ∧ (byteAt r 0).toNat = status ∧ field r 0x38 4 = detail

/-- The completion record of the command at the old STARTED of queue q is the last write to host memory (R314). -/
def Recorded (d e : Dev) (q status detail : Nat) : Prop := RecordedAt d e q (d.queue q).started status detail

/-- The Owl serves a request of these bytes from the PCIe mailbox (R476), and no other request waits. -/
def Serving (d : Dev) (b : List Byte) : Prop :=
  d.owl.current = some { path := .pcie, bytes := b, injected := false } ∧ d.owl.waiting = []

/-- A request that passes the rules every request passes: features agreed, no replay, its layout in order (R478, R480). -/
def InOrder (d : Dev) (feature : Nat) (fields : List (Nat × Nat)) (b : List Byte) : Prop :=
  d.ident.negotiated = true ∧ d.agreed feature = true ∧ d.replaying = false ∧ layoutFault b fields = none

/-- From d to e the counter at o counts n happenings by its class (R9), but for a write of zero of the same Den cycle, which wins
over them (R10). -/
def Counts (d e : Dev) (o n : Nat) : Prop :=
  e.counter o = if o ∈ d.cycle.zeroed then d.counter o else countTo (counterClass o) (d.counter o) n

/-- The device e but for its counters, what the Den cycle remembers, the events it raised and the causes of interrupts, which are
those of d. -/
def beside (d e : Dev) : Dev :=
  { e with counters := d.counters, cycle := d.cycle, events := d.events, mode := { e.mode with msixCause := d.mode.msixCause } }

/-- From d to e only queue q moved: every other queue and its commands, every fence, and every unit but the front end, the stacks,
the mesh, its streams, the journal and the outputs are as before, beside counters and events. -/
def OnlyQueue (d e : Dev) (q : Nat) : Prop :=
  (∀ i, i ≠ q → e.queue i = d.queue i ∧ e.qrun i = d.qrun i) ∧ e.fe.fences = d.fe.fences ∧
    { beside d e with fe := d.fe, mem := d.mem, mesh := d.mesh, streams := d.streams, journal := d.journal, out := d.out } = d

/-- Requests that only the PCIe mailbox carries and that are served after features are agreed and outside a replay, each with its
opcode, its feature bit and its fields (R478, R480). -/
def plainRequests : List (Instr × Nat × Nat × List (Nat × Nat)) :=
  [(.memAlloc, 0x10, 0, [u 8, u 1]), (.memFree, 0x11, 0, [u 8, u 8]), (.hostWindowAdd, 0x12, 0, [u 8, u 8]),
   (.hostWindowRemove, 0x13, 0, [u 4]), (.queueCreate, 0x20, 0, [u 4, blk 64]), (.queueModify, 0x21, 0, [u 4, u 1, u 2, u 1]),
   (.queueDelete, 0x22, 0, [u 4]), (.fenceRegister, 0x24, 0, [u 4, u 4, u 8]), (.fenceRelease, 0x25, 0, [u 4]),
   (.imageUnload, 0x32, 0, [u 4]), (.taskEnd, 0x34, 10, [u 4]), (.ensembleCreate, 0x40, 3, [u 4]),
   (.ensembleDelete, 0x42, 3, [u 4]), (.tableCreate, 0x50, 5, [u 4, blk 64]), (.tableDelete, 0x51, 5, [u 4]),
   (.pin, 0x52, 5, [u 4, u 8, u 8, u 1]), (.unpin, 0x53, 5, [u 4, u 8, u 8]), (.placement, 0x54, 6, [u 4, u 4]),
   (.tablePages, 0x55, 5, [u 4, u 8, u 4]), (.serviceWrite, 0x61, 8, [u 4, blk 64]), (.serviceEnable, 0x62, 8, [u 4]),
   (.serviceDelete, 0x65, 8, [u 4]), (.fabricConfig, 0x70, 16, [u 1, u 1, u 1, u 1, u 1, u 1, u 1, u 2])]

/-- From d to e a request took effect on nothing but the Owl's own mailboxes, beside counters and events. -/
def OnlyOwl (d e : Dev) : Prop := { beside d e with owl := d.owl } = d

/-- No GROW waits for its publication (R202). -/
def NoRetry (d : Dev) : Prop := ∀ q, ∀ c ∈ d.live q, ∀ n, c.work ≠ .growRetry n

/-- The host address of the ring slot that EVENT_PRODUCER names (R490). -/
def ringSlot (e : Events) : Nat := e.base.toNat + 64 * (e.producer.toNat % 2 ^ e.log2.toNat)

/-- The response buffer of the PCIe mailbox. -/
def response (d : Dev) : List Byte := lookAll 0 d.owl.pcie.response 0 4096

/-- The mailbox is DONE with a response to the request b: its SEQ copied, ERROR and DETAIL as given (R475, R476, R482). -/
def Answered (d : Dev) (b : List Byte) (error detail : Nat) : Prop :=
  d.owl.pcie.state = .done ∧ d.owl.pcie.doneSeq = BitVec.ofNat 32 (field b 4 4) ∧ field (response d) 8 2 = error ∧
    field (response d) 0xC 4 = detail

/-- A data flit of a type for this module, in order, on the ACTIVE link n (R418, R421). -/
def ForUs (d : Dev) (n type : Nat) (f : Flit) : Prop :=
  (d.link n).reg.state = .active ∧ f.type.toNat = type ∧ f.dest = d.fabric.cfg.moduleId ∧ f.seq = (d.link n).run.rxSeq

/-- From d to e link n took one flit: the SEQ it expects is the next one, and it counts (R421, R439). -/
def Took (d e : Dev) (n : Nat) : Prop := (e.link n).run.rxSeq = (d.link n).run.rxSeq + 1 ∧ Counts d e (cLink n 1) 1

/-- What this module sends to another goes out on link m at once: the face of the next hop has that one live link, ACTIVE, with
credits of every virtual channel and a place among the kept flits (R420, R421, R423, R424). -/
def Direct (d : Dev) (dest m : Nat) : Prop :=
  dest < 2 ^ 14 ∧ d.reachable dest = true ∧
    (∃ dim plus, nextHop d.fabric.cfg [] d.fabric.cfg.moduleId.toNat dest = some (dim, plus) ∧ d.liveLinks (faceOf dim plus) = [m]) ∧
    (d.link m).reg.state = .active ∧ (∀ k, k < 4 → 0 < (d.link m).run.credits.getD k 0) ∧ (d.link m).run.unacked.length < 512

/-- From d to e this module sent one flit on link m, of a type and with a payload, to a module; the link keeps it (R418, R421). -/
def Sent (d e : Dev) (m dest type : Nat) (p : List Byte) : Prop :=
  ∃ g : Flit, e.out.flits = d.out.flits ++ [(m, g)] ∧ (e.link m).run.unacked = (d.link m).run.unacked ++ [g] ∧
    g.dest.toNat = dest ∧ g.type.toNat = type ∧ g.payload = p ∧ g.origin = d.fabric.cfg.moduleId

/-- The payload of a response, of n bytes. -/
def payload (d : Dev) (n : Nat) : List Byte := slice (response d) 0x20 n

end Sys2Proof.Safety
end

