-- ==== Sys2Proof/Certificates/Slice0/Obligations.lean ====
section
/-! DEFINITION. The statements about this machine, for the provers. -/

open Sys2Proof Sys2Proof.Machine Sys2Proof.Safety

/-- O1. For every command c and state s, a step of s with c put at the front of its queue is exec of c on s with the
queue's rest. On an empty queue a step answers the same state (the model's choice, log entry 14). -/
def Obligations.StepRunsTheFrontCommand : Prop :=
  (∀ (c : Instr) (s : State), step { s with pending := c :: s.pending } = exec c s) ∧
    ∀ s : State, s.pending = [] → step s = .next s

/-- O2. exec answers a next state for every command and every state, with one exception: a BAR4 read or write that
reaches beyond the BAR4 window names no address of the block and stops with the fault beyondBar4. No command is refused.
-/
def Obligations.EveryCommandAnswers : Prop :=
  (∀ (c : Instr) (s : State), inBar4 c s = true → ∃ t, exec c s = .next t) ∧
    ∀ (c : Instr) (s : State), inBar4 c s = false → exec c s = .fault .beyondBar4

/-- O3. A command that answers a next state leaves the waiting commands as they are. The bounded configuration registers
change only by REGISTER_WRITE, POWER_BOUNDS, a start or a loss of auxiliary power, and what RS registers show changes
only at a Den clock edge or with the loss of auxiliary power. -/
def Obligations.CommandsLeaveTheRestOfTheState : Prop :=
  ∀ (c : Instr) (s t : State), exec c s = .next t →
    t.pending = s.pending ∧
    ((∀ o w v, c ≠ .registerWrite o w v) → c ≠ .powerBounds → (∀ v e, c ≠ .startWarm v e) → (∀ v e, c ≠ .startCold v e) →
      (∀ e, c ≠ .auxPowerOn e) → (∀ e, c ≠ .fundamentalReset e) → c ≠ .auxPowerLoss → t.bounds = s.bounds) ∧
    (c ≠ .denClockEdge → c ≠ .auxPowerLoss → t.atEdge = s.atEdge ∧ t.edgeBounds = s.edgeBounds)

/-- O4. In every state whose bounded configuration holds values in the ranges of R407 and R507 (CEILING_W 300 to 1,500
W, steps 10 to 34, ROW_FLOOR at most 30, CORRECT_LIMIT at most 4), a step that answers a next state leaves them in their
ranges, whatever command is at the front of the queue. -/
def Obligations.StepKeepsTheBoundsLegal : Prop :=
  ∀ s t : State, boundsLegal s.bounds = true → step s = .next t → boundsLegal t.bounds = true

/-- O5. After reset the queue of commands is empty, the bounded configuration is in range with CEILING_W 1,500,
FLOOR_STEP 10, CEILING_STEP 34, ROW_FLOOR 0, SCRUB_HOURS 24, CORRECT_LIMIT 4, WRITEBACK 1 and INNER_THRESHOLD 64, memory
lists nothing, the module is in DEN_ONLY, FABRIC_TIME is 0, TIME_STATUS has ERROR 0xFFFF, DET is 0, EVENT_CTRL reads
LOG2 6 and CLASS_EN 0x1FF, and every core entry reads LOGICAL 0x7FF and STATE fenced. -/
def Obligations.ResetStateIsInOrder : Prop :=
  State.reset.pending = [] ∧ boundsLegal State.reset.bounds = true ∧
    readReg State.reset.bounds State.reset.dev 0x4000 = 1500 + 2 ^ 16 * 10 + 2 ^ 24 * 34 ∧
    readReg State.reset.bounds State.reset.dev 0x52000 = 24 + 2 ^ 8 * 4 + 2 ^ 11 + 2 ^ 16 * 64 ∧
    State.reset.dev.mem.cells = [] ∧ State.reset.dev.mem.poison = [] ∧ State.reset.dev.mem.wf = true ∧
    State.reset.dev.power.state = .denOnly ∧ readReg State.reset.bounds State.reset.dev 0x3020 = 0 ∧
    readReg State.reset.bounds State.reset.dev 0x3028 = 2 ^ 16 * 0xFFFF ∧ State.reset.dev.mode.det = false ∧
    readReg State.reset.bounds State.reset.dev 0x5008 = 2 * 6 + 2 ^ 16 * 0x1FF ∧
    readReg State.reset.bounds State.reset.dev 0x100 = 0 ∧
    ∀ p : PosId, (State.reset.dev.core p.val).entry.logical = 0x7FF ∧ (State.reset.dev.core p.val).entry.state = .fenced

/-- O6. A write of EVENT_CTRL that sets ENABLE on a ring that is not enabled takes effect, with EVENT_PRODUCER and
EVENT_CONSUMER 0, only when the twelve low bits of EVENT_BASE are zero and the whole ring, of the LOG2 that the same
write leaves, lies in one registered host window; otherwise ENABLE stays clear and BAD_BASE is set. While ENABLE is set
a write changes neither LOG2 nor EVENT_BASE. A write that clears ENABLE stops the ring and leaves its records, held
events and indices. Only the event block changes, beside what the Den cycle remembers of the bit set. Completes:
eventRingEnable, eventRingDisable; registerWrite of the event block. -/
def Obligations.EventRingEnableTakesEffect : Prop :=
  (∀ (s : State) (v : U64), bitOf v.toNat 0 = true → s.dev.events.enable = false →
    ∃ t, exec (.eventRingEnable v) s = .next t ∧ t.dev.events.base = s.dev.events.base ∧
      t.dev.events.held = s.dev.events.held ∧
      t.dev.events.log2 = (if 6 ≤ bits v.toNat 5 1 ∧ bits v.toNat 5 1 ≤ 16 then BitVec.ofNat 5 (bits v.toNat 5 1) else s.dev.events.log2) ∧
      t.dev.events.classEn = BitVec.ofNat 9 (bits v.toNat 24 16) ∧
      (if s.dev.events.base.toNat % 4096 = 0 ∧ s.dev.inWindow s.dev.events.base.toNat (64 * 2 ^ t.dev.events.log2.toNat) = true then
        t.dev.events.enable = true ∧ t.dev.events.producer = 0 ∧ t.dev.events.consumer = 0 ∧
          t.dev.events.badBase = s.dev.events.badBase
      else t.dev.events.enable = false ∧ t.dev.events.badBase = true ∧ t.dev.events.producer = s.dev.events.producer ∧
          t.dev.events.consumer = s.dev.events.consumer) ∧
      t.bounds = s.bounds ∧ { t.dev with events := s.dev.events, cycle := s.dev.cycle } = s.dev) ∧
    (∀ (s : State) (v : U64), bitOf v.toNat 0 = true → s.dev.events.enable = true →
      ∃ t, exec (.eventRingEnable v) s = .next t ∧
        t.dev = { s.dev with events := { s.dev.events with classEn := BitVec.ofNat 9 (bits v.toNat 24 16) } }) ∧
    (∀ (s : State) (o : BitVec 24) (wide : Bool) (v : U64), s.dev.denRuns = true → s.dev.events.enable = true →
      o = 0x5000 ∨ (o = 0x5004 ∧ wide = false) → exec (.registerWrite o wide v) s = .next s) ∧
    (∀ (s : State) (wide : Bool) (v : U64), s.dev.denRuns = true → s.dev.events.enable = true →
      ∃ t, exec (.registerWrite 0x5008 wide v) s = .next t ∧ t.dev.events.log2 = s.dev.events.log2) ∧
    ∀ (s : State) (v : U64), bitOf v.toNat 0 = false →
      ∃ t, exec (.eventRingDisable v) s = .next t ∧ t.dev.events.enable = false ∧ t.dev.events.held = s.dev.events.held ∧
        t.dev.events.producer = s.dev.events.producer ∧ t.dev.events.consumer = s.dev.events.consumer ∧
        t.dev.events.base = s.dev.events.base ∧ { t.dev with events := s.dev.events } = s.dev

/-- O7. A write to EVENT_CONSUMER takes effect when (EVENT_PRODUCER − new) mod 2^32 is at most (EVENT_PRODUCER − old)
mod 2^32. Any other write leaves the register as it was, sets BAD_CONSUMER and counts one BAD_ACCESS, by the rules of a
counter. No ring index but the consumer changes either way, and nothing outside the event block but the count and the
event that it may raise. Completes: eventConsumerWrite. -/
def Obligations.EventConsumerMovesOnlyForward : Prop :=
  ∀ (s : State) (v : U64),
    ∃ t, exec (.eventConsumerWrite v) s = .next t ∧ t.dev.events.producer = s.dev.events.producer ∧
      if (s.dev.events.producer - v.setWidth 32).toNat ≤ (s.dev.events.producer - s.dev.events.consumer).toNat then
        readReg t.bounds t.dev 0x5018 = v.toNat % 2 ^ 32 ∧ t.dev = { s.dev with events := { s.dev.events with consumer := v.setWidth 32 } }
      else readReg t.bounds t.dev 0x5018 = readReg s.bounds s.dev 0x5018 ∧ t.dev.events.badConsumer = true ∧
        Counts s.dev t.dev (cOwl 11) 1 ∧ beside s.dev t.dev = s.dev

/-- O8. With ENABLE set, room in the ring, the module in D0 and its slot in a registered window, EVENT_WRITE sends the
64 bytes of the oldest held event to index EVENT_PRODUCER mod 2^LOG2 of the ring, drops it from the holding queue,
advances EVENT_PRODUCER by one, counts it in EVENTS_WRITTEN and makes the cause of MSI-X vector 1 arise; with ENABLE
clear, the ring full or the module in D3hot it writes nothing. EVENTS_LOST with a loss noted and a place free takes one
event of code 0x9002 behind those held, with the next SEQ, and the note is cleared. Completes: eventWrite, eventsLost.
-/
def Obligations.EventRecordsReachTheRingInOrder : Prop :=
  (∀ (s : State) (x : Event) (rest : List Event), s.dev.events.held = x :: rest → s.dev.events.enable = true →
    (s.dev.events.producer - s.dev.events.consumer).toNat < 2 ^ s.dev.events.log2.toNat → s.dev.mode.d3hot = false →
    s.dev.inWindow (ringSlot s.dev.events) 64 = true →
    ∃ t, exec .eventWrite s = .next t ∧
      t.dev.out.hostWrites = s.dev.out.hostWrites ++ [⟨BitVec.ofNat 64 (ringSlot s.dev.events), x.bytes, false⟩] ∧
      x.bytes.length = 64 ∧ t.dev.events.held = rest ∧ t.dev.events.producer = s.dev.events.producer + 1 ∧
      t.dev.events.consumer = s.dev.events.consumer ∧ Counts s.dev t.dev (cOwl 15) 1 ∧
      bitOf t.dev.mode.msixCause.toNat 1 = true ∧ { beside s.dev t.dev with out := s.dev.out } = s.dev) ∧
    (∀ s : State, s.dev.events.enable = false ∨ s.dev.mode.d3hot = true ∨
      2 ^ s.dev.events.log2.toNat ≤ (s.dev.events.producer - s.dev.events.consumer).toNat → exec .eventWrite s = .next s) ∧
    ∀ s : State, s.dev.events.lost ≠ 0 → s.dev.events.held.length < 1024 →
      ∃ t, exec .eventsLost s = .next t ∧ t.dev.events.lost = 0 ∧ t.dev.events.seq = s.dev.events.seq + 1 ∧
        (∃ x : Event, t.dev.events.held = s.dev.events.held ++ [x] ∧ x.code = 0x9002 ∧ x.seq = s.dev.events.seq ∧
          x.stamp = s.dev.time.ft ∧ field x.detail 0 4 = s.dev.events.lost.toNat) ∧
        { t.dev with events := s.dev.events } = s.dev

/-- O9. FLAG_SUMMARY_CLEAR clears exactly the written bits in the sticky register of every core, but for a bit that the
core has set in the same Den cycle, and leaves each core's capture, memories and accumulators. CAPTURE_REARM of a
capture not taken in the same Den cycle returns one core's three capture words to zero and leaves its sticky register
and every other core; a capture of the same cycle stands. CHANNEL_CAPTURE_REARM does the same to one channel's capture,
and leaves every other channel and all of memory. Completes: flagSummaryClear, captureRearm, channelCaptureRearm. -/
def Obligations.StickyFlagsAndCapturesClear : Prop :=
  (∀ (s : State) (v : U64), ∃ t, exec (.flagSummaryClear v) s = .next t ∧ (∀ p : Nat,
      (t.dev.core p).sticky =
        (s.dev.core p).sticky &&& ~~~(BitVec.ofNat 6 (s.dev.clears (0x30000 + 32 * p) (v.toNat % 64))) ∧
      ((∀ b, (0x30000 + 32 * p, b) ∉ s.dev.cycle.sets) →
        (t.dev.core p).sticky = (s.dev.core p).sticky &&& ~~~(v.setWidth 6)) ∧
      { t.dev.core p with sticky := (s.dev.core p).sticky } = s.dev.core p) ∧
      { t.dev with mesh := s.dev.mesh } = s.dev) ∧
    (∀ (s : State) (p : PosId), ((0x30008 + 32 * p.val, 3) ∉ s.dev.cycle.sets →
      ∃ t, exec (.captureRearm p) s = .next t ∧ t.dev.core p.val = { s.dev.core p.val with capture := Capture.reset } ∧
        (∀ i, i ≠ p.val → t.dev.core i = s.dev.core i) ∧ { t.dev with mesh := s.dev.mesh } = s.dev) ∧
      ((0x30008 + 32 * p.val, 3) ∈ s.dev.cycle.sets → exec (.captureRearm p) s = .next s)) ∧
    ∀ (s : State) (k : ChanId), ((0x50010 + 32 * k.toNat, 32) ∉ s.dev.cycle.sets →
      ∃ t, exec (.channelCaptureRearm k) s = .next t ∧ t.dev.chan k.toNat = { s.dev.chan k.toNat with capture := none } ∧
        (∀ i, i ≠ k.toNat → t.dev.chan i = s.dev.chan i) ∧ t.dev.mem.cells = s.dev.mem.cells ∧
        t.dev.mem.poison = s.dev.mem.poison ∧ { t.dev with mem := s.dev.mem } = s.dev) ∧
      ((0x50010 + 32 * k.toNat, 32) ∈ s.dev.cycle.sets → exec (.channelCaptureRearm k) s = .next s)

/-- O10. A write to a W64 counter is ignored. A write of zero to an S32 counter clears it, and what the Den cycle in
progress still counts does not count; any other value is ignored. A write to a P48 counter stores bits 47 to 0, clears
bit 63 where the written bit 63 is 1 and the counter has not wrapped in the Den cycle in progress, keeps it otherwise,
and leaves bits 62 to 48 zero. Every other counter slot, and everything else of the device, is unchanged. That a write
of zero means all 64 bits of the slot zero is the model's choice (log entry 94). Completes: counterWrite. -/
def Obligations.CounterWritesFollowTheirClass : Prop :=
  ∀ (s : State) (o : BitVec 24) (v : U64), ∃ t, exec (.counterWrite o v) s = .next t ∧
    (counterClass o.toNat = 1 → t.dev = s.dev) ∧
    (counterClass o.toNat = 2 → (v = 0 → t.dev.counter o.toNat = 0 ∧ t.dev.cycle.zeroed = o.toNat :: s.dev.cycle.zeroed) ∧
      (v ≠ 0 → t.dev = s.dev)) ∧
    (counterClass o.toNat = 3 → t.dev.counter o.toNat = v.toNat % 2 ^ 48 +
      (if bitOf (s.dev.counter o.toNat) 63 = true ∧ (bitOf v.toNat 63 = false ∨ o.toNat ∈ s.dev.cycle.wrapped) then 2 ^ 63 else 0)) ∧
    (∀ i, i ≠ o.toNat → t.dev.counter i = s.dev.counter i) ∧
    { t.dev with counters := s.dev.counters, cycle := { t.dev.cycle with zeroed := s.dev.cycle.zeroed } } = s.dev

/-- O11. BAR0 accepts accesses of 4 or 8 bytes at naturally aligned offsets. A write of any other width or alignment is
dropped, a read of one returns all ones, and either adds one to BAD_ACCESS, by the rules of a counter; nothing else
changes but the event that a count may raise. A word of the reserved ranges of BAR0 between the blocks reads zero, and a
write to one is ignored. Completes: badAccess, registerWrite. -/
def Obligations.WrongAccessesAreCounted : Prop :=
  (∀ (s : State) (w : Bool) (o : BitVec 24) (n : Nat), ((n = 4 ∨ n = 8) ∧ o.toNat % n = 0 → exec (.badAccess w o n) s = .next s) ∧
    (¬((n = 4 ∨ n = 8) ∧ o.toNat % n = 0) → ∃ t, exec (.badAccess w o n) s = .next t ∧
      Counts s.dev t.dev (cOwl 11) 1 ∧
      t.dev.out.completions = s.dev.out.completions ++ (if w then [] else [(List.replicate n 0xFF, false)]) ∧
      t.bounds = s.bounds ∧ { beside s.dev t.dev with out := s.dev.out } = s.dev)) ∧
    (∀ (s : State) (o : BitVec 24) (wide : Bool) (v : U64), s.dev.denRuns = true → o.toNat % (if wide then 8 else 4) ≠ 0 →
      ∃ t, exec (.registerWrite o wide v) s = .next t ∧
        Counts s.dev t.dev (cOwl 11) 1 ∧ t.bounds = s.bounds ∧ beside s.dev t.dev = s.dev) ∧
    ∀ (s : State) (o : BitVec 24) (v : U64), s.dev.denRuns = true → o.toNat % 8 = 0 →
      (0x6000 ≤ o.toNat ∧ o.toNat < 0x10000) ∨ (0x80000 ≤ o.toNat ∧ o.toNat < 0x100000) ∨
        (0x110000 ≤ o.toNat ∧ o.toNat < 0x400000) ∨ 0x580000 ≤ o.toNat →
      readReg s.bounds s.dev o.toNat = 0 ∧ exec (.registerWrite o true v) s = .next s

/-- O12. For each WP register with no half held, a wide write of a value at its offset A holds the half and leaves the
value in force; so does a write of a complement at A + 0x800. When the partner of either half arrives and the two are
complements the pair takes effect as the register's own rule says and no half stays held; when they are not, the pair is
dropped, MISMATCH is set, LAST_OFFSET names the register, PAIR_MISMATCH counts one and the register keeps its value. A
single half, value or complement, held for 1,024 Den clock edges is dropped in the same way by PAIR_TIMEOUT, and one
held for less stays. Completes: registerWrite of a paired register, pairTimeout. -/
def Obligations.PairedWritesTakeTheirComplement : Prop :=
  (∀ (s : State) (a : Nat) (v : U64), wpOffsets.contains a = true → s.dev.denRuns = true → s.dev.pair a = PairHalves.reset →
    (∃ t, exec (.registerWrite (BitVec.ofNat 24 a) true v) s = .next t ∧ t.dev.wpValue a = s.dev.wpValue a ∧
      t.dev.pair a = { value := some (v, s.dev.time.edges), complement := none } ∧ t.bounds = s.bounds) ∧
    ∃ t, exec (.registerWrite (BitVec.ofNat 24 (a + 0x800)) true v) s = .next t ∧ t.dev.wpValue a = s.dev.wpValue a ∧
      t.dev.pair a = { value := none, complement := some (v, s.dev.time.edges) } ∧ t.bounds = s.bounds) ∧
    (∀ (s : State) (a o e : Nat) (v c : U64), wpOffsets.contains a = true → s.dev.denRuns = true →
      (o = a + 0x800 ∧ s.dev.pair a = { value := some (v, e), complement := none }) ∨
        (o = a ∧ s.dev.pair a = { value := none, complement := some (v, e) }) →
      (c = ~~~v → exec (.registerWrite (BitVec.ofNat 24 o) true c) s =
        .next (pairTakes a (if o = a then c else v).toNat { s with dev := setPair a PairHalves.reset s.dev })) ∧
      (c ≠ ~~~v → ∃ t, exec (.registerWrite (BitVec.ofNat 24 o) true c) s = .next t ∧
        t.dev.wpValue a = s.dev.wpValue a ∧ t.dev.pair a = PairHalves.reset ∧ t.dev.mode.mismatch = true ∧
        t.dev.mode.lastOffset = BitVec.ofNat 12 a ∧ Counts s.dev t.dev (cOwl 12) 1)) ∧
    ∀ (s : State) (o : BitVec 12) (v : U64) (e : Nat),
      s.dev.pair (0x3000 + o.toNat) = { value := some (v, e), complement := none } ∨
        s.dev.pair (0x3000 + o.toNat) = { value := none, complement := some (v, e) } →
      (e + 1024 ≤ s.dev.time.edges →
        ∃ t, exec (.pairTimeout o) s = .next t ∧ t.dev.pair (0x3000 + o.toNat) = PairHalves.reset ∧ t.dev.mode.mismatch = true ∧
          t.dev.mode.lastOffset = BitVec.ofNat 12 (0x3000 + o.toNat) ∧ Counts s.dev t.dev (cOwl 12) 1 ∧
          { beside s.dev t.dev with mode := s.dev.mode } = s.dev) ∧
      (s.dev.time.edges < e + 1024 → exec (.pairTimeout o) s = .next s)

/-- O13. CONFIG_PARITY at a register that parity covers counts one PARITY_RELOADS, and with class 6 enabled and a place
free it takes an event 0x6005 with the Owl as source. Every register keeps the value last in effect; halves held in the
block at 0x003000 are dropped without PAIR_MISMATCH when the register lies there, and are kept when it lies elsewhere.
Nothing else of the device changes but the count and the event. Completes: configParity. -/
def Obligations.ParityMismatchReloads : Prop :=
  ∀ (s : State) (o : BitVec 24), parityCovers o.toNat = true → ∃ t, exec (.configParity o) s = .next t ∧
    Counts s.dev t.dev (cOwl 13) 1 ∧
    (bitOf s.dev.events.classEn.toNat 5 = true → s.dev.events.held.length + 2 < 1024 → s.dev.events.lost = 0 →
      ∃ x ∈ t.dev.events.held, x.code = 0x6005 ∧ x.source = 0x8001 ∧ x.detail = leBytes 4 o.toNat ∧ x.stamp = s.dev.time.ft) ∧
    t.bounds = s.bounds ∧ t.dev.events.base = s.dev.events.base ∧ t.dev.events.enable = s.dev.events.enable ∧
    t.dev.events.log2 = s.dev.events.log2 ∧ t.dev.events.classEn = s.dev.events.classEn ∧
    t.dev.events.consumer = s.dev.events.consumer ∧
    t.dev.mode.pairs = (if 0x3000 ≤ o.toNat ∧ o.toNat < 0x4000 then [] else s.dev.mode.pairs) ∧
    beside s.dev { t.dev with mode := { t.dev.mode with pairs := s.dev.mode.pairs } } = s.dev

/-- O14. A paired write of DET takes effect when the device is quiescent and, to set it, when feature 1 is agreed;
otherwise DET keeps its value and REFUSED is set. TRACE_RECORD with a region, feature 12 agreed and no REPLAY starts a
record: RECORD is in force, no record is counted and the next one goes to offset 256. TRACE_REPLAY with a region,
feature 12 agreed, no RECORD and the device quiescent starts the replay at offset 256 with nothing injected. Both set
together are refused. TRACE_INJECT gives the Owl the recorded request that comes next, once its offset from the start
has come and the Owl is free, and goes on behind its record; past the last record it ends the replay. Completes:
detWrite, traceRecord, traceReplay, traceInject. -/
def Obligations.ModeAndTraceWrites : Prop :=
  (∀ (s : State) (v : U64), s.dev.quiescent = true → (bitOf v.toNat 0 = true → s.dev.agreed 1 = true) →
    ∃ t, exec (.detWrite v) s = .next t ∧ t.dev = { s.dev with mode := { s.dev.mode with det := bitOf v.toNat 0 } }) ∧
    (∀ (s : State) (v : U64), s.dev.quiescent = false ∨ (bitOf v.toNat 0 = true ∧ s.dev.agreed 1 = false) →
      ∃ t, exec (.detWrite v) s = .next t ∧ t.dev.mode = { s.dev.mode with refused := true } ∧
        { t.dev with mode := s.dev.mode, cycle := s.dev.cycle } = s.dev) ∧
    (∀ (s : State) (v : U64) (base n : Nat), bitOf v.toNat 0 = true → bitOf v.toNat 1 = false →
      s.dev.journal.region = some (base, n) → s.dev.agreed 12 = true → bitOf s.dev.mode.traceCtl.toNat 0 = false →
      ∃ t, exec (.traceRecord v) s = .next t ∧ bitOf t.dev.mode.traceCtl.toNat 0 = true ∧ t.dev.journal.traceRecords = 0 ∧
        t.dev.journal.writeOff = 256 ∧ t.dev.journal.traceFull = false ∧ t.dev.bytesAt base 4 = leBytes 4 0x54524345 ∧
        t.dev.fe = s.dev.fe ∧ t.dev.mesh = s.dev.mesh) ∧
    (∀ (s : State) (v : U64) (base n : Nat), bitOf v.toNat 1 = true → bitOf v.toNat 0 = false → s.dev.quiescent = true →
      s.dev.journal.region = some (base, n) → s.dev.agreed 12 = true → bitOf s.dev.mode.traceCtl.toNat 1 = false →
      ∃ t, exec (.traceReplay v) s = .next t ∧ t.dev.replaying = true ∧ t.dev.journal.injectOff = 256 ∧
        t.dev.journal.injected = 0 ∧ t.dev.journal.traceRecords = field (s.dev.bytesAt base 256) 0x18 8 ∧
        { t.dev with mode := s.dev.mode, journal := s.dev.journal } = s.dev) ∧
    (∀ (s : State) (v : U64), bitOf v.toNat 0 = true → bitOf v.toNat 1 = true →
      ∃ t, exec (.traceRecord v) s = .next t ∧ exec (.traceReplay v) s = .next t ∧
        t.dev.mode = { s.dev.mode with refused := true } ∧ { t.dev with mode := s.dev.mode, cycle := s.dev.cycle } = s.dev) ∧
    (∀ (s : State) (base n : Nat) (r : JRecord), s.dev.replaying = true → s.dev.journal.region = some (base, n) →
      s.dev.journal.injected < s.dev.journal.traceRecords → s.dev.journal.injectOff < n →
      r = traceRead s.dev (base + s.dev.journal.injectOff) → r.type = 0x16 → s.dev.owl.current = none →
      (r.stamp - BitVec.ofNat 64 (field (s.dev.bytesAt base 256) 8 8)).toNat ≤ (s.dev.time.ft - s.dev.journal.startedAt).toNat →
      ∃ t, exec .traceInject s = .next t ∧
        t.dev.owl.current = some { path := .pcie, bytes := slice r.payload 0 4096, injected := true } ∧
        t.dev.journal.injected = s.dev.journal.injected + 1 ∧ t.dev.journal.injectOff = s.dev.journal.injectOff + r.size ∧
        t.dev.fe = s.dev.fe ∧ t.dev.mem = s.dev.mem) ∧
    ∀ (s : State) (base n : Nat), s.dev.replaying = true → s.dev.journal.region = some (base, n) →
      s.dev.journal.traceRecords ≤ s.dev.journal.injected →
      ∃ t, exec .traceInject s = .next t ∧ t.dev.replaying = false ∧ { t.dev with mode := s.dev.mode } = s.dev

/-- O15. A write of BAR4_BASE takes effect when the address is a multiple of the BAR4 size and the window stays below
the reserved range, and changes nothing otherwise. Where the reads that an access makes find no damage, a BAR4 write of
bytes without the poisoned-TLP bit stores exactly them at the window's base plus the offset, leaves every other byte,
cleans every granule it covers whole and leaves the marks of the others; one with the bit, with the window below the
reserved range, stores the bytes, leaves every other byte of the software range, poisons every granule it reaches and is
reported through AER; a BAR4 read answers the bytes, or all ones with the poisoned-TLP bit where it reaches a poisoned
granule, and changes no byte of memory. Whatever damage they find, with the window below the reserved range, a write
leaves its bytes in memory and a read answers as many bytes as it asks for. Completes: bar4BaseWrite, bar4Read,
bar4Write. -/
def Obligations.Bar4AccessesReachDeviceMemory : Prop :=
  (∀ (s : State) (v : U64), let a := bits v.toNat 39 28 * 2 ^ 28
    (a % 2 ^ s.dev.mode.bar4Log2 = 0 → a + 2 ^ s.dev.mode.bar4Log2 ≤ softEnd →
      ∃ t, exec (.bar4BaseWrite v) s = .next t ∧ t.dev.bar4Addr = a ∧
        { t.dev with mode := { t.dev.mode with bar4Base := s.dev.mode.bar4Base } } = s.dev) ∧
    (a % 2 ^ s.dev.mode.bar4Log2 ≠ 0 ∨ softEnd < a + 2 ^ s.dev.mode.bar4Log2 → exec (.bar4BaseWrite v) s = .next s)) ∧
    (∀ (s : State) (o : BitVec 40) (x : List Byte), o.toNat + x.length ≤ 2 ^ s.dev.mode.bar4Log2 →
      ∃ t, exec (.bar4Write o x ⟨false, []⟩) s = .next t ∧ t.dev.bytesAt (s.dev.bar4Addr + o.toNat) x.length = x ∧
        (∀ i, i < s.dev.bar4Addr + o.toNat ∨ s.dev.bar4Addr + o.toNat + x.length ≤ i →
          look 0 t.dev.mem.cells i = look 0 s.dev.mem.cells i) ∧
        (∀ g, s.dev.bar4Addr + o.toNat ≤ 64 * g → 64 * g + 64 ≤ s.dev.bar4Addr + o.toNat + x.length →
          look false t.dev.mem.poison g = false) ∧
        (∀ g, 64 * g < s.dev.bar4Addr + o.toNat ∨ s.dev.bar4Addr + o.toNat + x.length < 64 * g + 64 →
          look false t.dev.mem.poison g = look false s.dev.mem.poison g) ∧ t.dev.out = s.dev.out ∧ t.dev.fe = s.dev.fe ∧
        t.dev.mesh = s.dev.mesh) ∧
    (∀ (s : State) (o : BitVec 40) (x : List Byte), o.toNat + x.length ≤ 2 ^ s.dev.mode.bar4Log2 →
      s.dev.bar4Addr + 2 ^ s.dev.mode.bar4Log2 ≤ softEnd →
      ∃ t, exec (.bar4Write o x ⟨true, []⟩) s = .next t ∧ t.dev.bytesAt (s.dev.bar4Addr + o.toNat) x.length = x ∧
        (∀ i, i < softEnd → i < s.dev.bar4Addr + o.toNat ∨ s.dev.bar4Addr + o.toNat + x.length ≤ i →
          look 0 t.dev.mem.cells i = look 0 s.dev.mem.cells i) ∧
        (∀ g ∈ granulesOf (s.dev.bar4Addr + o.toNat) x.length, look false t.dev.mem.poison g = true) ∧
        t.dev.out.aer = s.dev.out.aer ++ [1]) ∧
    (∀ (s : State) (o : BitVec 40) (n : Nat), o.toNat + n ≤ 2 ^ s.dev.mode.bar4Log2 →
      ∃ t, exec (.bar4Read o ⟨n, []⟩) s = .next t ∧ t.dev.mem.cells = s.dev.mem.cells ∧ t.dev.mem.poison = s.dev.mem.poison ∧
        t.dev.out.completions = s.dev.out.completions ++
          [if s.dev.poisonedIn (s.dev.bar4Addr + o.toNat) n = 0 then (s.dev.bytesAt (s.dev.bar4Addr + o.toNat) n, false)
           else (List.replicate n 0xFF, true)]) ∧
    ∀ (s : State) (o : BitVec 40) (e : List (List SymbolError)), s.dev.bar4Addr + 2 ^ s.dev.mode.bar4Log2 ≤ softEnd →
      (∀ (x : List Byte) (p : Bool), o.toNat + x.length ≤ 2 ^ s.dev.mode.bar4Log2 →
        ∃ t, exec (.bar4Write o x ⟨p, e⟩) s = .next t ∧ t.dev.bytesAt (s.dev.bar4Addr + o.toNat) x.length = x) ∧
      ∀ n : Nat, o.toNat + n ≤ 2 ^ s.dev.mode.bar4Log2 →
        ∃ t, exec (.bar4Read o ⟨n, e⟩) s = .next t ∧ ∃ c, t.dev.out.completions = s.dev.out.completions ++ [c] ∧ c.1.length = n

/-- O16. While SCRUB_HOURS is not 0 and the stacks are not in self-refresh, a scrub turn of a channel counts one block
read in its scrub counter, moves to the next of the channel's 2^24 blocks and sets SCRUB_ACTIVE; a turn that meets no
damaged symbol and no poison changes no byte and no mark. Otherwise a turn does nothing. A refresh turn moves to the
next of the channel's 64 banks and changes nothing else, and does nothing in self-refresh. Completes: patrolScrub,
bankRefresh. -/
def Obligations.ScrubAndRefreshTakeTheirTurns : Prop :=
  (∀ (s : State) (k : ChanId) (e : List (List SymbolError)), s.bounds.scrubHours ≠ 0 → s.dev.mem.selfRefresh = false →
    ∃ t, exec (.patrolScrub k e) s = .next t ∧ (t.dev.chan k.toNat).scrubAt = (s.dev.chan k.toNat).scrubAt + 1 ∧
      t.dev.mem.scrubActive = true ∧
      Counts s.dev t.dev (cChan k.toNat 8) 1 ∧ t.dev.fe = s.dev.fe ∧ t.dev.mesh = s.dev.mesh ∧
      (e = [] → (∀ g, look false s.dev.mem.poison g = false) →
        t.dev.mem.cells = s.dev.mem.cells ∧ t.dev.mem.poison = s.dev.mem.poison)) ∧
    (∀ (s : State) (k : ChanId) (e : List (List SymbolError)), s.bounds.scrubHours = 0 ∨ s.dev.mem.selfRefresh = true →
      exec (.patrolScrub k e) s = .next s) ∧
    (∀ (s : State) (k : ChanId), s.dev.mem.selfRefresh = false →
      ∃ t, exec (.bankRefresh k) s = .next t ∧ (t.dev.chan k.toNat).refreshBank = (s.dev.chan k.toNat).refreshBank + 1 ∧
        (∀ i, i ≠ k.toNat → t.dev.chan i = s.dev.chan i) ∧ { t.dev with mem := s.dev.mem } = s.dev ∧
        t.dev.mem.cells = s.dev.mem.cells ∧ t.dev.mem.poison = s.dev.mem.poison) ∧
    ∀ (s : State) (k : ChanId), s.dev.mem.selfRefresh = true → exec (.bankRefresh k) s = .next s

/-- O17. A NOP, a BARRIER of QUEUE scope or a STAMP in order at the head of a queue with nothing else to run starts,
completes and retires: STARTED and RETIRED advance by its one entry, its record carries status 0x00 and DETAIL 0, its
summary bit is set, the queue leaves its slot for IDLE, and nothing but the queue moves. A STAMP first writes the fabric
time and the completion counter as it stood at its address, in device memory or, with the host flag, in a host window,
and no other byte of the stacks. One with a reserved scope, a reserved byte that is not zero or a bad address completes
with 0x22 and the offset of the field. So does a NOP whose header is not in order, and one whose entry was read poisoned
completes with 0x22 and DETAIL 0xFFFFFFFF. Completes: nop, barrierQueue, stamp. -/
def Obligations.PlainCommandsComplete : Prop :=
  (∀ (s : State) (q : QueueId) (b : List Byte), ReadyHead s.dev q.toNat 0 b 1 → Alone s.dev q.toNat 1 → byteAt b 0 = 0 →
    ∃ t, exec (.nop q) s = .next t ∧ Completed s.dev t.dev q.toNat 1 ∧ OnlyQueue s.dev t.dev q.toNat ∧
      ((s.dev.queue q.toNat).inDevice = false → t.dev.mem = s.dev.mem) ∧
      (zeroAt b 0x10 48 = true → Recorded s.dev t.dev q.toNat 0 0) ∧
      (zeroAt b 0x10 48 = false → Recorded s.dev t.dev q.toNat 0x22 0x10)) ∧
    (∀ (s : State) (q : QueueId) (b : List Byte) (p o : Nat), s.dev.head q.toNat = some (b, 1, p) → s.dev.mayStart q.toNat b = true →
      s.dev.agreed 0 = true → Alone s.dev q.toNat 1 → byteAt b 0 = 0 →
      (p = 0 ∧ headerFault (s.dev.queue q.toNat) b = some o) ∨ (p ≠ 0 ∧ o = 0xFFFFFFFF) →
      ∃ t, exec (.nop q) s = .next t ∧ Completed s.dev t.dev q.toNat 1 ∧ OnlyQueue s.dev t.dev q.toNat ∧
        Recorded s.dev t.dev q.toNat 0x22 o) ∧
    (∀ (s : State) (q : QueueId) (b : List Byte), ReadyHead s.dev q.toNat 0 b 1 → Alone s.dev q.toNat 1 → byteAt b 0 = 8 →
      byteAt b 0x10 ≠ 1 →
      ∃ t, exec (.barrierQueue q) s = .next t ∧ Completed s.dev t.dev q.toNat 1 ∧ OnlyQueue s.dev t.dev q.toNat ∧
        (byteAt b 0x10 ≠ 0 → Recorded s.dev t.dev q.toNat 0x22 0x10) ∧
        (zeroAt b 0x10 4 = true → field b 0x14 4 = 0xFFFFFFFF → zeroAt b 0x18 8 = true → zeroAt b 0x20 32 = true →
          Recorded s.dev t.dev q.toNat 0 0)) ∧
    (∀ (s : State) (q : QueueId) (b : List Byte), ReadyHead s.dev q.toNat 0 b 1 → Alone s.dev q.toNat 1 → byteAt b 0 = 9 →
      stampFault s.dev b = none → byteAt b 0x18 = 0 → (s.dev.queue q.toNat).inDevice = false →
      ∃ t, exec (.stamp q) s = .next t ∧ Completed s.dev t.dev q.toNat 1 ∧ Recorded s.dev t.dev q.toNat 0 0 ∧
        OnlyQueue s.dev t.dev q.toNat ∧
        t.dev.bytesAt (field b 0x10 8) 16 = leBytes 8 s.dev.time.ft.toNat ++ leBytes 8 (s.dev.queue q.toNat).retired.toNat ∧
        ∀ i, i < field b 0x10 8 ∨ field b 0x10 8 + 16 ≤ i → look 0 t.dev.mem.cells i = look 0 s.dev.mem.cells i) ∧
    (∀ (s : State) (q : QueueId) (b : List Byte), ReadyHead s.dev q.toNat 0 b 1 → Alone s.dev q.toNat 1 → byteAt b 0 = 9 →
      stampFault s.dev b = none → byteAt b 0x18 = 1 → s.dev.mode.d3hot = false → (s.dev.queue q.toNat).inDevice = false →
      ∃ t, exec (.stamp q) s = .next t ∧ Completed s.dev t.dev q.toNat 1 ∧ Recorded s.dev t.dev q.toNat 0 0 ∧
        OnlyQueue s.dev t.dev q.toNat ∧ t.dev.mem = s.dev.mem ∧
        (⟨BitVec.ofNat 64 (field b 0x10 8),
          leBytes 8 s.dev.time.ft.toNat ++ leBytes 8 (s.dev.queue q.toNat).retired.toNat, false⟩ : HostWrite) ∈ t.dev.out.hostWrites) ∧
    ∀ (s : State) (q : QueueId) (b : List Byte) (o : Nat), ReadyHead s.dev q.toNat 0 b 1 → Alone s.dev q.toNat 1 → byteAt b 0 = 9 →
      stampFault s.dev b = some o →
      ∃ t, exec (.stamp q) s = .next t ∧ Completed s.dev t.dev q.toNat 1 ∧ Recorded s.dev t.dev q.toNat 0x22 o ∧
        OnlyQueue s.dev t.dev q.toNat

/-- O18. A WAIT in order whose value satisfies its condition and comes from no poisoned granule completes with status
0x00 and the low 32 bits of that value as DETAIL. One that does not hold, or whose value comes from a poisoned granule,
blocks: on a device address it joins the end of the poll list and its queue parks out of its slot while that list has
room, and keeps its slot, counted in POLL_LIST_FULL, when it has none; a poisoned value counts one in POISON_IN. One on
a fence blocks and parks its queue, outside the poll list, when no chain of waits leads from the fence's producer to
this queue; where one does, it completes with 0x13 and the producer as DETAIL and counts one. One not in order completes
with 0x22. A poll takes the first four of the list: one whose condition has come to hold completes with 0x00 and its
value, its queue becomes PENDING and it leaves the list; those that read the same value as before go to its end.
Completes: wait, waitPoll. -/
def Obligations.WaitsEndOrBlock : Prop :=
  (∀ (s : State) (q : QueueId) (b : List Byte), ReadyHead s.dev q.toNat 0 b 1 → Alone s.dev q.toNat 1 → byteAt b 0 = 6 →
    waitFault s.dev b = none → waitHolds b (waitRead s.dev b).1 = true → (waitRead s.dev b).2 = false →
    ∃ t, exec (.wait q) s = .next t ∧ Completed s.dev t.dev q.toNat 1 ∧ OnlyQueue s.dev t.dev q.toNat ∧
      Recorded s.dev t.dev q.toNat 0 ((waitRead s.dev b).1.toNat % 2 ^ 32)) ∧
    (∀ (s : State) (q : QueueId) (b : List Byte), ReadyHead s.dev q.toNat 0 b 1 → Alone s.dev q.toNat 1 → byteAt b 0 = 6 →
      waitFault s.dev b = none → byteAt b 0x21 = 0 →
      waitHolds b (waitRead s.dev b).1 = false ∨ (waitRead s.dev b).2 = true →
      ∃ t, exec (.wait q) s = .next t ∧ OnlyQueue s.dev t.dev q.toNat ∧
        (t.dev.queue q.toNat).retired = (s.dev.queue q.toNat).retired ∧
        (∃ c, t.dev.blockedWait q.toNat = some c ∧ c.bytes = b ∧ c.index = (s.dev.queue q.toNat).started ∧
          c.poisonIn = (if (waitRead s.dev b).2 then 1 else 0)) ∧
        (s.dev.fe.pollList.length < 16384 → (t.dev.queue q.toNat).state = .parked ∧ (t.dev.queue q.toNat).slot = none ∧
          t.dev.fe.pollList = s.dev.fe.pollList ++ [q.toNat]) ∧
        (16384 ≤ s.dev.fe.pollList.length → (t.dev.queue q.toNat).state = .active ∧
          (t.dev.queue q.toNat).slot = (s.dev.queue q.toNat).slot ∧ t.dev.fe.pollList = s.dev.fe.pollList ∧
          Counts s.dev t.dev (cFront 5) 1)) ∧
    (∀ (s : State) (q : QueueId) (b : List Byte), ReadyHead s.dev q.toNat 0 b 1 → Alone s.dev q.toNat 1 → byteAt b 0 = 6 →
      waitFault s.dev b = none → byteAt b 0x21 = 1 → waitHolds b (waitRead s.dev b).1 = false →
      (s.dev.waitReaches q.toNat 262144 (s.dev.fence (fenceNo b)).producer.toNat = true →
        ∃ t, exec (.wait q) s = .next t ∧ Completed s.dev t.dev q.toNat 1 ∧ OnlyQueue s.dev t.dev q.toNat ∧
          Recorded s.dev t.dev q.toNat 0x13 (s.dev.fence (fenceNo b)).producer.toNat ∧ Counts s.dev t.dev (cFront 6) 1) ∧
      (s.dev.waitReaches q.toNat 262144 (s.dev.fence (fenceNo b)).producer.toNat = false →
        ∃ t, exec (.wait q) s = .next t ∧ OnlyQueue s.dev t.dev q.toNat ∧ (t.dev.queue q.toNat).state = .parked ∧
          (t.dev.queue q.toNat).slot = none ∧ t.dev.fe.pollList = s.dev.fe.pollList ∧
          t.dev.waitEdge q.toNat = some (s.dev.fence (fenceNo b)).producer.toNat)) ∧
    (∀ (s : State) (q : QueueId) (b : List Byte) (o : Nat), ReadyHead s.dev q.toNat 0 b 1 → Alone s.dev q.toNat 1 → byteAt b 0 = 6 →
      waitFault s.dev b = some o →
      ∃ t, exec (.wait q) s = .next t ∧ Completed s.dev t.dev q.toNat 1 ∧ OnlyQueue s.dev t.dev q.toNat ∧
        Recorded s.dev t.dev q.toNat 0x22 o) ∧
    (∀ (s : State) (q : Nat) (c : Cmd) (v : U64), s.dev.fe.pollList = [q] → (s.dev.queue q).state = .parked →
      (∀ i, i ≠ q → (s.dev.queue i).state ≠ .active) → (s.dev.qrun q).running = [c] → c.completed = false →
      c.work = .waiting v → c.facts = [] → waitHolds c.bytes (waitRead s.dev c.bytes).1 = true → (waitRead s.dev c.bytes).2 = false →
      ∃ t, exec .waitPoll s = .next t ∧ (t.dev.queue q).state = .pending ∧ (t.dev.qrun q).running = [] ∧
        (t.dev.queue q).retired = (s.dev.queue q).retired + BitVec.ofNat 64 c.entries ∧ t.dev.fe.pollList = [] ∧
        OnlyQueue s.dev t.dev q ∧
        (c.preemptions = 0 → c.replays = 0 → c.poisonOut = 0 → c.flags = 0 →
          RecordedAt s.dev t.dev q c.index 0 ((waitRead s.dev c.bytes).1.toNat % 2 ^ 32))) ∧
    ∀ s : State, (∀ (q : Nat) (c : Cmd), s.dev.blockedWait q = some c →
        ∃ v, c.work = .waiting v ∧ waitRead s.dev c.bytes = (v, false) ∧ waitHolds c.bytes v = false) →
      ∃ t, exec .waitPoll s = .next t ∧
        t.dev = { s.dev with fe := { s.dev.fe with pollList := s.dev.fe.pollList.drop 4 ++ s.dev.fe.pollList.take 4 } }

/-- O19. A SIGNAL in order on a fence that its queue produces gives the fence the written value, the sum modulo 2^64 or
the union of bits, by OP, leaves every other fence, completes and retires; a WAIT of another queue on that fence whose
condition the new value satisfies completes in the same command, and its queue becomes PENDING. One on a device address
does the same to the 8 bytes there and completes with 0x00, leaving every other byte. One on a host address writes the
value to host memory and completes. One not in order, such as one on a fence of another queue, completes with 0x22 and
changes no fence and no memory beside its record. Completes: signal. -/
def Obligations.SignalsPerformTheirOperation : Prop :=
  (∀ (s : State) (q : QueueId) (b : List Byte), ReadyHead s.dev q.toNat 0 b 1 → Alone s.dev q.toNat 1 → byteAt b 0 = 7 →
    signalFault s.dev q.toNat b = none → byteAt b 0x21 = 1 →
    ∃ t, exec (.signal q) s = .next t ∧
      (t.dev.fence (fenceNo b)).value = (let old := (s.dev.fence (fenceNo b)).value
        if byteAt b 0x20 = 0 then BitVec.ofNat 64 (field b 0x18 8)
        else if byteAt b 0x20 = 1 then old + BitVec.ofNat 64 (field b 0x18 8) else old ||| BitVec.ofNat 64 (field b 0x18 8)) ∧
      (t.dev.fence (fenceNo b)).producer = (s.dev.fence (fenceNo b)).producer ∧
      (t.dev.fence (fenceNo b)).registered = true ∧
      (∀ i, i ≠ fenceNo b → t.dev.fence i = s.dev.fence i) ∧ Completed s.dev t.dev q.toNat 1 ∧
      ∀ (w : Nat) (c : Cmd) (v : U64), w ≠ q.toNat → (s.dev.queue w).state = .parked → (s.dev.qrun w).running = [c] →
        c.completed = false → c.work = .waiting v → byteAt c.bytes 0x21 = 1 → fenceNo c.bytes = fenceNo b →
        waitHolds c.bytes (t.dev.fence (fenceNo b)).value = true →
        (t.dev.queue w).state = .pending ∧ (t.dev.qrun w).running = [] ∧
          (t.dev.queue w).retired = (s.dev.queue w).retired + BitVec.ofNat 64 c.entries) ∧
    (∀ (s : State) (q : QueueId) (b : List Byte), ReadyHead s.dev q.toNat 0 b 1 → Alone s.dev q.toNat 1 → byteAt b 0 = 7 →
      signalFault s.dev q.toNat b = none → byteAt b 0x21 = 0 → (s.dev.queue q.toNat).inDevice = false →
      ∃ t, exec (.signal q) s = .next t ∧ Completed s.dev t.dev q.toNat 1 ∧ Recorded s.dev t.dev q.toNat 0 0 ∧
        OnlyQueue s.dev t.dev q.toNat ∧
        field (t.dev.bytesAt (field b 0x10 8) 8) 0 8 = (let old := field (s.dev.bytesAt (field b 0x10 8) 8) 0 8
          if byteAt b 0x20 = 0 then field b 0x18 8
          else if byteAt b 0x20 = 1 then (old + field b 0x18 8) % 2 ^ 64 else old ||| field b 0x18 8) ∧
        ∀ i, i < field b 0x10 8 ∨ field b 0x10 8 + 8 ≤ i → look 0 t.dev.mem.cells i = look 0 s.dev.mem.cells i) ∧
    (∀ (s : State) (q : QueueId) (b : List Byte), ReadyHead s.dev q.toNat 0 b 1 → Alone s.dev q.toNat 1 → byteAt b 0 = 7 →
      signalFault s.dev q.toNat b = none → byteAt b 0x21 = 2 → s.dev.mode.d3hot = false → (s.dev.queue q.toNat).inDevice = false →
      ∃ t, exec (.signal q) s = .next t ∧ Completed s.dev t.dev q.toNat 1 ∧ Recorded s.dev t.dev q.toNat 0 0 ∧
        (⟨BitVec.ofNat 64 (field b 0x10 8), leBytes 8 (field b 0x18 8), false⟩ : HostWrite) ∈ t.dev.out.hostWrites ∧
        OnlyQueue s.dev t.dev q.toNat ∧ t.dev.mem = s.dev.mem) ∧
    ∀ (s : State) (q : QueueId) (b : List Byte) (o : Nat), ReadyHead s.dev q.toNat 0 b 1 → Alone s.dev q.toNat 1 → byteAt b 0 = 7 →
      signalFault s.dev q.toNat b = some o →
      ∃ t, exec (.signal q) s = .next t ∧ Completed s.dev t.dev q.toNat 1 ∧ Recorded s.dev t.dev q.toNat 0x22 o ∧
        OnlyQueue s.dev t.dev q.toNat ∧ ((s.dev.queue q.toNat).inDevice = false → t.dev.mem = s.dev.mem)

/-- O20. Outside a trace replay, a doorbell of 8 bytes to a created queue with its generation and with a producer that
the ring has room for is accepted: PRODUCER and the doorbell register take its value, an IDLE queue with entries to
start becomes PENDING, one of any other state keeps its state, and no other queue moves. One of another width or to an
UNUSED queue, one with another generation, and one beyond the window each change nothing and count in their own counter.
While a trace is replayed every doorbell is dropped and counted. Completes: doorbell. -/
def Obligations.DoorbellsAreJudged : Prop :=
  (∀ (s : State) (q : QueueId) (w : Nat) (v : U64), s.dev.replaying = false → let u := s.dev.queue q.toNat
    (w ≠ 8 ∨ u.state = .unused → ∃ t, exec (.doorbell q w v) s = .next t ∧ beside s.dev t.dev = s.dev ∧
      Counts s.dev t.dev (cFront 2) 1) ∧
    (w = 8 → u.state ≠ .unused → bits v.toNat 47 32 ≠ u.gen.toNat → ∃ t, exec (.doorbell q w v) s = .next t ∧
      beside s.dev t.dev = s.dev ∧ Counts s.dev t.dev (cFront 3) 1) ∧
    (w = 8 → u.state ≠ .unused → bits v.toNat 47 32 = u.gen.toNat →
      u.ringSize < (v.setWidth 32 - u.producer).toNat ∨ u.ringSize < (v.setWidth 32 - u.retired.setWidth 32).toNat →
      ∃ t, exec (.doorbell q w v) s = .next t ∧ beside s.dev t.dev = s.dev ∧ Counts s.dev t.dev (cFront 4) 1) ∧
    (w = 8 → u.state ≠ .unused → bits v.toNat 47 32 = u.gen.toNat → (v.setWidth 32 - u.producer).toNat ≤ u.ringSize →
      (v.setWidth 32 - u.retired.setWidth 32).toNat ≤ u.ringSize →
      ∃ t, exec (.doorbell q w v) s = .next t ∧ (t.dev.queue q.toNat).producer = v.setWidth 32 ∧
        (t.dev.qrun q.toNat).doorbell.toNat = v.toNat % 2 ^ 48 ∧ (t.dev.queue q.toNat).started = u.started ∧
        (t.dev.queue q.toNat).retired = u.retired ∧ (t.dev.queue q.toNat).slot = u.slot ∧ t.dev.fe.fences = s.dev.fe.fences ∧
        (∀ i, i ≠ q.toNat → t.dev.queue i = s.dev.queue i ∧ t.dev.qrun i = s.dev.qrun i) ∧
        (u.state ≠ .idle → (t.dev.queue q.toNat).state = u.state) ∧
        (u.state = .idle → (t.dev.queue q.toNat).state = (if v.setWidth 32 ≠ u.started ∧
          (s.dev.qrun q.toNat).need ≤ (v.setWidth 32 - u.started).toNat then .pending else .idle)))) ∧
    ∀ (s : State) (q : QueueId) (w : Nat) (v : U64), s.dev.replaying = true →
      ∃ t, exec (.doorbell q w v) s = .next t ∧ Counts s.dev t.dev (cOwl 5) 1 ∧ beside s.dev t.dev = s.dev

/-- O21. ENABLE takes a STOPPED queue whose ring lies in device memory or in one registered window to PENDING with
entries to start and to IDLE without; on any other queue it changes no queue. DISABLE of a created queue that is not
STOPPED or DRAINING clears ENABLED; with nothing running the queue is STOPPED, out of its slot, and otherwise DRAINING
with its commands still running. KILL of a queue leaves it not enabled, STOPPED when no command of it is left and
DRAINING otherwise; a command that is the only one, not past its commit point and not preempted, completes with 0x10,
retires, and the queue is STOPPED; one past its commit point goes on. RESET of a STOPPED queue clears PRODUCER, STARTED
and RETIRED, advances the generation and clears its summary bit; on any other queue it changes no queue. Each leaves
every other queue and leaves the control register with the queue and the command. Completes: queueEnable, queueDisable,
queueKill, queueReset. -/
def Obligations.QueueControlMovesQueues : Prop :=
  (∀ (s : State) (q : QueueId), ∃ t, exec (.queueEnable q) s = .next t ∧ t.dev.mode.queueCtl.toNat = q.toNat ∧
      (∀ i, i ≠ q.toNat → t.dev.queue i = s.dev.queue i) ∧
      { t.dev with fe := { t.dev.fe with queues := s.dev.fe.queues }, mode := { t.dev.mode with queueCtl := s.dev.mode.queueCtl } } = s.dev ∧
      if (s.dev.queue q.toNat).state = .stopped ∧ s.dev.ringReachable (s.dev.queue q.toNat) = true then
        t.dev.queue q.toNat = { s.dev.queue q.toNat with enabled := true,
                                                         state := if s.dev.hasWork q.toNat then .pending else .idle }
      else t.dev.queue q.toNat = s.dev.queue q.toNat) ∧
    (∀ (s : State) (q : QueueId), (s.dev.queue q.toNat).state ≠ .unused → (s.dev.queue q.toNat).state ≠ .stopped →
      (s.dev.queue q.toNat).state ≠ .draining →
      ∃ t, exec (.queueDisable q) s = .next t ∧ (t.dev.queue q.toNat).enabled = false ∧
        t.dev.mode.queueCtl.toNat = q.toNat + 2 ^ 18 ∧ (∀ i, i ≠ q.toNat → t.dev.queue i = s.dev.queue i) ∧
        (t.dev.queue q.toNat).started = (s.dev.queue q.toNat).started ∧
        (t.dev.qrun q.toNat).running = (s.dev.qrun q.toNat).running ∧
        (s.dev.live q.toNat = [] → (t.dev.queue q.toNat).state = .stopped ∧ (t.dev.queue q.toNat).slot = none) ∧
        (s.dev.live q.toNat ≠ [] → (t.dev.queue q.toNat).state = .draining ∧
          (t.dev.queue q.toNat).slot = (s.dev.queue q.toNat).slot)) ∧
    (∀ (s : State) (q : QueueId), (s.dev.queue q.toNat).state ≠ .unused → (s.dev.queue q.toNat).state ≠ .stopped →
      ∃ t, exec (.queueKill q) s = .next t ∧ (t.dev.queue q.toNat).enabled = false ∧
        (t.dev.queue q.toNat).started = (s.dev.queue q.toNat).started ∧
        (t.dev.queue q.toNat).state = (if t.dev.live q.toNat = [] then .stopped else .draining) ∧
        t.dev.mode.queueCtl.toNat = q.toNat + 2 * 2 ^ 18 ∧ ∀ i, i ≠ q.toNat → t.dev.queue i = s.dev.queue i) ∧
    (∀ (s : State) (q : QueueId) (c : Cmd), (s.dev.queue q.toNat).state ≠ .unused → (s.dev.queue q.toNat).state ≠ .stopped →
      (s.dev.qrun q.toNat).running = [c] → c.completed = false →
      (c.committed = false → (∀ j, s.dev.job q.toNat c.index = some j → j.preempted = false) → c.facts = [] →
        ∃ t, exec (.queueKill q) s = .next t ∧ (t.dev.queue q.toNat).state = .stopped ∧ (t.dev.qrun q.toNat).running = [] ∧
          (t.dev.queue q.toNat).retired = (s.dev.queue q.toNat).retired + BitVec.ofNat 64 c.entries ∧
          RecordedAt s.dev t.dev q.toNat c.index 0x10 0) ∧
      (c.committed = true → ∃ t, exec (.queueKill q) s = .next t ∧ (t.dev.queue q.toNat).state = .draining ∧
          (t.dev.qrun q.toNat).running = [c])) ∧
    ∀ (s : State) (q : QueueId), ∃ t, exec (.queueReset q) s = .next t ∧ t.dev.mode.queueCtl.toNat = q.toNat + 3 * 2 ^ 18 ∧
      (∀ i, i ≠ q.toNat → t.dev.queue i = s.dev.queue i ∧ t.dev.qrun i = s.dev.qrun i) ∧
      { t.dev with fe := s.dev.fe, mode := { t.dev.mode with queueCtl := s.dev.mode.queueCtl } } = s.dev ∧
      if (s.dev.queue q.toNat).state = .stopped then
        t.dev.queue q.toNat = { s.dev.queue q.toNat with producer := 0, started := 0, retired := 0,
                                                         gen := (s.dev.queue q.toNat).gen + 1 } ∧
          bitOf (look 0 t.dev.fe.summary (q.toNat / 64)).toNat (q.toNat % 64) = false
      else t.dev.queue q.toNat = s.dev.queue q.toNat

/-- O22. With one slot free, the PENDING queue that is next by priority and rotation, with a ring in host memory,
entries to start, nothing running and nothing fetched, is admitted: it becomes ACTIVE in the free slot, the counter of
admissions counts, the block of four entries that holds its first entry is read from the host, and no other queue moves.
With no slot free, no queue PENDING or the front end not running, none is admitted. When an entry comes back for an
ACTIVE queue with nothing running, it is what the front end then reads at that index; one for a queue without a slot
changes nothing. A queue that has held its slot for 1 ms while none is free and an equal or higher one is PENDING
yields: at once to PENDING with nothing running, and otherwise it starts nothing more; before that it keeps its slot.
Completes: queueAdmit, ringFetchReturn, slotTimeslice. -/
def Obligations.QueuesAreAdmittedAndFetched : Prop :=
  (∀ (s : State) (p q n : Nat), s.dev.fe.running = true → s.dev.nextPending = some (p, q) → s.dev.freeSlots = [n] →
    Sparse.wf Queue.reset s.dev.fe.queues = true → (s.dev.queue q).slot = none → (s.dev.queue q).inDevice = false →
    s.dev.hasWork q = true →
    s.dev.live q = [] → (s.dev.qrun q).fetched = [] → (s.dev.qrun q).yielding = false → s.dev.mode.d3hot = false →
    ∃ t, exec .queueAdmit s = .next t ∧ (t.dev.queue q).state = .active ∧
      (t.dev.queue q).slot = some (BitVec.ofNat 12 n) ∧ (t.dev.qrun q).slotSince = s.dev.time.ft ∧
      (t.dev.queue q).started = (s.dev.queue q).started ∧ (∀ i, i ≠ q → t.dev.queue i = s.dev.queue i) ∧
      Counts s.dev t.dev (cFront 1) 1 ∧
      t.dev.out.hostReads = s.dev.out.hostReads ++
        [(2 ^ 20 + q, BitVec.ofNat 64 ((s.dev.queue q).entryAddr ((s.dev.queue q).started.toNat / 4 * 4)), 256)]) ∧
    (∀ s : State, s.dev.fe.running = false ∨ s.dev.nextPending = none ∨ s.dev.freeSlots = [] → exec .queueAdmit s = .next s) ∧
    (∀ (s : State) (q : QueueId) (e : RingEntry), s.dev.fromTrace 0 = false → (s.dev.queue q.toNat).state = .active →
      (s.dev.queue q.toNat).inDevice = false → s.dev.live q.toNat = [] → (s.dev.qrun q.toNat).yielding = false →
      (s.dev.queue q.toNat).avail ≤ (s.dev.queue q.toNat).ringSize → e.bytes.length = 64 → badFirst e.bytes = none →
      0 < (s.dev.queue q.toNat).avail → entriesNeeded e.bytes ≤ (s.dev.queue q.toNat).avail →
      ∃ t, exec (.ringFetchReturn q (s.dev.queue q.toNat).started [e]) s = .next t ∧
        t.dev.entryAt q.toNat (s.dev.queue q.toNat).started = some e ∧ t.dev.queue q.toNat = s.dev.queue q.toNat ∧
        ∀ i, i ≠ q.toNat → t.dev.queue i = s.dev.queue i ∧ t.dev.qrun i = s.dev.qrun i) ∧
    (∀ (s : State) (q : QueueId) (i : U32) (l : List RingEntry), (s.dev.queue q.toNat).state ≠ .active ∨
      (s.dev.queue q.toNat).inDevice = true ∨ s.dev.fromTrace 0 = true → exec (.ringFetchReturn q i l) s = .next s) ∧
    (∀ (s : State) (q : QueueId), (s.dev.queue q.toNat).state = .active →
      16000000 ≤ (s.dev.time.ft - (s.dev.qrun q.toNat).slotSince).toNat → s.dev.freeSlots = [] →
      (∃ x ∈ s.dev.fe.queues, x.2.state = .pending ∧ (s.dev.queue q.toNat).priority.toNat ≤ x.2.priority.toNat) →
      (s.dev.live q.toNat ≠ [] → ∃ t, exec (.slotTimeslice q) s = .next t ∧ (t.dev.qrun q.toNat).yielding = true ∧
        t.dev.queue q.toNat = s.dev.queue q.toNat ∧ t.dev.live q.toNat = s.dev.live q.toNat) ∧
      (s.dev.live q.toNat = [] → s.dev.hasWork q.toNat = true →
        s.dev.entryAt q.toNat (s.dev.queue q.toNat).started = none →
        ∃ t, exec (.slotTimeslice q) s = .next t ∧ (t.dev.queue q.toNat).state = .pending ∧ (t.dev.queue q.toNat).slot = none ∧
          ∀ i, i ≠ q.toNat → t.dev.queue i = s.dev.queue i)) ∧
    ∀ (s : State) (q : QueueId), (s.dev.queue q.toNat).state ≠ .active ∨
      (s.dev.time.ft - (s.dev.qrun q.toNat).slotSince).toNat < 16000000 ∨ s.dev.freeSlots ≠ [] →
      exec (.slotTimeslice q) s = .next s

/-- O23. A command of a queue, its only one, not past its commit point and not preempted, that has made no progress for
its window is stopped and retired by NO_PROGRESS_WINDOW: with 0x11 and the idle cycles as DETAIL, or for a WAIT with
0x12 and the value last read, and the counter of ended windows counts; before its window has passed, or past its commit
point or while it is preempted, it is left. A completion timeout stops it with 0x11 likewise and is reported through
AER. When work is pending and nothing was admitted or retired for 1 s, the front end resets: every such command is
stopped and retired, no queue keeps a slot, and AER reports it once; otherwise the front end stays as it is. Completes:
noProgressWindow, completionTimeout, frontEndReset. -/
def Obligations.LimitsEndCommands : Prop :=
  (∀ (s : State) (q : QueueId) (c : Cmd), (s.dev.qrun q.toNat).running = [c] → c.completed = false → c.committed = false →
    (∀ j, s.dev.job q.toNat c.index = some j → j.preempted = false) → c.facts = [] →
    (idleUnits s.dev c < windowUnits (s.dev.queue q.toNat) c → exec (.noProgressWindow q c.index) s = .next s) ∧
    (windowUnits (s.dev.queue q.toNat) c ≤ idleUnits s.dev c → (∀ n, c.work ≠ .growRetry n) →
      ∃ t, exec (.noProgressWindow q c.index) s = .next t ∧ (t.dev.qrun q.toNat).running = [] ∧
        (t.dev.queue q.toNat).retired = (s.dev.queue q.toNat).retired + BitVec.ofNat 64 c.entries ∧
        (∀ i, i ≠ q.toNat → t.dev.queue i = s.dev.queue i) ∧ t.dev.fe.fences = s.dev.fe.fences ∧
        Counts s.dev t.dev (cFront 8) 1 ∧
        (∀ v, c.work = .waiting v → Counts s.dev t.dev (cFront 7) 1 ∧ RecordedAt s.dev t.dev q.toNat c.index 0x12 (v.toNat % 2 ^ 32)) ∧
        ((∀ v, c.work ≠ .waiting v) → RecordedAt s.dev t.dev q.toNat c.index 0x11 (cyclesOf (idleUnits s.dev c)))) ∧
    ∃ t, exec (.completionTimeout q c.index) s = .next t ∧ (t.dev.qrun q.toNat).running = [] ∧
      (t.dev.queue q.toNat).retired = (s.dev.queue q.toNat).retired + BitVec.ofNat 64 c.entries ∧
      (∀ i, i ≠ q.toNat → t.dev.queue i = s.dev.queue i) ∧ t.dev.fe.fences = s.dev.fe.fences ∧
      t.dev.out.aer = s.dev.out.aer ++ [0] ∧ RecordedAt s.dev t.dev q.toNat c.index 0x11 (cyclesOf (idleUnits s.dev c))) ∧
    (∀ (s : State) (q : QueueId) (c : Cmd), s.dev.cmd q.toNat c.index = some c →
      c.completed = true ∨ c.committed = true ∨ (∃ j, s.dev.job q.toNat c.index = some j ∧ j.preempted = true) →
      exec (.noProgressWindow q c.index) s = .next s) ∧
    (∀ s : State, s.dev.workPending = true → 16000000000 ≤ (s.dev.time.ft - s.dev.fe.lastMove).toNat →
      ∃ t, exec .frontEndReset s = .next t ∧ t.dev.out.aer = s.dev.out.aer ++ [3] ∧ t.dev.fe.lastMove = s.dev.time.ft ∧
        t.dev.fe.fences = s.dev.fe.fences ∧ (∀ q, (t.dev.queue q).state ≠ .active) ∧
        ∀ (q : Nat) (c : Cmd), (s.dev.queue q).state ≠ .unused → (s.dev.qrun q).running = [c] → c.completed = false →
          c.committed = false → (∀ j, s.dev.job q c.index = some j → j.preempted = false) →
          (t.dev.qrun q).running = [] ∧ (t.dev.queue q).retired = (s.dev.queue q).retired + BitVec.ofNat 64 c.entries) ∧
    ∀ s : State, s.dev.workPending = false ∨ (s.dev.time.ft - s.dev.fe.lastMove).toNat < 16000000000 →
      exec .frontEndReset s = .next s

/-- O24. While the Owl serves the PCIe mailbox, a doorbell with the SEQ after the last one at an IDLE or DONE mailbox
makes it BUSY with a copy of the request buffer when no request is in service or waiting, and PENDING behind those
waiting when one is in service. A doorbell at a mailbox that is PENDING or BUSY, or with another SEQ, sets REFUSED,
counts one and leaves STATE and the buffers. A request of an opcode that no row of the catalogue has is answered with
0x0002, and one that makes no progress with 0x0010; neither changes anything but the mailbox. Every answer counts one.
Completes: abaviDoorbell, unknownOpcode, abaviNoProgress. -/
def Obligations.MailboxTakesRequestsInTurn : Prop :=
  (∀ (s : State) (n : U32), s.dev.ident.owlReady = true →
    (s.dev.owl.pcie.state = .idle ∨ s.dev.owl.pcie.state = .done) → n = s.dev.owl.pcie.lastSeq + 1 →
    (s.dev.owl.current = none → s.dev.owl.waiting = [] →
      ∃ t, exec (.abaviDoorbell n) s = .next t ∧ t.dev.owl.pcie.state = .busy ∧ t.dev.owl.pcie.lastSeq = n ∧
        t.dev.owl.current = some { path := .pcie, bytes := lookAll 0 s.dev.owl.pcie.request 0 4096, injected := false } ∧
        t.dev.owl.waiting = [] ∧ t.dev.fe = s.dev.fe ∧ t.bounds = s.bounds) ∧
    (∀ r, s.dev.owl.current = some r →
      ∃ t, exec (.abaviDoorbell n) s = .next t ∧ t.dev.owl.pcie.state = .pending ∧ t.dev.owl.pcie.lastSeq = n ∧
        t.dev.owl.current = some r ∧ t.dev.owl.waiting = s.dev.owl.waiting ++ [.pcie] ∧ t.dev.fe = s.dev.fe ∧
        t.bounds = s.bounds)) ∧
    (∀ (s : State) (n : U32), (s.dev.owl.pcie.state ≠ .idle ∧ s.dev.owl.pcie.state ≠ .done) ∨ n ≠ s.dev.owl.pcie.lastSeq + 1 →
      ∃ t, exec (.abaviDoorbell n) s = .next t ∧ t.dev.owl = { s.dev.owl with pcie := { s.dev.owl.pcie with refused := true } } ∧
        Counts s.dev t.dev (cOwl 10) 1 ∧ OnlyOwl s.dev t.dev ∧ t.bounds = s.bounds) ∧
    (∀ (s : State) (b : List Byte), Serving s.dev b → opcodes.contains (field b 0 2) = false →
      ∃ t, exec .unknownOpcode s = .next t ∧ Answered t.dev b 2 0 ∧ t.dev.owl.current = none ∧ Counts s.dev t.dev (cOwl 9) 1 ∧
        OnlyOwl s.dev t.dev ∧ t.bounds = s.bounds) ∧
    ∀ (s : State) (b : List Byte), Serving s.dev b →
      ∃ t, exec .abaviNoProgress s = .next t ∧ Answered t.dev b 0x10 0 ∧ t.dev.owl.current = none ∧
        Counts s.dev t.dev (cOwl 9) 1 ∧ OnlyOwl s.dev t.dev ∧ t.bounds = s.bounds

/-- O25. Whatever request of the catalogue the Owl serves from the PCIe mailbox with none waiting, when its response
carries an ERROR other than OK, nothing of the device has changed but the mailbox and the draws of free values (for
ENSEMBLE_PUBLISH, while no GROW waits for its publication). A request that only the PCIe mailbox carries is answered
0x0003 with its feature bit before features are agreed or where that bit is not, 0x0011 while a trace is replayed,
0x0001 with the offset of its first fault of layout, and 0x000E where it comes over a management port. -/
def Obligations.RefusedRequestsChangeNothing : Prop :=
  (∀ (s t : State) (b : List Byte) (i : LoadImage), Serving s.dev b →
    ∀ c ∈ [Instr.identify, .features, .snapshot, .memAlloc, .memFree, .hostWindowAdd, .hostWindowRemove, .reservedRead,
      .queueCreate, .queueModify, .queueDelete, .fenceRegister, .fenceRelease, .imageLoad i, .imagePatch i, .imageUnload,
      .taskCreate, .taskEnd, .ensembleCreate, .ensemblePublish, .ensembleDelete, .ensembleRead, .tableCreate, .tableDelete,
      .pin, .unpin, .placement, .tablePages, .portSet, .portClear, .serviceWrite, .serviceEnable, .serviceDisable,
      .serviceRead, .serviceDelete, .fabricConfig, .collectiveGroup, .collectiveGroupClear, .powerBounds, .fence, .unfence,
      .fenceRow, .healthRead, .traceRegion],
      (c = .ensemblePublish → NoRetry s.dev) → exec c s = .next t → field (response t.dev) 8 2 ≠ 0 →
      OnlyOwl s.dev { t.dev with free := s.dev.free } ∧ t.bounds = s.bounds) ∧
    (∀ (s : State) (b : List Byte), Serving s.dev b → ∀ r ∈ plainRequests, field b 0 2 = r.2.1 →
      (s.dev.ident.negotiated = false ∨ s.dev.agreed r.2.2.1 = false →
        ∃ t, exec r.1 s = .next t ∧ Answered t.dev b 3 r.2.2.1 ∧ OnlyOwl s.dev t.dev) ∧
      (s.dev.ident.negotiated = true → s.dev.agreed r.2.2.1 = true → s.dev.replaying = true →
        ∃ t, exec r.1 s = .next t ∧ Answered t.dev b 0x11 0 ∧ OnlyOwl s.dev t.dev) ∧
      ∀ o, s.dev.ident.negotiated = true → s.dev.agreed r.2.2.1 = true → s.dev.replaying = false →
        layoutFault b r.2.2.2 = some o → ∃ t, exec r.1 s = .next t ∧ Answered t.dev b 1 o ∧ OnlyOwl s.dev t.dev) ∧
    ∀ (s : State) (b : List Byte) (i : Bool), s.dev.owl.current = some { path := mgmtPath i, bytes := b, injected := false } →
      s.dev.owl.waiting = [] → ∀ r ∈ plainRequests, field b 0 2 = r.2.1 →
      ∃ t, exec r.1 s = .next t ∧ (t.dev.mgmt i).mail.state = .done ∧
        field (lookAll 0 (t.dev.mgmt i).mail.response 0 4096) 8 2 = 0xE ∧ OnlyOwl s.dev t.dev

/-- O26. IDENTIFY answers the part word, the firmware word, the count of logical cores, the map epoch and the features
offered. The first FEATURES request, or one at quiescence, with no feature in use agrees a set that holds only bits both
offered and accepted, no bit whose need is absent and nothing without bit 0, and answers it. SNAPSHOT of 1 to 504
aligned offsets outside the mailbox buffers answers the fabric time of the last Den clock edge and each register as it
read then. Nothing else of the device changes, beside counters. Completes: identify, features, snapshot. -/
def Obligations.IdentityAndFeatureRequests : Prop :=
  (∀ (s : State) (b : List Byte), Serving s.dev b → field b 0 2 = 1 → layoutFault b [] = none →
    ∃ t, exec .identify s = .next t ∧ Answered t.dev b 0 0 ∧ OnlyOwl s.dev t.dev ∧ field (payload t.dev 40) 0 2 = 0x1200 ∧
      payload t.dev 40 = leBytes 8 partWord ++ leBytes 8 s.dev.ident.firmware ++ leBytes 4 s.dev.logicalCount ++
        leBytes 4 s.dev.mesh.epoch.toNat ++ leBytes 16 s.dev.ident.offered.toNat) ∧
    (∀ (s : State) (b : List Byte), Serving s.dev b → field b 0 2 = 2 → layoutFault b [blk 16] = none → s.dev.replaying = false →
      s.dev.ident.negotiated = false ∨ s.dev.quiescent = true → (∀ i, s.dev.featureUsed i = false) →
      ∃ t, exec .features s = .next t ∧ Answered t.dev b 0 0 ∧ t.dev.ident.negotiated = true ∧
        payload t.dev 16 = leBytes 16 t.dev.ident.agreed.toNat ∧
        (∀ i, bitOf t.dev.ident.agreed.toNat i = true →
          bitOf s.dev.ident.offered.toNat i = true ∧ bitOf (field b 0x20 16) i = true ∧ bitOf t.dev.ident.agreed.toNat 0 = true) ∧
        (∀ p ∈ featureNeeds, bitOf t.dev.ident.agreed.toNat p.1 = true → bitOf t.dev.ident.agreed.toNat p.2 = true) ∧
        OnlyOwl s.dev { t.dev with ident := s.dev.ident }) ∧
    ∀ (s : State) (b : List Byte), Serving s.dev b → field b 0 2 = 3 → layoutFault b (snapFields b) = none →
      1 ≤ field b 0x20 4 → field b 0x20 4 ≤ 504 → snapFault b (List.range (field b 0x20 4)) = none →
      ∃ t, exec .snapshot s = .next t ∧ Answered t.dev b 0 0 ∧ payload t.dev 8 = leBytes 8 s.atEdge.time.ft.toNat ∧
        (∀ i, i < field b 0x20 4 → field (response t.dev) (0x28 + 8 * i) 8 =
          readReg s.edgeBounds s.atEdge (field b (0x24 + 4 * i) 4) % 2 ^ 64) ∧ OnlyOwl s.dev t.dev

/-- O27. MEM_ALLOC, while any aligned range of the software range is free, hands out an aligned free range and notes it.
MEM_FREE of a range as handed out forgets exactly it. HOST_WINDOW_ADD of an aligned range takes one of the free numbers
below 64 and registers it. HOST_WINDOW_REMOVE of a window in which no ring and no event ring lies removes it and no
other. RESERVED_READ answers the records of the error log or the values of fences as they stand. TRACE_REGION while no
trace is active names the region. None changes a byte of device memory, and nothing but the unit named changes beside
counters. Completes: memAlloc, memFree, hostWindowAdd, hostWindowRemove, reservedRead, traceRegion. -/
def Obligations.MemoryAndWindowRequests : Prop :=
  (∀ (s : State) (b : List Byte) (a : Nat), Serving s.dev b → InOrder s.dev 0 [u 8, u 1] b → field b 0 2 = 0x10 →
    field b 0x20 8 ≠ 0 → field b 0x20 8 % 4096 = 0 → 12 ≤ field b 0x28 1 → field b 0x28 1 ≤ 40 →
    a % 2 ^ field b 0x28 1 = 0 → a + field b 0x20 8 ≤ softEnd → s.dev.rangeUsed a (field b 0x20 8) = false →
    ∃ t, exec .memAlloc s = .next t ∧ Answered t.dev b 0 0 ∧ OnlyOwl s.dev { t.dev with mem := s.dev.mem, free := s.dev.free } ∧ t.dev.mem.cells = s.dev.mem.cells ∧
      ∃ c, c % 2 ^ field b 0x28 1 = 0 ∧ c + field b 0x20 8 ≤ softEnd ∧ s.dev.rangeUsed c (field b 0x20 8) = false ∧
        t.dev.mem.allocs = s.dev.mem.allocs ++ [(c, field b 0x20 8)] ∧ payload t.dev 8 = leBytes 8 c) ∧
    (∀ (s : State) (b : List Byte), Serving s.dev b → InOrder s.dev 0 [u 8, u 8] b → field b 0 2 = 0x11 →
      field b 0x20 8 % 4096 = 0 → field b 0x28 8 ≠ 0 → field b 0x28 8 % 4096 = 0 →
      (field b 0x20 8, field b 0x28 8) ∈ s.dev.mem.allocs →
      ∃ t, exec .memFree s = .next t ∧ Answered t.dev b 0 0 ∧ OnlyOwl s.dev { t.dev with mem := s.dev.mem } ∧ t.dev.mem.cells = s.dev.mem.cells ∧
        t.dev.mem.allocs = s.dev.mem.allocs.erase (field b 0x20 8, field b 0x28 8)) ∧
    (∀ (s : State) (b : List Byte) (w : Nat), Serving s.dev b → InOrder s.dev 0 [u 8, u 8] b → field b 0 2 = 0x12 →
      field b 0x20 8 % 4096 = 0 → field b 0x28 8 ≠ 0 → field b 0x28 8 % 4096 = 0 → field b 0x20 8 + field b 0x28 8 ≤ 2 ^ 64 →
      w < 64 → (∀ x ∈ s.dev.mem.windows, x.1 ≠ w) →
      ∃ t, exec .hostWindowAdd s = .next t ∧ Answered t.dev b 0 0 ∧ OnlyOwl s.dev { t.dev with mem := s.dev.mem, free := s.dev.free } ∧ t.dev.mem.cells = s.dev.mem.cells ∧
        ∃ n < 64, (∀ x ∈ s.dev.mem.windows, x.1 ≠ n) ∧ payload t.dev 4 = leBytes 4 n ∧
          t.dev.mem.windows = s.dev.mem.windows ++ [(n, field b 0x20 8, field b 0x28 8)]) ∧
    (∀ (s : State) (b : List Byte) (w : Nat × Nat × Nat), Serving s.dev b → InOrder s.dev 0 [u 4] b → field b 0 2 = 0x13 →
      field b 0x20 4 < 64 → s.dev.mem.windows.find? (fun x => x.1 = field b 0x20 4) = some w → s.dev.ringIn w = none →
      s.dev.events.enable = false ∨ meets w s.dev.events.base.toNat (64 * 2 ^ s.dev.events.log2.toNat) = false →
      ∃ t, exec .hostWindowRemove s = .next t ∧ Answered t.dev b 0 0 ∧ OnlyOwl s.dev { t.dev with mem := s.dev.mem } ∧ t.dev.mem.cells = s.dev.mem.cells ∧
        t.dev.mem.windows = s.dev.mem.windows.filter (fun x => x.1 ≠ field b 0x20 4)) ∧
    (∀ (s : State) (b : List Byte), Serving s.dev b → field b 0 2 = 0x14 → layoutFault b [u 1, u 4, u 4] = none →
      1 ≤ field b 0x28 4 →
      (field b 0x20 1 = 0 → field b 0x24 4 + field b 0x28 4 ≤ 32768 → 32 * field b 0x28 4 ≤ 4064 →
        ∃ t, exec .reservedRead s = .next t ∧ Answered t.dev b 0 0 ∧ OnlyOwl s.dev t.dev ∧ t.dev.mem = s.dev.mem ∧
          payload t.dev (32 * field b 0x28 4) = s.dev.bytesAt (0xFF01080000 + 32 * field b 0x24 4) (32 * field b 0x28 4)) ∧
      (field b 0x20 1 = 1 → field b 0x24 4 + field b 0x28 4 ≤ 65536 → 8 * field b 0x28 4 ≤ 4064 →
        ∃ t, exec .reservedRead s = .next t ∧ Answered t.dev b 0 0 ∧ OnlyOwl s.dev t.dev ∧ t.dev.mem = s.dev.mem ∧
          ∀ i, i < field b 0x28 4 → field (response t.dev) (0x20 + 8 * i) 8 = (s.dev.fence (field b 0x24 4 + i)).value.toNat)) ∧
    ∀ (s : State) (b : List Byte), Serving s.dev b → s.dev.ident.negotiated = true → s.dev.agreed 12 = true →
      layoutFault b [u 8, u 8] = none → field b 0 2 = 0x90 → s.dev.mode.traceCtl.toNat % 4 = 0 → field b 0x20 8 % 4096 = 0 →
      2 ^ 20 ≤ field b 0x28 8 → field b 0x20 8 + field b 0x28 8 ≤ softEnd →
      ∃ t, exec .traceRegion s = .next t ∧ Answered t.dev b 0 0 ∧ OnlyOwl s.dev { t.dev with journal := s.dev.journal } ∧ t.dev.mem = s.dev.mem ∧
        t.dev.journal.region = some (field b 0x20 8, field b 0x28 8)

/-- O28. QUEUE_CREATE of an UNUSED number with a context in order makes a queue of that context, IDLE when the context
sets ENABLED and STOPPED otherwise, with no entry accepted and nothing running. QUEUE_MODIFY of a created queue sets its
priority, its window and its flags, of which the ring, persistence and RT flags may differ only while it is STOPPED;
ENABLED set on a STOPPED queue whose ring is reachable enables it, and cleared on an enabled one stops it, or drains it
while commands run. QUEUE_DELETE of a STOPPED queue bound to no task returns it to UNUSED. FENCE_REGISTER of a free
number gives it a producer and a value. FENCE_RELEASE of a registered fence that no running WAIT names frees it. Each
leaves every other queue or fence, and every other unit beside counters. Completes: queueCreate, queueModify,
queueDelete, fenceRegister, fenceRelease. -/
def Obligations.QueueAndFenceRequests : Prop :=
  (∀ (s : State) (b : List Byte), Serving s.dev b → InOrder s.dev 0 [u 4, blk 64] b → field b 0 2 = 0x20 →
    field b 0x20 4 < 2 ^ 18 → (s.dev.queue (field b 0x20 4)).state = .unused → contextFault s.dev (slice b 0x28 64) = none →
    ∃ t, exec .queueCreate s = .next t ∧ Answered t.dev b 0 0 ∧ OnlyOwl s.dev { t.dev with fe := s.dev.fe } ∧
      (t.dev.queue (field b 0x20 4)).state = (if bitOf (field b 0x31 1) 0 then .idle else .stopped) ∧
      (t.dev.queue (field b 0x20 4)).ringBase.toNat = field b 0x28 8 ∧ (t.dev.queue (field b 0x20 4)).ringLog2 = field b 0x30 1 ∧
      (t.dev.queue (field b 0x20 4)).priority.toNat = field b 0x32 1 ∧ (t.dev.queue (field b 0x20 4)).gen.toNat = field b 0x34 2 ∧
      (t.dev.queue (field b 0x20 4)).windowMs.toNat = field b 0x36 2 ∧ (t.dev.queue (field b 0x20 4)).avail = 0 ∧
      (t.dev.queue (field b 0x20 4)).retired = 0 ∧
      (t.dev.queue (field b 0x20 4)).inDevice = bitOf (field b 0x31 1) 1 ∧
      (t.dev.queue (field b 0x20 4)).persistent = bitOf (field b 0x31 1) 2 ∧
      (t.dev.queue (field b 0x20 4)).rtAllowed = bitOf (field b 0x31 1) 3 ∧ (t.dev.queue (field b 0x20 4)).slot = none ∧
      (t.dev.queue (field b 0x20 4)).task = none ∧ (t.dev.qrun (field b 0x20 4)).running = [] ∧ ∀ i, i ≠ field b 0x20 4 → t.dev.queue i = s.dev.queue i) ∧
    (∀ (s : State) (b : List Byte) (n fl : Nat) (x : Queue), Serving s.dev b → InOrder s.dev 0 [u 4, u 1, u 2, u 1] b →
      field b 0 2 = 0x21 → n = field b 0x20 4 → fl = field b 0x28 1 → x = s.dev.queue n → n < 2 ^ 18 → x.state ≠ .unused →
      field b 0x24 1 < 8 → fl < 16 → (bitOf fl 1 = true → s.dev.agreed 17 = true) →
      (x.state = .stopped ∨ (bitOf fl 1 = x.inDevice ∧ bitOf fl 2 = x.persistent ∧ bitOf fl 3 = x.rtAllowed)) →
      ∃ t, exec .queueModify s = .next t ∧ Answered t.dev b 0 0 ∧ (t.dev.queue n).priority.toNat = field b 0x24 1 ∧
        (t.dev.queue n).windowMs.toNat = field b 0x26 2 ∧ (t.dev.queue n).inDevice = bitOf fl 1 ∧
        (t.dev.queue n).persistent = bitOf fl 2 ∧ (t.dev.queue n).rtAllowed = bitOf fl 3 ∧
        (t.dev.queue n).started = x.started ∧ (t.dev.queue n).producer = x.producer ∧ (t.dev.queue n).retired = x.retired ∧
        t.dev.fe.fences = s.dev.fe.fences ∧ (∀ i, i ≠ n → t.dev.queue i = s.dev.queue i) ∧
        (bitOf fl 0 = x.enabled → (t.dev.queue n).state = x.state ∧ (t.dev.queue n).enabled = x.enabled) ∧
        (bitOf fl 0 = true → x.enabled = false → x.state = .stopped →
          bitOf fl 1 = true ∨ s.dev.inWindow x.ringBase.toNat (64 * x.ringSize) = true →
          (t.dev.queue n).enabled = true ∧ (t.dev.queue n).state = (if s.dev.hasWork n then .pending else .idle)) ∧
        (bitOf fl 0 = false → x.enabled = true → x.state ≠ .stopped → x.state ≠ .draining → (t.dev.queue n).enabled = false ∧
          (t.dev.queue n).state = (if s.dev.live n = [] then .stopped else .draining))) ∧
    (∀ (s : State) (b : List Byte), Serving s.dev b → InOrder s.dev 0 [u 4] b → field b 0 2 = 0x22 → field b 0x20 4 < 2 ^ 18 →
      (s.dev.queue (field b 0x20 4)).state = .stopped → (s.dev.queue (field b 0x20 4)).task = none →
      ∃ t, exec .queueDelete s = .next t ∧ Answered t.dev b 0 0 ∧ OnlyOwl s.dev { t.dev with fe := s.dev.fe } ∧ (t.dev.queue (field b 0x20 4)).state = .unused ∧
        ∀ i, i ≠ field b 0x20 4 → t.dev.queue i = s.dev.queue i) ∧
    (∀ (s : State) (b : List Byte), Serving s.dev b → InOrder s.dev 0 [u 4, u 4, u 8] b → field b 0 2 = 0x24 →
      field b 0x20 4 < 65536 → (s.dev.fence (field b 0x20 4)).registered = false → field b 0x24 4 < 2 ^ 18 →
      (s.dev.queue (field b 0x24 4)).state ≠ .unused →
      ∃ t, exec .fenceRegister s = .next t ∧ Answered t.dev b 0 0 ∧ OnlyOwl s.dev { t.dev with fe := s.dev.fe } ∧ t.dev.fe.queues = s.dev.fe.queues ∧ (t.dev.fence (field b 0x20 4)).registered = true ∧
        (t.dev.fence (field b 0x20 4)).producer.toNat = field b 0x24 4 ∧
        (t.dev.fence (field b 0x20 4)).value.toNat = field b 0x28 8 ∧ ∀ i, i ≠ field b 0x20 4 → t.dev.fence i = s.dev.fence i) ∧
    ∀ (s : State) (b : List Byte), Serving s.dev b → InOrder s.dev 0 [u 4] b → field b 0 2 = 0x25 → field b 0x20 4 < 65536 →
      (s.dev.fence (field b 0x20 4)).registered = true → s.dev.waitOn (field b 0x20 4) = none →
      ∃ t, exec .fenceRelease s = .next t ∧ Answered t.dev b 0 0 ∧ OnlyOwl s.dev { t.dev with fe := s.dev.fe } ∧ t.dev.fe.queues = s.dev.fe.queues ∧ (t.dev.fence (field b 0x20 4)).registered = false ∧
        ∀ i, i ≠ field b 0x20 4 → t.dev.fence i = s.dev.fence i

/-- O29. On a port that is not stuck a START fragment that is not LAST is held and the next fragment number is awaited;
the fragment awaited is added to what was gathered; one with a bad check byte drops it. A single fragment that is START
and LAST rings the port's mailbox: with the Owl serving and free and the SEQ in turn, its request is in service. A block
read of a port without a response gives the two bytes 0 and 2; with a response it gives the number of the fragment,
whether it is the last, and its up to 240 bytes, and the next read gives the next. A byte read gives STATE and REFUSED,
clears REFUSED and ends the alert. ENTDAA gives the I3C port its address. A stuck port takes nothing. Nothing but the
port and the frames it gives changes. Completes: mgmtBlockWrite, mgmtBlockRead, mgmtByteRead, entdaa. -/
def Obligations.ManagementPortsCarryFragments : Prop :=
  (∀ (s : State) (i : Bool) (f : Byte) (b : List Byte), s.dev.portStuck i = false → f.toNat ≤ 17 → 1 ≤ b.length → b.length ≤ 240 →
    ∃ t, exec (.mgmtBlockWrite i f false true b true) s = .next t ∧ (t.dev.mgmt i).gathered = some b ∧
      (t.dev.mgmt i).nextFrag = f.toNat + 1 ∧ (t.dev.mgmt i).mail = (s.dev.mgmt i).mail ∧ OnlyOwl s.dev t.dev) ∧
    (∀ (s : State) (i : Bool) (f : Byte) (g b : List Byte), s.dev.portStuck i = false → f.toNat ≤ 17 → 1 ≤ b.length →
      b.length ≤ 240 → (s.dev.mgmt i).gathered = some g → (s.dev.mgmt i).nextFrag = f.toNat →
      ∃ t, exec (.mgmtBlockWrite i f false false b true) s = .next t ∧ (t.dev.mgmt i).gathered = some (g ++ b) ∧
        (t.dev.mgmt i).nextFrag = f.toNat + 1 ∧ (t.dev.mgmt i).mail = (s.dev.mgmt i).mail ∧ OnlyOwl s.dev t.dev) ∧
    (∀ (s : State) (i : Bool) (f : Byte) (b : List Byte), s.dev.portStuck i = false → f.toNat ≤ 17 → 1 ≤ b.length → b.length ≤ 240 →
      s.dev.ident.owlReady = true → s.dev.owl.current = none → s.dev.owl.waiting = [] →
      ((s.dev.mgmt i).mail.state = .idle ∨ (s.dev.mgmt i).mail.state = .done) →
      BitVec.ofNat 32 (field b 4 4) = (s.dev.mgmt i).mail.lastSeq + 1 →
      ∃ t, exec (.mgmtBlockWrite i f true true b true) s = .next t ∧ (t.dev.mgmt i).mail.state = .busy ∧
        (t.dev.mgmt i).gathered = none ∧
        t.dev.owl.current = some { path := mgmtPath i, bytes := slice b 0 4096, injected := false }) ∧
    (∀ (s : State) (i l st : Bool) (f : Byte) (b : List Byte), s.dev.portStuck i = false →
      ∃ t, exec (.mgmtBlockWrite i f l st b false) s = .next t ∧ (t.dev.mgmt i).gathered = none ∧
        (t.dev.mgmt i).mail = (s.dev.mgmt i).mail ∧ OnlyOwl s.dev t.dev) ∧
    (∀ (s : State) (i : Bool), s.dev.portStuck i = false → (s.dev.mgmt i).mail.state ≠ .done →
      ∃ t, exec (.mgmtBlockRead i) s = .next t ∧ t.dev.out.mgmt = s.dev.out.mgmt ++ [(i, [0, 2])] ∧
        { t.dev with out := s.dev.out } = s.dev) ∧
    (∀ (s : State) (i : Bool) (n k : Nat), s.dev.portStuck i = false → (s.dev.mgmt i).mail.state = .done →
      k = (s.dev.mgmt i).readFrag → n = 32 + field (lookAll 0 (s.dev.mgmt i).mail.response 0 4) 2 2 →
      ∃ t, exec (.mgmtBlockRead i) s = .next t ∧ (t.dev.mgmt i).readFrag = (if n ≤ 240 * (k + 1) then 0 else k + 1) ∧
        t.dev.out.mgmt = s.dev.out.mgmt ++ [(i, [BitVec.ofNat 8 k, if n ≤ 240 * (k + 1) then 1 else 0] ++
          lookAll 0 (s.dev.mgmt i).mail.response (240 * k) (min 240 (n - 240 * k)))] ∧
        (t.dev.mgmt i).mail = (s.dev.mgmt i).mail ∧ OnlyOwl s.dev { t.dev with out := s.dev.out }) ∧
    (∀ (s : State) (i : Bool), s.dev.portStuck i = false →
      ∃ t, exec (.mgmtByteRead i) s = .next t ∧ (t.dev.mgmt i).alert = false ∧ (t.dev.mgmt i).mail.refused = false ∧
        (t.dev.mgmt i).mail.state = (s.dev.mgmt i).mail.state ∧
        t.dev.out.mgmt = s.dev.out.mgmt ++
          [(i, [BitVec.ofNat 8 ((s.dev.mgmt i).mail.state.code + 4 * b2n (s.dev.mgmt i).mail.refused)])] ∧
        OnlyOwl s.dev { t.dev with out := s.dev.out }) ∧
    (∀ (s : State) (a : BitVec 7), ∃ t, exec (.entdaa a) s = .next t ∧
      t.dev.owl = { s.dev.owl with i3c := { s.dev.owl.i3c with address := some a } } ∧ OnlyOwl s.dev t.dev) ∧
    ∀ (s : State) (i l st p : Bool) (f : Byte) (b : List Byte), s.dev.portStuck i = true →
      exec (.mgmtBlockWrite i f l st b p) s = .next s ∧ exec (.mgmtBlockRead i) s = .next s ∧ exec (.mgmtByteRead i) s = .next s

/-- O30. IMAGE_LOAD of an image that passes its checks under a free ID creates version 1 of it, in no use. IMAGE_PATCH
of a loaded image creates the version after its newest while at most sixteen stay live. IMAGE_UNLOAD of an image that no
task uses frees it at once when no launch uses a version of it, and otherwise marks it unloading. TASK_CREATE with
queues that no task holds and an image that can be placed binds the queues, pins the version and notes the task.
TASK_END of a task with no launch in hand frees the task and its queues, and no other queue. The requests on images
change no queue, and none but TASK_CREATE changes more than the front end and the choice of arbitration. Completes:
imageLoad, imagePatch, imageUnload, taskCreate, taskEnd. -/
def Obligations.ImageAndTaskRequests : Prop :=
  (∀ (s : State) (b : List Byte) (im : LoadImage), Serving s.dev b → InOrder s.dev 0 [u 4, u 8, u 8] b → field b 0 2 = 0x30 →
    field b 0x20 4 < 1024 → (s.dev.image (field b 0x20 4)).loaded = false → inSoft (field b 0x28 8) (field b 0x30 8) = true →
    imageFault s.dev im = none →
    ∃ t, exec (.imageLoad im) s = .next t ∧ Answered t.dev b 0 0 ∧ OnlyOwl s.dev { t.dev with fe := s.dev.fe, streams := s.dev.streams, free := s.dev.free } ∧ t.dev.fe.queues = s.dev.fe.queues ∧ payload t.dev 4 = leBytes 4 1 ∧
      (t.dev.image (field b 0x20 4)).loaded = true ∧ (t.dev.image (field b 0x20 4)).unloading = false ∧
      (t.dev.image (field b 0x20 4)).versions =
        [{ number := 1, state := .newest, users := 0, image := im, checkedDet := s.dev.mode.det }] ∧
      ∀ i, i ≠ field b 0x20 4 → t.dev.image i = s.dev.image i) ∧
    (∀ (s : State) (b : List Byte) (im : LoadImage) (top : Nat), Serving s.dev b → InOrder s.dev 11 [u 4, u 4, u 8, u 8] b →
      field b 0 2 = 0x31 → field b 0x20 4 < 1024 → 1 ≤ field b 0x24 4 → field b 0x24 4 ≤ 65535 →
      (s.dev.image (field b 0x20 4)).loaded = true → (s.dev.image (field b 0x20 4)).unloading = false →
      (∃ v ∈ (s.dev.image (field b 0x20 4)).versions, v.number = field b 0x24 4) →
      inSoft (field b 0x28 8) (field b 0x30 8) = true → imageFault s.dev im = none →
      top = ((s.dev.image (field b 0x20 4)).versions.map (·.number)).foldl max 0 → top < 65535 →
      (s.dev.image (field b 0x20 4)).versions.length < 16 →
      ∃ t, exec (.imagePatch im) s = .next t ∧ Answered t.dev b 0 0 ∧ OnlyOwl s.dev { t.dev with fe := s.dev.fe, streams := s.dev.streams, free := s.dev.free } ∧ t.dev.fe.queues = s.dev.fe.queues ∧ payload t.dev 4 = leBytes 4 (top + 1) ∧
        (∃ v ∈ (t.dev.image (field b 0x20 4)).versions, v.number = top + 1 ∧ v.state = .newest ∧ v.users = 0 ∧ v.image = im) ∧
        ∀ i, i ≠ field b 0x20 4 → t.dev.image i = s.dev.image i) ∧
    (∀ (s : State) (b : List Byte), Serving s.dev b → InOrder s.dev 0 [u 4] b → field b 0 2 = 0x32 → field b 0x20 4 < 1024 →
      (s.dev.image (field b 0x20 4)).loaded = true → s.dev.taskOn (field b 0x20 4) = none →
      ∃ t, exec .imageUnload s = .next t ∧ Answered t.dev b 0 0 ∧ OnlyOwl s.dev { t.dev with fe := s.dev.fe, streams := s.dev.streams } ∧ t.dev.fe.queues = s.dev.fe.queues ∧
        ((∀ v ∈ (s.dev.image (field b 0x20 4)).versions, v.users = 0) → (t.dev.image (field b 0x20 4)).loaded = false) ∧
        ((∃ v ∈ (s.dev.image (field b 0x20 4)).versions, v.users ≠ 0) → (t.dev.image (field b 0x20 4)).unloading = true ∧
          (t.dev.image (field b 0x20 4)).loaded = true) ∧
        ∀ i, i ≠ field b 0x20 4 → t.dev.image i = s.dev.image i) ∧
    (∀ (s : State) (b : List Byte) (v : ImageVersion), Serving s.dev b → InOrder s.dev 10 (taskFields b) b → field b 0 2 = 0x33 →
      field b 0x20 4 < 256 → field b 0x24 4 < 1024 → 1 ≤ field b 0x28 4 → field b 0x28 4 ≤ 65535 → 1 ≤ field b 0x2C 4 →
      field b 0x2C 4 ≤ 64 → (s.dev.task (field b 0x20 4)).present = false → (s.dev.image (field b 0x24 4)).loaded = true →
      (s.dev.image (field b 0x24 4)).unloading = false → queuesFault s.dev (taskQueues b) 0x30 = none →
      (s.dev.image (field b 0x24 4)).versions.find? (fun x => x.number = field b 0x28 4) = some v →
      (s.dev.mode.det = true → v.checkedDet = true) →
      (∀ c ∈ v.image.cores, (s.dev.placeOf c.toNat).isSome = true ∧ s.dev.coreBusy c.toNat = false) →
      ∃ t, exec .taskCreate s = .next t ∧ Answered t.dev b 0 0 ∧ (t.dev.task (field b 0x20 4)).present = true ∧
        (t.dev.task (field b 0x20 4)).image = field b 0x24 4 ∧ (t.dev.task (field b 0x20 4)).version = field b 0x28 4 ∧
        (t.dev.task (field b 0x20 4)).queues = taskQueues b ∧
        (∀ q ∈ taskQueues b, (t.dev.queue q).task = some (BitVec.ofNat 8 (field b 0x20 4)) ∧ (t.dev.queue q).persistent = true) ∧
        ∀ q, q ∉ taskQueues b → t.dev.queue q = s.dev.queue q) ∧
    ∀ (s : State) (b : List Byte), Serving s.dev b → InOrder s.dev 10 [u 4] b → field b 0 2 = 0x34 → field b 0x20 4 < 256 →
      (s.dev.task (field b 0x20 4)).present = true → (s.dev.task (field b 0x20 4)).running = none →
      (s.dev.task (field b 0x20 4)).halves = [] →
      ∃ t, exec .taskEnd s = .next t ∧ Answered t.dev b 0 0 ∧ OnlyOwl s.dev { t.dev with fe := s.dev.fe, streams := s.dev.streams } ∧ (t.dev.task (field b 0x20 4)).present = false ∧
        (∀ q ∈ (s.dev.task (field b 0x20 4)).queues, (t.dev.queue q).task = none) ∧
        (∀ q, q ∉ (s.dev.task (field b 0x20 4)).queues → t.dev.queue q = s.dev.queue q) ∧
        ∀ i, i ≠ field b 0x20 4 → t.dev.task i = s.dev.task i

/-- O31. ENSEMBLE_CREATE of a free ID makes an ensemble with no current version. ENSEMBLE_PUBLISH of an image that reads
and that no check refuses, while no GROW waits for its publication, makes the version after the current one current,
with what was read, and answers its number; no other ensemble and no batch changes. ENSEMBLE_DELETE leaves the ID free.
ENSEMBLE_READ answers the current version and how many are live, and changes nothing. Completes: ensembleCreate,
ensemblePublish, ensembleDelete, ensembleRead. -/
def Obligations.EnsembleRequests : Prop :=
  (∀ (s : State) (b : List Byte), Serving s.dev b → InOrder s.dev 3 [u 4] b → field b 0 2 = 0x40 → field b 0x20 4 < 4096 →
    (s.dev.ens (field b 0x20 4)).present = false →
    ∃ t, exec .ensembleCreate s = .next t ∧ Answered t.dev b 0 0 ∧ OnlyOwl s.dev { t.dev with scoring := s.dev.scoring } ∧ t.dev.scoring.groups = s.dev.scoring.groups ∧ (t.dev.ens (field b 0x20 4)).present = true ∧
      (t.dev.ens (field b 0x20 4)).current = 0 ∧ ∀ i, i ≠ field b 0x20 4 → t.dev.ens i = s.dev.ens i) ∧
    (∀ (s : State) (b : List Byte) (x : Ensemble), Serving s.dev b → InOrder s.dev 3 [u 4, u 4, u 8] b → field b 0 2 = 0x41 →
      field b 0x20 4 < 4096 → (s.dev.ens (field b 0x20 4)).present = true → field b 0x28 8 % 256 = 0 →
      inSoft (field b 0x28 8) 256 = true → inSoft (field b 0x28 8) (field (s.dev.bytesAt (field b 0x28 8) 256) 0x20 8) = true →
      NoRetry s.dev → readImage s.dev (field b 0x28 8) = some x →
      publishCode s.dev (field b 0x20 4) (some x) (BitVec.ofNat 32 (field b 0x24 4)) false false false = 0 →
      ∃ t, exec .ensemblePublish s = .next t ∧ Answered t.dev b 0 0 ∧ OnlyOwl s.dev { t.dev with scoring := s.dev.scoring, mem := s.dev.mem, journal := s.dev.journal } ∧ t.dev.scoring.groups = s.dev.scoring.groups ∧
        (t.dev.ens (field b 0x20 4)).current = (s.dev.ens (field b 0x20 4)).current + 1 ∧
        payload t.dev 4 = leBytes 4 (t.dev.ens (field b 0x20 4)).current.toNat ∧
        (∃ v ∈ (t.dev.ens (field b 0x20 4)).versions, v.number = (t.dev.ens (field b 0x20 4)).current ∧ v.content = x ∧ v.batches = 0 ∧
          v.era = (s.dev.ens (field b 0x20 4)).era) ∧
        ∀ i, i ≠ field b 0x20 4 → t.dev.ens i = s.dev.ens i) ∧
    (∀ (s : State) (b : List Byte), Serving s.dev b → InOrder s.dev 3 [u 4] b → field b 0 2 = 0x42 → field b 0x20 4 < 4096 →
      (s.dev.ens (field b 0x20 4)).present = true →
      ∃ t, exec .ensembleDelete s = .next t ∧ Answered t.dev b 0 0 ∧ (t.dev.ens (field b 0x20 4)).present = false ∧
        (t.dev.ens (field b 0x20 4)).current = 0 ∧ t.bounds = s.bounds) ∧
    ∀ (s : State) (b : List Byte), Serving s.dev b → s.dev.ident.negotiated = true → s.dev.agreed 3 = true →
      layoutFault b [u 4] = none → field b 0 2 = 0x43 → field b 0x20 4 < 4096 → (s.dev.ens (field b 0x20 4)).present = true →
      ∃ t, exec .ensembleRead s = .next t ∧ Answered t.dev b 0 0 ∧ OnlyOwl s.dev t.dev ∧
        payload t.dev 8 = leBytes 4 (s.dev.ens (field b 0x20 4)).current.toNat ++
          leBytes 4 (s.dev.ens (field b 0x20 4)).live.length

/-- O32. TABLE_CREATE of a descriptor in order, with frames free for its pages and its directory, staging slots and undo
log in every channel, makes a table of it with those areas and no row staged, and gives each of its local pages a frame
in the page's home channel, unpinned. TABLE_DELETE of a table with no step open frees it. TABLE_PAGES answers the device
addresses of the pages named and changes nothing. PIN adds its range and target to the table's pins, and UNPIN takes the
range out of them and clears PINNED of its pages; neither moves a page. PLACEMENT sets its two bounds. Each leaves every
other table and every unit but the tables and the stacks, beside counters. Completes: tableCreate, tableDelete,
tablePages, pin, unpin, placement. -/
def Obligations.TableRequests : Prop :=
  (∀ (s : State) (b : List Byte) (n : Nat), Serving s.dev b → InOrder s.dev 5 [u 4, blk 64] b → field b 0 2 = 0x50 → n = field b 0x20 4 →
    n < 1024 → (s.dev.table n).desc = none → tableFault s.dev (slice b 0x28 64) = none →
    ((parseTable (slice b 0x28 64)).stage = 2 → s.dev.agreed 2 = true) →
    ((parseTable (slice b 0x28 64)).fmt = 3 → s.dev.agreed 20 = true) →
    (∀ k, k < 256 → s.dev.hasFrames k (homePages n (s.dev.localPages (parseTable (slice b 0x28 64))) k +
      areaFrames n (parseTable (slice b 0x28 64)) (s.dev.localPages (parseTable (slice b 0x28 64))) k) = true) →
    ∃ t, exec .tableCreate s = .next t ∧ Answered t.dev b 0 0 ∧ OnlyOwl s.dev { t.dev with embed := s.dev.embed, mem := s.dev.mem, free := s.dev.free } ∧ t.dev.embed.engines = s.dev.embed.engines ∧ (t.dev.table n).desc = some (parseTable (slice b 0x28 64)) ∧
      (t.dev.table n).step = none ∧ (t.dev.table n).pins = [] ∧ (t.dev.table n).staging = [] ∧
      (∀ k, k < 256 → ((look [] (t.dev.table n).areas k).map (·.2)).sum =
        areaFrames n (parseTable (slice b 0x28 64)) (s.dev.localPages (parseTable (slice b 0x28 64))) k) ∧
      (∀ q, q < s.dev.localPages (parseTable (slice b 0x28 64)) →
        ∃ g : Page, look none (t.dev.table n).pages q = some g ∧ g.channel.toNat = homeChannel n q ∧ g.pinned = false) ∧
      ∀ i, i ≠ n → t.dev.table i = s.dev.table i) ∧
    (∀ (s : State) (b : List Byte), Serving s.dev b → InOrder s.dev 5 [u 4] b → field b 0 2 = 0x51 → field b 0x20 4 < 1024 →
      (s.dev.table (field b 0x20 4)).desc.isSome = true → (s.dev.table (field b 0x20 4)).step = none →
      ∃ t, exec .tableDelete s = .next t ∧ Answered t.dev b 0 0 ∧ OnlyOwl s.dev { t.dev with embed := s.dev.embed } ∧ t.dev.embed.engines = s.dev.embed.engines ∧ t.dev.table (field b 0x20 4) = Table.reset ∧
        ∀ i, i ≠ field b 0x20 4 → t.dev.table i = s.dev.table i) ∧
    (∀ (s : State) (b : List Byte) (x : TableDesc), Serving s.dev b → InOrder s.dev 5 [u 4, u 8, u 4] b → field b 0 2 = 0x55 →
      field b 0x20 4 < 1024 → (s.dev.table (field b 0x20 4)).desc = some x → 1 ≤ field b 0x30 4 → field b 0x30 4 ≤ 500 →
      field b 0x28 8 + field b 0x30 4 ≤ s.dev.localPages x → (s.dev.table (field b 0x20 4)).step = none →
      ∃ t, exec .tablePages s = .next t ∧ Answered t.dev b 0 0 ∧ OnlyOwl s.dev t.dev ∧ t.dev.embed = s.dev.embed ∧
        ∀ i, i < field b 0x30 4 → field (response t.dev) (0x20 + 8 * i) 8 =
          s.dev.rowAddr (field b 0x20 4) x ((field b 0x28 8 + i) * x.rpp) % 2 ^ 64) ∧
    (∀ (s : State) (b : List Byte) (x : TableDesc), Serving s.dev b → InOrder s.dev 5 [u 4, u 8, u 8, u 1] b → field b 0 2 = 0x52 →
      field b 0x20 4 < 1024 → (s.dev.table (field b 0x20 4)).desc = some x → field b 0x38 1 < 8 ∨ field b 0x38 1 = 0xFF →
      (pinRange s.dev x b).1 + (pinRange s.dev x b).2 ≤ s.dev.localPages x →
      ∃ t, exec .pin s = .next t ∧ Answered t.dev b 0 0 ∧ OnlyOwl s.dev { t.dev with embed := s.dev.embed } ∧ (t.dev.table (field b 0x20 4)).pages = (s.dev.table (field b 0x20 4)).pages ∧
        (t.dev.table (field b 0x20 4)).pins.getLast? =
          some { first := (pinRange s.dev x b).1, pages := (pinRange s.dev x b).2, target := BitVec.ofNat 8 (field b 0x38 1) } ∧
        ∀ i, i ≠ field b 0x20 4 → t.dev.table i = s.dev.table i) ∧
    (∀ (s : State) (b : List Byte) (x : TableDesc), Serving s.dev b → InOrder s.dev 5 [u 4, u 8, u 8] b → field b 0 2 = 0x53 →
      field b 0x20 4 < 1024 → (s.dev.table (field b 0x20 4)).desc = some x →
      (pinRange s.dev x b).1 + (pinRange s.dev x b).2 ≤ s.dev.localPages x →
      ∃ t, exec .unpin s = .next t ∧ Answered t.dev b 0 0 ∧ OnlyOwl s.dev { t.dev with embed := s.dev.embed, mem := s.dev.mem } ∧
        (∀ q, (pinRange s.dev x b).1 ≤ q → q < (pinRange s.dev x b).1 + (pinRange s.dev x b).2 →
          look none (t.dev.table (field b 0x20 4)).pages q =
            (look none (s.dev.table (field b 0x20 4)).pages q).map (fun g => { g with pinned := false })) ∧
        (∀ p ∈ (t.dev.table (field b 0x20 4)).pins, 0 < p.pages →
          p.first + p.pages ≤ (pinRange s.dev x b).1 ∨ (pinRange s.dev x b).1 + (pinRange s.dev x b).2 ≤ p.first) ∧
        ∀ i, i ≠ field b 0x20 4 → t.dev.table i = s.dev.table i) ∧
    ∀ (s : State) (b : List Byte), Serving s.dev b → InOrder s.dev 6 [u 4, u 4] b → field b 0 2 = 0x54 →
      isFin32 (field b 0x20 4) = true → cmpElem .lf32 .ge (field b 0x20 4) 0x3F800000 = true →
      cmpElem .lf32 .le (field b 0x20 4) 0x41800000 = true → field b 0x24 4 ≤ 4096 →
      ∃ t, exec .placement s = .next t ∧ Answered t.dev b 0 0 ∧ OnlyOwl s.dev { t.dev with embed := s.dev.embed } ∧ t.dev.embed.engines = s.dev.embed.engines ∧ t.dev.embed.placeRatio.toNat = field b 0x20 4 ∧
        t.dev.embed.placeMoves.toNat = field b 0x24 4 ∧ t.dev.embed.tables = s.dev.embed.tables

/-- O33. PORT_SET of a configuration in order on a link that is free becomes the port's configuration with nothing
received or queued, and the link is in state ETHERNET with ENABLE clear. PORT_SET with CLEAR of a configured port that
no enabled entry names removes the configuration and leaves the link DISABLED. PCS lock gained on a configured port that
is not UP sets UP and PCS lock lost on one that is UP clears it, and each change makes the cause of MSI-X vector 6
arise; where UP is so already, or the link is no Ethernet port, neither does anything. Every other port and link is as
it was, and every other unit beside counters. Completes: portSet, portClear, pcsLockGained, pcsLockLost. -/
def Obligations.PortRequests : Prop :=
  (∀ (s : State) (b : List Byte), Serving s.dev b → InOrder s.dev 8 [u 4, u 1, blk 64] b → field b 0 2 = 0x60 → field b 0x24 1 = 0 →
    field b 0x20 4 < 8 → portFault s.dev (field b 0x20 4) (slice b 0x28 64) = none →
    (bitOf (parsePort (slice b 0x28 64)).flags.toNat 2 = true → s.dev.agreed 9 = true) →
    inSoft (parsePort (slice b 0x28 64)).rxAddr.toNat (parsePort (slice b 0x28 64)).rxBytes.toNat = true →
    inSoft (parsePort (slice b 0x28 64)).txAddr.toNat (parsePort (slice b 0x28 64)).txBytes.toNat = true →
    portBusy s.dev (field b 0x20 4) = none →
    ∃ t, exec .portSet s = .next t ∧ Answered t.dev b 0 0 ∧ 
      OnlyOwl s.dev { t.dev with fabric := { t.dev.fabric with links := s.dev.fabric.links }, service := { t.dev.service with ports := s.dev.service.ports } } ∧
      (t.dev.port (field b 0x20 4)).cfg = some (parsePort (slice b 0x28 64)) ∧ (t.dev.port (field b 0x20 4)).rxUsed = 0 ∧
      (t.dev.port (field b 0x20 4)).tx = [] ∧ (t.dev.link (field b 0x20 4)).reg.state = .ethernet ∧
      (t.dev.link (field b 0x20 4)).reg.enable = false ∧
      ∀ i, i ≠ field b 0x20 4 → t.dev.port i = s.dev.port i ∧ t.dev.link i = s.dev.link i) ∧
    (∀ (s : State) (b : List Byte), Serving s.dev b → InOrder s.dev 8 [u 4, u 1, blk 64] b → field b 0 2 = 0x60 → field b 0x24 1 = 1 →
      restFault b 0x28 64 = none → portBusy s.dev (field b 0x20 4) = none → (s.dev.port (field b 0x20 4)).cfg.isSome = true →
      ∃ t, exec .portClear s = .next t ∧ Answered t.dev b 0 0 ∧ 
        OnlyOwl s.dev { t.dev with fabric := { t.dev.fabric with links := s.dev.fabric.links }, service := { t.dev.service with ports := s.dev.service.ports } } ∧ (t.dev.port (field b 0x20 4)).cfg = none ∧
        (t.dev.port (field b 0x20 4)).tx = [] ∧ (t.dev.link (field b 0x20 4)).reg.state = .disabled ∧
        (t.dev.link (field b 0x20 4)).reg.enable = false ∧
        ∀ i, i ≠ field b 0x20 4 → t.dev.port i = s.dev.port i ∧ t.dev.link i = s.dev.link i) ∧
    (∀ (s : State) (p : Fin 8), (s.dev.link p.val).reg.state = .ethernet → (s.dev.port p.val).cfg.isSome = true →
      (s.dev.port p.val).up = false →
      ∃ t, exec (.pcsLockGained p) s = .next t ∧ (t.dev.port p.val).up = true ∧ bitOf t.dev.mode.msixCause.toNat 6 = true ∧
        (∀ i, i ≠ p.val → t.dev.port i = s.dev.port i) ∧ beside s.dev { t.dev with service := { t.dev.service with ports := s.dev.service.ports } } = s.dev) ∧
    (∀ (s : State) (p : Fin 8), (s.dev.link p.val).reg.state ≠ .ethernet ∨ (s.dev.port p.val).cfg = none ∨ (s.dev.port p.val).up = true →
      exec (.pcsLockGained p) s = .next s) ∧
    (∀ (s : State) (p : Fin 8), (s.dev.port p.val).up = false → exec (.pcsLockLost p) s = .next s) ∧
    ∀ (s : State) (p : Fin 8), (s.dev.port p.val).up = true →
      ∃ t, exec (.pcsLockLost p) s = .next t ∧ (t.dev.port p.val).up = false ∧ bitOf t.dev.mode.msixCause.toNat 6 = true ∧
        (∀ i, i ≠ p.val → t.dev.port i = s.dev.port i) ∧ beside s.dev { t.dev with service := { t.dev.service with ports := s.dev.service.ports } } = s.dev

/-- O34. SERVICE_WRITE of a DISABLED entry gives it the contents of the request. SERVICE_ENABLE of a written DISABLED
entry that no check refuses enables it with the layout at its layout address and no batch. SERVICE_DISABLE of an enabled
entry that has a group leaves it DISABLED when no work of it is left and DRAINING from now on otherwise, with the
datagrams it holds; of an entry that is not enabled it changes nothing. SERVICE_READ answers the state and the contents
and changes nothing. SERVICE_DELETE of a written DISABLED entry empties it. Each leaves every other entry. Completes:
serviceWrite, serviceEnable, serviceDisable, serviceRead, serviceDelete. -/
def Obligations.ServiceTableRequests : Prop :=
  (∀ (s : State) (b : List Byte), Serving s.dev b → InOrder s.dev 8 [u 4, blk 64] b → field b 0 2 = 0x61 → field b 0x20 4 < 4096 →
    (s.dev.serv (field b 0x20 4)).state = .disabled →
    ∃ t, exec .serviceWrite s = .next t ∧ Answered t.dev b 0 0 ∧ OnlyOwl s.dev { t.dev with service := { t.dev.service with services := s.dev.service.services } } ∧
      (t.dev.serv (field b 0x20 4)).cfg = some (parseEntry (slice b 0x28 64)) ∧
      (t.dev.serv (field b 0x20 4)).raw = slice b 0x28 64 ∧ (t.dev.serv (field b 0x20 4)).state = .disabled ∧
      ∀ i, i ≠ field b 0x20 4 → t.dev.serv i = s.dev.serv i) ∧
    (∀ (s : State) (b : List Byte) (x : ServiceCfg) (l : Layout), Serving s.dev b → InOrder s.dev 8 [u 4] b → field b 0 2 = 0x62 →
      field b 0x20 4 < 4096 → (s.dev.serv (field b 0x20 4)).cfg = some x → (s.dev.serv (field b 0x20 4)).state = .disabled →
      l = parseLayout (s.dev.bytesAt x.layoutAddr.toNat 64) →
      entryFault s.dev (field b 0x20 4) x l (decide (0 < s.dev.poisonedIn x.layoutAddr.toNat 64)) = none →
      (bitOf x.eflags.toNat 0 = true → s.dev.agreed 14 = true) → (bitOf x.eflags.toNat 1 = true → s.dev.agreed 15 = true) →
      ∃ t, exec .serviceEnable s = .next t ∧ Answered t.dev b 0 0 ∧ OnlyOwl s.dev { t.dev with service := { t.dev.service with services := s.dev.service.services }, health := s.dev.health } ∧ (t.dev.serv (field b 0x20 4)).state = .enabled ∧
        (t.dev.serv (field b 0x20 4)).layout = some l ∧ (t.dev.serv (field b 0x20 4)).cfg = some x ∧
        (t.dev.serv (field b 0x20 4)).openBatch = [] ∧ (t.dev.serv (field b 0x20 4)).closed = [] ∧
        ∀ i, i ≠ field b 0x20 4 → t.dev.serv i = s.dev.serv i) ∧
    (∀ (s : State) (b : List Byte), Serving s.dev b → InOrder s.dev 8 [u 4] b → field b 0 2 = 0x63 → field b 0x20 4 < 4096 →
      (s.dev.serv (field b 0x20 4)).cfg.isSome = true →
      ((s.dev.serv (field b 0x20 4)).state = .enabled → s.dev.noGroups (field b 0x20 4) = false →
        ∃ t, exec .serviceDisable s = .next t ∧ Answered t.dev b 0 0 ∧
          ((s.dev.serv (field b 0x20 4)).inFlight = 0 ∧ (s.dev.serv (field b 0x20 4)).openBatch = [] ∧
              (s.dev.serv (field b 0x20 4)).closed = [] ∧ s.dev.scoresOn (field b 0x20 4) = false →
            (t.dev.serv (field b 0x20 4)).state = .disabled) ∧
          ((s.dev.serv (field b 0x20 4)).inFlight ≠ 0 ∨ (s.dev.serv (field b 0x20 4)).openBatch ≠ [] ∨
              (s.dev.serv (field b 0x20 4)).closed ≠ [] ∨ s.dev.scoresOn (field b 0x20 4) = true →
            (t.dev.serv (field b 0x20 4)).state = .draining ∧ (t.dev.serv (field b 0x20 4)).drainAt = s.dev.time.ft) ∧
          (t.dev.serv (field b 0x20 4)).openBatch = (s.dev.serv (field b 0x20 4)).openBatch ∧
          ∀ i, i ≠ field b 0x20 4 → t.dev.serv i = s.dev.serv i) ∧
      ((s.dev.serv (field b 0x20 4)).state ≠ .enabled →
        ∃ t, exec .serviceDisable s = .next t ∧ Answered t.dev b 0 0 ∧ OnlyOwl s.dev t.dev)) ∧
    (∀ (s : State) (b : List Byte), Serving s.dev b → layoutFault b [u 4] = none → field b 0 2 = 0x64 → field b 0x20 4 < 4096 →
      (s.dev.serv (field b 0x20 4)).cfg.isSome = true →
      ∃ t, exec .serviceRead s = .next t ∧ Answered t.dev b 0 0 ∧ OnlyOwl s.dev t.dev ∧ t.dev.service = s.dev.service ∧
        payload t.dev 72 = BitVec.ofNat 8 (s.dev.serv (field b 0x20 4)).state.code :: zeros 7 ++
          slice (s.dev.serv (field b 0x20 4)).raw 0 64) ∧
    ∀ (s : State) (b : List Byte), Serving s.dev b → InOrder s.dev 8 [u 4] b → field b 0 2 = 0x65 → field b 0x20 4 < 4096 →
      (s.dev.serv (field b 0x20 4)).cfg.isSome = true → (s.dev.serv (field b 0x20 4)).state = .disabled →
      ∃ t, exec .serviceDelete s = .next t ∧ Answered t.dev b 0 0 ∧ OnlyOwl s.dev { t.dev with service := { t.dev.service with services := s.dev.service.services } } ∧ t.dev.serv (field b 0x20 4) = Service.reset ∧
        ∀ i, i ≠ field b 0x20 4 → t.dev.serv i = s.dev.serv i

/-- O35. FABRIC_CONFIG of a box in order at quiescence makes the module part of a fabric of that box, at that place,
with that wrap and source of time. COLLECTIVE_GROUP of a free number and a box inside the fabric makes a group of
exactly that box, before its first barrier. CLEAR of a group that no job and no BARRIER uses removes it. A group request
leaves every other group, and none changes more than the fabric and its time, beside counters. Completes: fabricConfig,
collectiveGroup, collectiveGroupClear. -/
def Obligations.FabricAndGroupRequests : Prop :=
  (∀ (s : State) (b : List Byte), Serving s.dev b → InOrder s.dev 16 [u 1, u 1, u 1, u 1, u 1, u 1, u 1, u 2] b → field b 0 2 = 0x70 →
    fabricFault b = none → s.dev.quiescent = true →
    ∃ t, exec .fabricConfig s = .next t ∧ Answered t.dev b 0 0 ∧ OnlyOwl s.dev { t.dev with fabric := s.dev.fabric, time := s.dev.time } ∧ t.dev.fabric.cfg.configured = true ∧
      t.dev.fabric.cfg.sizeX = field b 0x20 1 ∧ t.dev.fabric.cfg.sizeY = field b 0x21 1 ∧ t.dev.fabric.cfg.sizeZ = field b 0x22 1 ∧
      t.dev.fabric.cfg.wrap.toNat = field b 0x23 1 ∧
      t.dev.fabric.cfg.moduleId.toNat = moduleAt (field b 0x24 1) (field b 0x25 1) (field b 0x26 1) ∧
      t.dev.fabric.cfg.timeSource.toNat = field b 0x28 2 ∧ t.dev.fabric.groups = s.dev.fabric.groups) ∧
    (∀ (s : State) (b : List Byte), Serving s.dev b → InOrder s.dev 16 groupFields b → field b 0 2 = 0x71 → field b 0x24 1 = 0 →
      field b 0x20 4 < 4095 → (s.dev.group (field b 0x20 4)).box = none →
      field b 0x25 1 ≤ field b 0x26 1 → field b 0x26 1 < s.dev.fabric.cfg.sizeX →
      field b 0x27 1 ≤ field b 0x28 1 → field b 0x28 1 < s.dev.fabric.cfg.sizeY →
      field b 0x29 1 ≤ field b 0x2A 1 → field b 0x2A 1 < s.dev.fabric.cfg.sizeZ →
      ∃ t, exec .collectiveGroup s = .next t ∧ Answered t.dev b 0 0 ∧ OnlyOwl s.dev { t.dev with fabric := { t.dev.fabric with groups := s.dev.fabric.groups } } ∧
        (t.dev.group (field b 0x20 4)).box = some { loX := field b 0x25 1, hiX := field b 0x26 1, loY := field b 0x27 1, hiY := field b 0x28 1, loZ := field b 0x29 1, hiZ := field b 0x2A 1 } ∧
        ∀ i, i ≠ field b 0x20 4 → t.dev.group i = s.dev.group i) ∧
    ∀ (s : State) (b : List Byte), Serving s.dev b → InOrder s.dev 16 groupFields b → field b 0 2 = 0x71 → field b 0x24 1 = 1 →
      field b 0x20 4 < 4095 → (s.dev.group (field b 0x20 4)).box.isSome = true → s.dev.groupUser (field b 0x20 4) = none →
      ∃ t, exec .collectiveGroupClear s = .next t ∧ Answered t.dev b 0 0 ∧ OnlyOwl s.dev { t.dev with fabric := { t.dev.fabric with groups := s.dev.fabric.groups } } ∧ t.dev.group (field b 0x20 4) = Group.reset ∧
        ∀ i, i ≠ field b 0x20 4 → t.dev.group i = s.dev.group i

/-- O36. POWER_BOUNDS in order sets each bound that its field gives, in watts, in steps of 25 MHz and in rows, leaves a
bound whose field is 0 (0xFF for the row floor), answers the four bounds in force after it and leaves the memory bounds;
on an ACTIVE module the rows of the floor are awake. HEALTH_READ answers the 112 bytes of the health record, with the
power state, the input, P1 and the awake rows as they stand, and changes nothing. Completes: powerBounds, healthRead. -/
def Obligations.PowerAndHealthRequests : Prop :=
  (∀ (s : State) (b : List Byte), Serving s.dev b → InOrder s.dev 0 [u 2, u 2, u 2, u 1, u 1] b → field b 0 2 = 0x80 →
    boundsFault b = none →
    ∃ t, exec .powerBounds s = .next t ∧ Answered t.dev b 0 0 ∧ 
      OnlyOwl s.dev { t.dev with health := s.dev.health } ∧
      (s.dev.power.state = .active → ∀ r ∈ s.dev.openRows.take t.bounds.rowFloor.toNat, (t.dev.row r).awake = true) ∧
      t.bounds.ceilingW.toNat = (if field b 0x20 2 = 0 then s.bounds.ceilingW.toNat else field b 0x20 2) ∧
      t.bounds.floorStep.toNat = (if field b 0x22 2 = 0 then s.bounds.floorStep.toNat else field b 0x22 2 / 25) ∧
      t.bounds.ceilingStep.toNat = (if field b 0x24 2 = 0 then s.bounds.ceilingStep.toNat else field b 0x24 2 / 25) ∧
      t.bounds.rowFloor.toNat = (if field b 0x26 1 = 0xFF then s.bounds.rowFloor.toNat else field b 0x26 1) ∧
      t.bounds.scrubHours = s.bounds.scrubHours ∧ t.bounds.correctLimit = s.bounds.correctLimit ∧
      t.bounds.writeback = s.bounds.writeback ∧ t.bounds.innerThreshold = s.bounds.innerThreshold ∧
      payload t.dev 7 = leBytes 2 t.bounds.ceilingW.toNat ++ leBytes 2 (25 * t.bounds.floorStep.toNat) ++
        leBytes 2 (25 * t.bounds.ceilingStep.toNat) ++ leBytes 1 t.bounds.rowFloor.toNat) ∧
    ∀ (s : State) (b : List Byte), Serving s.dev b → layoutFault b [] = none → field b 0 2 = 0x82 →
      ∃ t, exec .healthRead s = .next t ∧ Answered t.dev b 0 0 ∧ OnlyOwl s.dev t.dev ∧ t.dev.power = s.dev.power ∧ t.dev.health = s.dev.health ∧
        payload t.dev 112 = healthRecord s.dev ∧ field (response t.dev) 0x20 1 = s.dev.power.state.code ∧
        field (response t.dev) 0x24 4 = s.dev.power.inputMv.toNat ∧ field (response t.dev) 0x2C 2 = s.dev.power.p1.toNat ∧
        field (response t.dev) 0x32 1 = s.dev.awakeRows % 256

/-- O37. On a module with no job, no scoring group and no service entry in place: FENCE of a healthy position leaves its
entry fenced with CAUSE 5 and LOGICAL 0x7FF, and the map epoch rises by one when the position carried a logical core and
its row has not changed in the same Den cycle. UNFENCE of a position that software fenced returns it to health with
CAUSE 0 and clears ROW_FENCED of its row. FENCE_ROW sets ROW_FENCED and leaves every position of the row fenced. A fault
in service fences the position with its cause, and with cause 3 or 4 every position of its row takes that cause; any
other cause fences that position alone. A position of another row keeps its state and cause in each case. FENCE, and a
fault of another cause, change nothing at a position that is fenced already; no fault fences before the map is built.
Completes: fence, unfence, fenceRow, coreFaultFence. -/
def Obligations.FencesOfPositions : Prop :=
  (∀ (s : State) (b : List Byte) (p : Nat), Serving s.dev b → InOrder s.dev 0 [u 1, u 1, u 1, u 1] b → field b 0 2 = 0x81 →
    s.dev.mesh.jobs = [] → s.dev.scoring.groups = [] → s.dev.service.services = [] → field b 0x20 1 = 0 →
    fenceFault s.dev b = none → p = 42 * field b 0x21 1 + field b 0x22 1 → s.dev.fenced p = false →
    ∃ t, exec .fence s = .next t ∧ Answered t.dev b 0 0 ∧ t.dev.fenced p = true ∧ (t.dev.core p).entry.cause = 5 ∧
      (t.dev.core p).entry.logical = 0x7FF ∧
      (∀ c, s.dev.placeOf c = some p → p / 42 ∉ s.dev.cycle.rows → t.dev.mesh.epoch = s.dev.mesh.epoch + 1) ∧
      ∀ i, i / 42 ≠ p / 42 → (t.dev.core i).entry.state = (s.dev.core i).entry.state ∧
        (t.dev.core i).entry.cause = (s.dev.core i).entry.cause) ∧
    (∀ (s : State) (b : List Byte), Serving s.dev b → InOrder s.dev 0 [u 1, u 1, u 1, u 1] b → field b 0 2 = 0x81 →
      field b 0x20 1 = 0 → fenceFault s.dev b = none → s.dev.fenced (42 * field b 0x21 1 + field b 0x22 1) = true →
      ∃ t, exec .fence s = .next t ∧ Answered t.dev b 0 0 ∧ OnlyOwl s.dev t.dev) ∧
    (∀ (s : State) (b : List Byte) (p : Nat), Serving s.dev b → InOrder s.dev 0 [u 1, u 1, u 1, u 1] b → field b 0 2 = 0x81 →
      s.dev.mesh.jobs = [] → s.dev.scoring.groups = [] → s.dev.service.services = [] → field b 0x20 1 = 1 →
      fenceFault s.dev b = none → p = 42 * field b 0x21 1 + field b 0x22 1 →
      ∃ t, exec .unfence s = .next t ∧ Answered t.dev b 0 0 ∧ t.dev.fenced p = false ∧ (t.dev.core p).entry.cause = 0 ∧
        (t.dev.row (p / 42)).fenced = false ∧
        ∀ i, i / 42 ≠ p / 42 → (t.dev.core i).entry.state = (s.dev.core i).entry.state ∧
          (t.dev.core i).entry.cause = (s.dev.core i).entry.cause) ∧
    (∀ (s : State) (b : List Byte), Serving s.dev b → InOrder s.dev 0 [u 1, u 1, u 1, u 1] b → field b 0 2 = 0x81 →
      s.dev.mesh.jobs = [] → s.dev.scoring.groups = [] → s.dev.service.services = [] → field b 0x20 1 = 2 →
      fenceFault s.dev b = none →
      ∃ t, exec .fenceRow s = .next t ∧ Answered t.dev b 0 0 ∧ (t.dev.row (field b 0x21 1)).fenced = true ∧
        (∀ i, i / 42 = field b 0x21 1 → t.dev.fenced i = true) ∧
        ∀ i, i / 42 ≠ field b 0x21 1 → (t.dev.core i).entry.state = (s.dev.core i).entry.state ∧
          (t.dev.core i).entry.cause = (s.dev.core i).entry.cause) ∧
    (∀ (s : State) (p : PosId) (c : BitVec 4), s.dev.mesh.mapBuilt = true → s.dev.mesh.jobs = [] → s.dev.scoring.groups = [] →
      s.dev.service.services = [] → s.dev.fenced p.val = false →
      ∃ t, exec (.coreFaultFence p c) s = .next t ∧ t.dev.fenced p.val = true ∧ (t.dev.core p.val).entry.cause = c ∧
        (c = 3 ∨ c = 4 → (t.dev.row (p.val / 42)).fenced = true ∧
          ∀ i, i / 42 = p.val / 42 → t.dev.fenced i = true ∧ (t.dev.core i).entry.cause = c) ∧
        (c ≠ 3 → c ≠ 4 → ∀ i, i ≠ p.val → t.dev.fenced i = s.dev.fenced i) ∧
        (∀ i, i / 42 ≠ p.val / 42 → (t.dev.core i).entry.state = (s.dev.core i).entry.state ∧
          (t.dev.core i).entry.cause = (s.dev.core i).entry.cause)) ∧
    (∀ (s : State) (p : PosId) (c : BitVec 4), s.dev.mesh.mapBuilt = false → exec (.coreFaultFence p c) s = .next s) ∧
    ∀ (s : State) (p : PosId) (c : BitVec 4), s.dev.mesh.mapBuilt = true → s.dev.fenced p.val = true → c ≠ 3 → c ≠ 4 →
      exec (.coreFaultFence p c) s = .next s

/-- O38. A LAUNCH in order, on a queue of no task, of a version whose cores are present and free starts: its five
entries leave the queue, a job of exactly the image's cores is listed for it and the version counts one user more; a
LAUNCH that waits for its cores starts so when they are free. One that a check refuses completes with the status and
detail of its first fault and leaves everything but its queue. One whose cores run another job has started and waits,
with the mesh as it was. One on the queue of a task goes to the task: its constant buffer is in the task's next free
half, and while there is none it waits. A job whose streams are DONE and whose deferred lists are empty ends with its
command: the record tells its status, it retires, is no longer listed, a LAUNCH's version counts one user less and a
task is free for its next iteration; a KILL that had to wait ends it with 0x10. A held, preempted or unfinished job does
not end. A task between iterations with a filled half takes the half that priority and rotation choose, runs it as a job
of its image's cores and remembers its queue; a task that runs, has no filled half, or does not exist does nothing.
Every other queue and task is as it was. Completes: launch, launchComplete, taskIteration. -/
def Obligations.LaunchesAndTasksRun : Prop :=
  (∀ (s : State) (q : QueueId) (b : List Byte) (v : ImageVersion), ReadyHead s.dev q.toNat 0 b 5 → Alone s.dev q.toNat 5 →
    byteAt b 0 = 1 → (s.dev.queue q.toNat).persistent = false → launchFault s.dev q.toNat b = none →
    s.dev.launchVersion b = some v → (∀ c ∈ v.image.cores, s.dev.coreBusy c.toNat = false) →
    ∃ t, exec (.launch q) s = .next t ∧ (t.dev.queue q.toNat).started = (s.dev.queue q.toNat).started + 5 ∧
      (∃ j ∈ t.dev.mesh.jobs, j.queue = q.toNat ∧ j.index = (s.dev.queue q.toNat).started ∧ j.cores = v.image.cores.map (·.toNat)) ∧
      (∃ x ∈ (t.dev.image (field b 0x10 4)).versions, x.number = v.number ∧ x.users = v.users + 1 ∧ x.image = v.image) ∧
      (t.dev.queue q.toNat).retired = (s.dev.queue q.toNat).retired ∧
      ∀ i, i ≠ q.toNat → t.dev.queue i = s.dev.queue i ∧ t.dev.qrun i = s.dev.qrun i) ∧
    (∀ (s : State) (q : QueueId) (c : Cmd) (v : ImageVersion), (s.dev.qrun q.toNat).running = [c] → c.completed = false →
      c.work = .plain → byteAt c.bytes 0 = 1 → (s.dev.queue q.toNat).avail = 0 → (s.dev.queue q.toNat).persistent = false →
      launchFault s.dev q.toNat c.bytes = none → s.dev.launchVersion c.bytes = some v →
      (∀ k ∈ v.image.cores, s.dev.coreBusy k.toNat = false) →
      ∃ t, exec (.launch q) s = .next t ∧ t.dev.queue q.toNat = s.dev.queue q.toNat ∧
        (∃ j ∈ t.dev.mesh.jobs, j.queue = q.toNat ∧ j.index = c.index ∧ j.cores = v.image.cores.map (·.toNat)) ∧
        ∀ i, i ≠ q.toNat → t.dev.queue i = s.dev.queue i ∧ t.dev.qrun i = s.dev.qrun i) ∧
    (∀ (s : State) (q : QueueId) (b : List Byte) (st : Byte) (det : Nat), ReadyHead s.dev q.toNat 0 b 5 → Alone s.dev q.toNat 5 →
      byteAt b 0 = 1 → launchFault s.dev q.toNat b = some (st, det) →
      ∃ t, exec (.launch q) s = .next t ∧ Completed s.dev t.dev q.toNat 5 ∧ Recorded s.dev t.dev q.toNat st.toNat det ∧
        OnlyQueue s.dev t.dev q.toNat) ∧
    (∀ (s : State) (q : QueueId) (b : List Byte) (v : ImageVersion), ReadyHead s.dev q.toNat 0 b 5 → Alone s.dev q.toNat 5 →
      byteAt b 0 = 1 → (s.dev.queue q.toNat).persistent = false → launchFault s.dev q.toNat b = none →
      s.dev.launchVersion b = some v → (∃ c ∈ v.image.cores, s.dev.coreBusy c.toNat = true) →
      ∃ t, exec (.launch q) s = .next t ∧ (t.dev.queue q.toNat).started = (s.dev.queue q.toNat).started + 5 ∧
        (t.dev.queue q.toNat).retired = (s.dev.queue q.toNat).retired ∧ t.dev.mesh = s.dev.mesh ∧
        (∃ c, (t.dev.qrun q.toNat).running = [c] ∧ c.index = (s.dev.queue q.toNat).started ∧ c.work = .plain ∧ c.completed = false) ∧
        OnlyQueue s.dev t.dev q.toNat) ∧
    (∀ (s : State) (q : QueueId) (b : List Byte) (n : Byte), ReadyHead s.dev q.toNat 0 b 5 → Alone s.dev q.toNat 5 →
      byteAt b 0 = 1 → (s.dev.queue q.toNat).persistent = true → (s.dev.queue q.toNat).task = some n →
      launchFault s.dev q.toNat b = none →
      ∃ t, exec (.launch q) s = .next t ∧ (t.dev.queue q.toNat).started = (s.dev.queue q.toNat).started + 5 ∧
        (t.dev.queue q.toNat).retired = (s.dev.queue q.toNat).retired ∧ t.dev.mesh = s.dev.mesh ∧ OnlyQueue s.dev t.dev q.toNat ∧
        (∀ i, i ≠ n.toNat → t.dev.task i = s.dev.task i) ∧
        ∃ c, (t.dev.qrun q.toNat).running = [c] ∧ c.index = (s.dev.queue q.toNat).started ∧ c.completed = false ∧
          if (s.dev.task n.toNat).halves.length < 2 then
            c.work = .taskLaunch n.toNat ∧ t.dev.task n.toNat = { s.dev.task n.toNat with
              halves := (s.dev.task n.toNat).halves ++ [(q.toNat, c.index, slice b 0x40 256)] }
          else c.work = .plain ∧ t.dev.task n.toNat = s.dev.task n.toNat) ∧
    (∀ (s : State) (q : QueueId) (c : Cmd) (j : Job), (s.dev.qrun q.toNat).running = [c] → c.completed = false →
      s.dev.job q.toNat c.index = some j → j.held = false → j.preempted = false → s.dev.jobDrained q.toNat c.index j = true →
      ∃ t, exec (.launchComplete q c.index) s = .next t ∧ (t.dev.qrun q.toNat).running = [] ∧
        (t.dev.queue q.toNat).retired = (s.dev.queue q.toNat).retired + BitVec.ofNat 64 c.entries ∧
        (∀ k ∈ t.dev.mesh.jobs, ¬(k.queue = q.toNat ∧ k.index = c.index)) ∧
        (j.killed = false → RecordedAt s.dev t.dev q.toNat c.index c.result.1.toNat c.result.2.toNat) ∧
        (j.killed = true → c.facts = [] → RecordedAt s.dev t.dev q.toNat c.index 0x10 0) ∧
        (∀ im v cs e, c.work = .launch im v cs e → t.dev.image im = pruneImage { s.dev.image im with
          versions := updateFirst (fun x => decide (x.number = v)) (fun x => { x with users := x.users - 1 }) (s.dev.image im).versions }) ∧
        (∀ n, c.work = .taskLaunch n → (s.dev.task n).running = some (q.toNat, c.index) → (t.dev.task n).running = none) ∧
        ∀ i, i ≠ q.toNat → t.dev.queue i = s.dev.queue i ∧ t.dev.qrun i = s.dev.qrun i) ∧
    (∀ (s : State) (q : QueueId) (i : U32), (∀ j, s.dev.job q.toNat i = some j →
        j.held = true ∨ j.preempted = true ∨ s.dev.jobDrained q.toNat i j = false) →
      exec (.launchComplete q i) s = .next s) ∧
    (∀ (s : State) (n : Byte) (q : Nat) (i : U32) (bytes : List Byte) (v : ImageVersion), (s.dev.task n.toNat).present = true →
      (s.dev.task n.toNat).running = none → chooseHalf s.dev (s.dev.task n.toNat) = some (q, i, bytes) →
      s.dev.imageVersion (s.dev.task n.toNat).image (s.dev.task n.toNat).version = some v →
      ∃ t, exec (.taskIteration n) s = .next t ∧ (t.dev.task n.toNat).running = some (q, i) ∧
        (t.dev.task n.toNat).lastQueue = q ∧ (∀ h ∈ (t.dev.task n.toNat).halves, ¬(h.1 = q ∧ h.2.1 = i)) ∧
        (∃ j ∈ t.dev.mesh.jobs, j.queue = q ∧ j.index = i ∧ j.cores = v.image.cores.map (·.toNat)) ∧
        (∀ k, k ≠ n.toNat → t.dev.task k = s.dev.task k) ∧ ∀ k, t.dev.queue k = s.dev.queue k) ∧
    ∀ (s : State) (n : Byte), (s.dev.task n.toNat).present = false ∨ (s.dev.task n.toNat).running ≠ none ∨
        chooseHalf s.dev (s.dev.task n.toNat) = none →
      exec (.taskIteration n) s = .next s

/-- O39. A COPY in order whose slots and banks are free and lendable starts its stages: each slot of it belongs to the
command with its descriptor, the IN stages ACTIVE and the OUT stages waiting for their first half; a COPY that waited
for its slots starts so when they are free. One with a fault completes with 0x22 and the offset of its first faulty
field, one whose banks are not lendable with 0x22 and 0x90, and one whose slots are busy has started and waits, each
with nothing of another queue or slot changed. ARM of a descriptor in order with the slot's next generation, in no Den
cycle of a KILL of the slot, makes a slot that no stream works ACTIVE with that descriptor and transfer 0 released, or
WAIT with none released where a chain feeds it; on a slot that a stream works with no shadow it becomes the shadow. One
of another generation, on a slot with a shadow, or in the Den cycle of a KILL is refused: REFUSED is set, it counts, and
the slot is otherwise as it was. A faulty descriptor leaves the slot in FAULT where the core runs for no command, and
completes the core's command with 0x22, which returns the slot to IDLE. SWAP of a slot whose half is complete exchanges
the halves and releases the next transfer while there is one; a waiting shadow becomes active on the half that the swap
releases. On a half that is not complete it sets LATE, counts the late swap and holds the job with the slot among its
late ones; on a group that is held it waits for the group; of a chain's stage, or of a core that issues nothing, it
changes nothing. A held group whose late halves are complete goes on, its late halves exchanged and its core's held
cycles counted; one with a half still late does not. Completes: copy, arm, swap, groupResume. -/
def Obligations.CopiesAndArmsStartStreams : Prop :=
  (∀ (s : State) (q : QueueId) (b : List Byte) (n p : Nat), ReadyHead s.dev q.toNat 0 b (1 + 2 * n) → Alone s.dev q.toNat (1 + 2 * n) →
    byteAt b 0 = 5 → n = field b 0x13 1 → copyFault s.dev b = none → s.dev.placeOf (field b 0x10 2) = some p →
    copyBusy s.dev p b = false → copyLent s.dev p b = true →
    ∃ t, exec (.copy q) s = .next t ∧ (t.dev.queue q.toNat).retired = (s.dev.queue q.toNat).retired ∧
      (∀ i, i ≠ q.toNat → t.dev.queue i = s.dev.queue i ∧ t.dev.qrun i = s.dev.qrun i) ∧ ∀ i, i < n →
      (t.dev.slotRun (8 * p + field b 0x12 1 + i)).owner = some (q.toNat, (s.dev.queue q.toNat).started) ∧
      (t.dev.slot (8 * p + field b 0x12 1 + i)).desc.isSome = true ∧
      (t.dev.slot (8 * p + field b 0x12 1 + i)).state = (if i % 2 = 1 then .wait else .active)) ∧
    (∀ (s : State) (q : QueueId) (c : Cmd) (p : Nat), (s.dev.qrun q.toNat).running = [c] → c.completed = false → c.work = .plain →
      byteAt c.bytes 0 = 5 → (s.dev.queue q.toNat).avail = 0 → copyFault s.dev c.bytes = none →
      s.dev.placeOf (field c.bytes 0x10 2) = some p → copyBusy s.dev p c.bytes = false → copyLent s.dev p c.bytes = true →
      ∃ t, exec (.copy q) s = .next t ∧ ∀ i, i < field c.bytes 0x13 1 →
        (t.dev.slotRun (8 * p + field c.bytes 0x12 1 + i)).owner = some (q.toNat, c.index) ∧
        (t.dev.slot (8 * p + field c.bytes 0x12 1 + i)).state = (if i % 2 = 1 then .wait else .active)) ∧
    (∀ (s : State) (q : QueueId) (b : List Byte) (n : Nat), ReadyHead s.dev q.toNat 0 b n → Alone s.dev q.toNat n → byteAt b 0 = 5 →
      (∀ o, copyFault s.dev b = some o →
        ∃ t, exec (.copy q) s = .next t ∧ Completed s.dev t.dev q.toNat n ∧ Recorded s.dev t.dev q.toNat 0x22 o ∧
          OnlyQueue s.dev t.dev q.toNat) ∧
      ∀ p, copyFault s.dev b = none → s.dev.placeOf (field b 0x10 2) = some p →
        (copyBusy s.dev p b = false → copyLent s.dev p b = false →
          ∃ t, exec (.copy q) s = .next t ∧ Completed s.dev t.dev q.toNat n ∧ Recorded s.dev t.dev q.toNat 0x22 0x90 ∧
            OnlyQueue s.dev t.dev q.toNat) ∧
        (copyBusy s.dev p b = true →
          ∃ t, exec (.copy q) s = .next t ∧ (t.dev.queue q.toNat).started = (s.dev.queue q.toNat).started + BitVec.ofNat 32 n ∧
            (t.dev.queue q.toNat).retired = (s.dev.queue q.toNat).retired ∧ t.dev.streams = s.dev.streams ∧
            (∃ c, (t.dev.qrun q.toNat).running = [c] ∧ c.index = (s.dev.queue q.toNat).started ∧ c.work = .plain ∧
              c.completed = false) ∧ OnlyQueue s.dev t.dev q.toNat)) ∧
    (∀ (s : State) (n : SlotId) (a : BitVec 20), s.dev.stopped (n.val / 8) = true → exec (.arm n a) s = .next s) ∧
    (∀ (s : State) (n : SlotId) (a : BitVec 20) (b : List Byte), s.dev.stopped (n.val / 8) = false →
      b = (s.dev.core (n.val / 8)).bytesAt (a.toNat / 128 * 128) 128 →
      (descFault s.dev b (s.dev.programBanks n.val) = none → s.dev.badNext n.val (parseDesc b) = false →
        ((s.dev.slot n.val).working = false → (parseDesc b).armGen = (s.dev.slot n.val).latestGen + 1 →
          (s.dev.slotRun n.val).killedAt ≠ some s.dev.time.edges →
          ∃ t, exec (.arm n a) s = .next t ∧ (t.dev.slot n.val).desc = some (parseDesc b) ∧
            (t.dev.slot n.val).gen = (parseDesc b).armGen ∧ (t.dev.slot n.val).shadow = none ∧ (t.dev.slot n.val).half = false ∧
            (t.dev.slotRun n.val).owner = s.dev.ownerOf (n.val / 8) ∧
            if (s.dev.feeder n.val).isSome then (t.dev.slot n.val).state = .wait ∧ (t.dev.slot n.val).released = 0
            else (t.dev.slot n.val).state = .active ∧ (t.dev.slot n.val).released = 1) ∧
        ((s.dev.slot n.val).working = true → (s.dev.slot n.val).shadow = none →
          (parseDesc b).armGen = (s.dev.slot n.val).latestGen + 1 → (s.dev.slotRun n.val).killedAt ≠ some s.dev.time.edges →
          ∃ t, exec (.arm n a) s = .next t ∧ t.dev.slot n.val = { s.dev.slot n.val with shadow := some (parseDesc b) }) ∧
        (((s.dev.slot n.val).working = true ∧ (s.dev.slot n.val).shadow.isSome = true) ∨
            (parseDesc b).armGen ≠ (s.dev.slot n.val).latestGen + 1 ∨ (s.dev.slotRun n.val).killedAt = some s.dev.time.edges →
          ∃ t, exec (.arm n a) s = .next t ∧ t.dev.slot n.val = { s.dev.slot n.val with refused := true } ∧
            Counts s.dev t.dev (cSlot n.val 2) 1 ∧ ∀ m, m ≠ n.val → t.dev.slot m = s.dev.slot m)) ∧
      (descFault s.dev b (s.dev.programBanks n.val) ≠ none ∨ s.dev.badNext n.val (parseDesc b) = true →
        (s.dev.ownerOf (n.val / 8) = none →
          ∃ t, exec (.arm n a) s = .next t ∧ (t.dev.slot n.val).state = .fault ∧ (t.dev.slot n.val).desc = (s.dev.slot n.val).desc ∧
            ∀ m, m ≠ n.val → t.dev.slot m = s.dev.slot m) ∧
        ∀ (q : Nat) (c : Cmd), s.dev.ownerOf (n.val / 8) = some (q, c.index) → (s.dev.qrun q).running = [c] → c.completed = false →
          c.committed = false → c.facts = [] → (∀ j ∈ s.dev.mesh.jobs, j.preempted = false) →
          ((s.dev.slotRun n.val).owner = none ∨ (s.dev.slotRun n.val).owner = some (q, c.index)) →
          ∃ t, exec (.arm n a) s = .next t ∧ (t.dev.slot n.val).state = .idle ∧ (t.dev.qrun q).running = [] ∧
            (t.dev.queue q).retired = (s.dev.queue q).retired + BitVec.ofNat 64 c.entries ∧
            RecordedAt s.dev t.dev q c.index 0x22 0xFFFFFFFF)) ∧
    (∀ (s : State) (n : SlotId), s.dev.inChain n.val = true ∨ s.dev.slotAway n.val = true → exec (.swap ⟨n, none⟩) s = .next s) ∧
    (∀ (s : State) (n : SlotId), (s.dev.slot n.val).swappable = false →
      (s.dev.slot n.val).working = false ∨ s.dev.ownerOf (n.val / 8) = none → exec (.swap ⟨n, none⟩) s = .next s) ∧
    (∀ (s : State) (n : SlotId) (x : Desc), (s.dev.slot n.val).desc = some x → s.dev.inChain n.val = false →
      s.dev.slotAway n.val = false → (s.dev.slot n.val).swappable = true →
      (∀ j ∈ s.dev.mesh.jobs, j.cores.contains (s.dev.logicalOf (n.val / 8)) = true → j.held = false) →
      (∀ j v, s.dev.jobAt (s.dev.logicalOf (n.val / 8)) = some j → s.dev.jobImage j = some v →
        ∀ w ∈ v.image.towers, (s.dev.stash w.header.toNat).ripe = none) →
      ((s.dev.slot n.val).shadow = none →
        ∃ t, exec (.swap ⟨n, none⟩) s = .next t ∧ (t.dev.slot n.val).half = !(s.dev.slot n.val).half ∧
          (t.dev.slot n.val).desc = some x ∧
          if (s.dev.slot n.val).released < x.transfers then
            (t.dev.slot n.val).released = (s.dev.slot n.val).released + 1 ∧ (t.dev.slot n.val).state = .active
          else (t.dev.slot n.val).released = (s.dev.slot n.val).released ∧ (t.dev.slot n.val).state = (s.dev.slot n.val).state) ∧
      ∀ y, (s.dev.slot n.val).shadow = some y → x.farKind ≠ 4 →
        ∃ t, exec (.swap ⟨n, none⟩) s = .next t ∧ (t.dev.slot n.val).half = !(s.dev.slot n.val).half ∧
          (t.dev.slot n.val).desc = some y ∧ (t.dev.slot n.val).gen = y.armGen ∧ (t.dev.slot n.val).shadow = none ∧
          (t.dev.slot n.val).released = 1 ∧ (t.dev.slot n.val).state = .active) ∧
    (∀ (s : State) (n : SlotId) (q : Nat) (i : U32), s.dev.inChain n.val = false → s.dev.slotAway n.val = false →
      (s.dev.slot n.val).swappable = false → (s.dev.slot n.val).working = true → s.dev.ownerOf (n.val / 8) = some (q, i) →
      ∃ t, exec (.swap ⟨n, none⟩) s = .next t ∧ Counts s.dev t.dev (cSlot n.val 1) 1 ∧
        t.dev.slot n.val = { s.dev.slot n.val with late := true, lateCount := stick32 (s.dev.slot n.val).lateCount 1 } ∧
        (∀ m, m ≠ n.val → t.dev.slot m = s.dev.slot m) ∧ ∃ j, t.dev.job q i = some j ∧ j.held = true ∧ n.val ∈ j.lateSlots) ∧
    (∀ (s : State) (n : SlotId) (j : Job), s.dev.inChain n.val = false → s.dev.slotAway n.val = false →
      (s.dev.slot n.val).swappable = true → s.dev.jobAt (s.dev.logicalOf (n.val / 8)) = some j → j.held = true →
      ∃ t, exec (.swap ⟨n, none⟩) s = .next t ∧ t.dev.streams = s.dev.streams ∧
        ∃ k, t.dev.job j.queue j.index = some k ∧ n.val ∈ k.lateSlots) ∧
    (∀ (s : State) (q : QueueId) (i : U32) (j : Job), s.dev.job q.toNat i = some j → j.held = true →
      j.lateDense = [] → j.overruns = [] →
      (∀ v, s.dev.jobImage j = some v → ∀ w ∈ v.image.towers, (s.dev.stash w.header.toNat).ripe = none) →
      (∀ n ∈ j.lateSlots, (s.dev.slot n).swappable = true ∧ (s.dev.slot n).shadow = none) →
      ∃ t, exec (.groupResume q i) s = .next t ∧ (∃ k, t.dev.job q.toNat i = some k ∧ k.held = false ∧ k.lateSlots = []) ∧
        (∀ n, j.lateSlots = [n] → (t.dev.slot n).half = !(s.dev.slot n).half) ∧
        ∀ c p, j.cores = [c] → s.dev.placeOf c = some p →
          Counts s.dev t.dev (cCore p 7) (unitCycles (s.dev.time.ft - j.heldSince).toNat)) ∧
    ∀ (s : State) (q : QueueId) (i : U32), (∀ j, s.dev.job q.toNat i = some j → j.held = false ∨
        ∃ n ∈ j.lateSlots, (s.dev.slot n).swappable = false) →
      exec (.groupResume q i) s = .next s

/-- O40. With a side's chosen stream not a Badger stream and no uncorrectable error, STREAM_BLOCK_ISSUE issues its next
access, counts its cost and its bytes and notes it as last served: an OUT access is done at once, and a host read is
sent with the slot and its generation as its tag; with none chosen, or for the host in D3hot, nothing is issued. A
returned block of the oldest outstanding stack access, and a host read's data of the slot's generation and the right
length, each count as returned, poisoned host data through AER too; data of another generation are discarded, and data
that no slot awaits or of another length are reported through AER and change no stream. A complete transfer leaves its
slot in WAIT while transfers are left and DONE with the last one, and for a running command's IN half a journal record
of its bytes' CRC where there is room; a chain's half that the next stage cannot take leaves it BLOCKED, an OUT half
that the links have not taken BLOCKED too, and a thread that waits for the half goes on with the halves exchanged; an
incomplete transfer changes nothing else. A complete half of a chain's IN stage goes to the next stage when that is
free, which becomes ACTIVE on the same half, and the stage goes on to its next transfer. A full half of a standing wait
cycle of one stream goes to a free spill frame, byte for byte, and counts; without a cycle or a frame nothing moves. It
comes back from the oldest frame, for a chain into the half of a waiting next stage, for an OUT half when its far side
has taken all of it. FORCE of a side takes a legal value and nothing else changes; another value is ignored. Completes:
streamBlockIssue, blockReturn, pcieCompletion, transferComplete, chainHandover, streamSpill, spillRefill,
arbitrationForce. -/
def Obligations.StreamsMoveTheirTransfers : Prop :=
  (∀ (s : State) (n : Fin 3) (lm : LmErrors) (m : Nat) (x : Desc) (a : List Piece), (n.val = 2 → s.dev.mode.d3hot = false) →
    s.dev.chosen n.val = some m → (s.dev.slot m).desc = some x → s.dev.readyAccess m = some a → x.farKind ≠ 4 →
    (∀ e ∈ lm, e.2 = false) →
    ∃ t, exec (.streamBlockIssue ⟨n, lm⟩) s = .next t ∧ (t.dev.slot m).issued = (s.dev.slot m).issued + 1 ∧
      (t.dev.side n.val).lastServed = s.dev.streamNo m ∧ Counts s.dev t.dev (cSlot m 0) (accessCost x a) ∧
      Counts s.dev t.dev (cSide n.val 0) (accessCost x a) ∧ Counts s.dev t.dev (cSide n.val 1) ((a.map (·.len)).sum) ∧
      (t.dev.slot m).returned = (s.dev.slot m).returned + (if x.out then 1 else 0) ∧
      (x.out = false → x.farKind = 2 → t.dev.out.hostReads = s.dev.out.hostReads ++
        [(m + 2 ^ 22 * (s.dev.slot m).gen.toNat, BitVec.ofNat 64 (accessSpan a).1, (accessSpan a).2)]) ∧
      ∀ k, k ≠ m → t.dev.slot k = s.dev.slot k) ∧
    (∀ (s : State) (n : Fin 3) (lm : LmErrors), s.dev.chosen n.val = none ∨ (n.val = 2 ∧ s.dev.mode.d3hot = true) →
      exec (.streamBlockIssue ⟨n, lm⟩) s = .next s) ∧
    (∀ (s : State) (n : SlotId) (x : Desc) (a : List Piece), s.dev.outstanding n.val = some (x, a) →
      (∀ e, s.dev.nearStacks x = true → (s.dev.slot n.val).state ≠ .killed → ∃ t, exec (.blockReturn n e) s = .next t ∧
        (t.dev.slot n.val).returned = (s.dev.slot n.val).returned + 1 ∧ (t.dev.slot n.val).issued = (s.dev.slot n.val).issued ∧
        ∀ k, k ≠ n.val → t.dev.slot k = s.dev.slot k) ∧
      (∀ e, s.dev.nearStacks x = false ∨ (s.dev.slot n.val).state = .killed → exec (.blockReturn n e) s = .next s) ∧
      (s.dev.fromTrace 4 = false → ∀ bytes : List Byte, ∀ p,
        (x.farKind = 2 → bytes.length = (accessSpan a).2 →
          ∃ t, exec (.pcieCompletion ⟨n, (s.dev.slot n.val).gen⟩ bytes p) s = .next t ∧
            (t.dev.slot n.val).returned = (s.dev.slot n.val).returned + 1 ∧
            t.dev.out.aer = s.dev.out.aer ++ (if p then [1] else []) ∧ ∀ k, k ≠ n.val → t.dev.slot k = s.dev.slot k) ∧
        (x.farKind ≠ 2 ∨ bytes.length ≠ (accessSpan a).2 →
          ∃ t, exec (.pcieCompletion ⟨n, (s.dev.slot n.val).gen⟩ bytes p) s = .next t ∧ t.dev.out.aer = s.dev.out.aer ++ [2] ∧
            t.dev.streams = s.dev.streams))) ∧
    (∀ (s : State) (n : SlotId) (bytes : List Byte) (p : Bool), s.dev.outstanding n.val = none →
      (∀ e, exec (.blockReturn n e) s = .next s) ∧
      (s.dev.fromTrace 4 = false → ∃ t, exec (.pcieCompletion ⟨n, (s.dev.slot n.val).gen⟩ bytes p) s = .next t ∧
        t.dev.out.aer = s.dev.out.aer ++ [2] ∧ t.dev.streams = s.dev.streams)) ∧
    (∀ (s : State) (n : SlotId) (g : U16) (bytes : List Byte) (p : Bool),
      g ≠ (s.dev.slot n.val).gen ∨ s.dev.fromTrace 4 = true → exec (.pcieCompletion ⟨n, g⟩ bytes p) s = .next s) ∧
    (∀ (s : State) (n : SlotId) (x : Desc), (s.dev.slot n.val).state = .active → (s.dev.slot n.val).released ≠ 0 →
      (s.dev.slot n.val).desc = some x → (s.dev.slotRun n.val).owner = none →
      (s.dev.transferDone n.val x = true → (x.out = true → (s.dev.slot n.val).spilled = false) →
        ((∀ k ∈ (s.dev.core (n.val / 8)).threads, k.2.swap ≠ some n.val) → ∃ t, exec (.transferComplete n) s = .next t ∧
          (t.dev.slot n.val).half = (s.dev.slot n.val).half ∧ (t.dev.slot n.val).released = (s.dev.slot n.val).released ∧
          (t.dev.slot n.val).state = (if x.chained = true ∧ x.out = false ∧
              (s.dev.nextFree n.val x = false ∨ (s.dev.slot n.val).spilled = true) then .blocked
            else if (s.dev.slot n.val).released < x.transfers then .wait else .done)) ∧
        ((∃ k ∈ (s.dev.core (n.val / 8)).threads, k.2.swap = some n.val) → x.chained = false → (s.dev.slot n.val).shadow = none →
          ∃ t, exec (.transferComplete n) s = .next t ∧ (t.dev.slot n.val).half = !(s.dev.slot n.val).half ∧
            ∀ k ∈ (t.dev.core (n.val / 8)).threads, k.2.swap ≠ some n.val)) ∧
      (s.dev.transferDone n.val x = false →
        if s.dev.overLinks x = true ∧ x.out = true then
          ∃ t, exec (.transferComplete n) s = .next t ∧ t.dev.slot n.val = { s.dev.slot n.val with state := .blocked } ∧
            { t.dev with streams := s.dev.streams } = s.dev
        else exec (.transferComplete n) s = .next s)) ∧
    (∀ (s : State) (n : SlotId) (x : Desc) (q : Nat) (i : U32), (s.dev.slot n.val).state = .active →
      (s.dev.slot n.val).released ≠ 0 → (s.dev.slot n.val).desc = some x → x.chained = false → x.out = false →
      s.dev.transferDone n.val x = true → (s.dev.slotRun n.val).owner = some (q, i) →
      (∀ c l, s.dev.cmd q i = some c → c.work ≠ .copy l) → (∀ k ∈ (s.dev.core (n.val / 8)).threads, k.2.swap ≠ some n.val) →
      s.dev.replayRecord 0x03 q i (s.dev.globalStream n.val) = none → s.dev.replayRecord 0x04 q i (s.dev.globalStream n.val) = none →
      s.dev.unreplayable q i = false → s.dev.journal.used + 32 ≤ 2 ^ 31 →
      ∃ t, exec (.transferComplete n) s = .next t ∧
        (t.dev.slot n.val).state = (if (s.dev.slot n.val).released < x.transfers then .wait else .done) ∧
        ∃ r ∈ t.dev.journal.records, r.type = 3 ∧ r.queue = BitVec.ofNat 32 q ∧ r.index = i ∧
          r.source = BitVec.ofNat 32 (s.dev.globalStream n.val) ∧
          r.check = crc32c ((t.dev.core (n.val / 8)).bytesAt (x.half (s.dev.slot n.val).half)
            ((x.transfer (s.dev.slot n.val).current).2 * x.nearSize))) ∧
    (∀ (s : State) (n : SlotId), ((s.dev.slot n.val).state ≠ .active ∧ (s.dev.slot n.val).state ≠ .blocked) ∨
        (s.dev.slot n.val).released = 0 ∨ (s.dev.slot n.val).desc = none →
      exec (.transferComplete n) s = .next s) ∧
    (∀ (s : State) (n : SlotId) (m : Nat) (x : Desc), (s.dev.slot n.val).state = .wait ∨ (s.dev.slot n.val).state = .done ∨
        ((s.dev.slot n.val).state = .blocked ∧ (s.dev.slot n.val).released < x.transfers) →
      (s.dev.slot n.val).spilled = false → (s.dev.slot n.val).released ≠ 0 → (s.dev.slot n.val).desc = some x → x.out = false →
      s.dev.nextSlot n.val x = some m → m ≠ n.val →
      (s.dev.nextFree n.val x = true → ∃ t, exec (.chainHandover n) s = .next t ∧ (t.dev.slot m).state = .active ∧
        (t.dev.slot m).released = (s.dev.slot m).released + 1 ∧ (t.dev.slot m).half = (s.dev.slot n.val).half ∧
        (t.dev.slot n.val).half = (!(s.dev.slot n.val).half) ∧
        (t.dev.slot n.val).state = (if (s.dev.slot n.val).released < x.transfers then .active else (s.dev.slot n.val).state) ∧
        (t.dev.slot n.val).released = (s.dev.slot n.val).released + (if (s.dev.slot n.val).released < x.transfers then 1 else 0)) ∧
      (s.dev.nextFree n.val x = false → exec (.chainHandover n) s = .next s)) ∧
    (∀ (s : State) (n : SlotId) (x : Desc) (a k : Nat), s.dev.stuck n.val = true → s.dev.fullHalf n.val = some (a, k) →
      (s.dev.slot n.val).desc = some x → x.out = true ∨ x.chained = true → s.dev.freeFramesList ≠ [] →
      ∃ t, exec (.streamSpill [n]) s = .next t ∧ (t.dev.slot n.val).spilled = true ∧ Counts s.dev t.dev (cSlot n.val 3) 1 ∧
        ∃ f ∈ s.dev.freeFramesList, look none t.dev.streams.spill f = some n.val ∧
          (t.dev.slotRun n.val).frames = (s.dev.slotRun n.val).frames ++ [f] ∧
          (x.compAddr = 0 → t.dev.bytesAt (spillAddr f) k = (s.dev.core (n.val / 8)).bytesAt a k)) ∧
    (∀ (s : State) (n : SlotId), s.dev.stuck n.val = false ∨ s.dev.fullHalf n.val = none ∨ s.dev.freeFramesList = [] →
      exec (.streamSpill [n]) s = .next s) ∧
    (∀ (s : State) (n : SlotId) (x : Desc) (f : Nat) (fs : List Nat), (s.dev.slot n.val).desc = some x →
      (s.dev.slotRun n.val).frames = f :: fs →
      (∀ k, x.out = true → (s.dev.slotRun n.val).owed.head? = some (k, 0) → (s.dev.slot n.val).state ≠ .blocked →
        ∃ t, exec (.spillRefill n) s = .next t ∧ (t.dev.slot n.val).spilled = !fs.isEmpty ∧ (t.dev.slotRun n.val).frames = fs ∧
          look none t.dev.streams.spill f = none ∧ { t.dev with streams := s.dev.streams } = s.dev) ∧
      (∀ m y, x.out = false → s.dev.nextSlot n.val x = some m → m ≠ n.val → (s.dev.slot m).state = .wait →
        (s.dev.slot m).desc = some y → y.out = true →
        ∃ t, exec (.spillRefill n) s = .next t ∧ (t.dev.slot n.val).spilled = !fs.isEmpty ∧ (t.dev.slotRun n.val).frames = fs ∧
          look none t.dev.streams.spill f = none ∧ (t.dev.slot m).state = .active ∧
          (t.dev.slot m).released = (s.dev.slot m).released + 1 ∧
          (t.dev.core (n.val / 8)).bytesAt (x.half (s.dev.slot m).half) ((x.transfer (s.dev.slot m).released).2 * x.nearSize) =
            s.dev.bytesAt (spillAddr f) ((x.transfer (s.dev.slot m).released).2 * x.nearSize)) ∧
      (x.out = true → (s.dev.slotRun n.val).owed.head?.map (·.2) ≠ some 0 → exec (.spillRefill n) s = .next s)) ∧
    (∀ (s : State) (n : SlotId), (s.dev.slotRun n.val).frames = [] → exec (.spillRefill n) s = .next s) ∧
    (∀ (s : State) (n : Fin 3) (v : U64), v.toNat % 4 ≠ 3 → ¬(n.val = 2 ∧ v.toNat % 4 = 2) →
      ∃ t, exec (.arbitrationForce n v) s = .next t ∧
        t.dev.side n.val = { s.dev.side n.val with force := BitVec.ofNat 2 (v.toNat % 4) } ∧
        { t.dev with streams := { t.dev.streams with sides := s.dev.streams.sides } } = s.dev ∧
        ∀ i, i ≠ n.val → t.dev.side i = s.dev.side i) ∧
    ∀ (s : State) (n : Fin 3) (v : U64), v.toNat % 4 = 3 ∨ (n.val = 2 ∧ v.toNat % 4 = 2) → exec (.arbitrationForce n v) s = .next s

/-- O41. A core that issues and is bound to a channel arrives there and waits, on channel 0 once its OUT halves are
settled; the last core of a job that spans modules lets the job join its group's barrier; a core that does not issue, is
not bound, or has OUT halves left does not arrive. When every core of a channel has arrived, and for channel 0 of a job
that spans modules the group has released, the release takes the arrivals away, and that of channel 0 begins the next
segment in the other checkpoint slot; of a preempted job it is latched; before that nothing happens. COLLECTIVE_START of
a descriptor in order takes its sequence number for the group; a faulty one completes the core's command with 0x22. A
BARRIER of FABRIC scope whose sequence number is released already completes at once, as does one of a group that is this
module alone; a faulty one completes with 0x22 and the offset of the field; one of the current SEQ of a group with a
parent arrives and waits. A core in thread mode issues an instruction of its next ready thread: a register, local
memory, its program counter or a shared unit takes its effect, a far read and a SWAP of an unfinished half block the
thread. A blocked thread goes on with its data, of the stacks, the host or another core, in local memory. Completes:
barrierArrive, barrierRelease, collectiveStart, barrierFabric, threadIssue, threadReadReturn. -/
def Obligations.BarriersAndThreadsOfCores : Prop :=
  (∀ (s : State) (p : PosId) (h : Fin 32) (j : Job), s.dev.jobAt (s.dev.logicalOf p.val) = some j →
    (s.dev.issues p.val = true → s.dev.logicalOf p.val ∈ s.dev.members j h.val →
      (h.val = 0 → s.dev.outSettled p.val = true) →
      ((h.val = 0 → (s.dev.jobImage j).bind (fun v => v.image.group) = none) →
        ∃ t, exec (.barrierArrive p h) s = .next t ∧ (t.dev.core p.val).waiting = (s.dev.core p.val).waiting ++ [h.val] ∧
          (∃ k, t.dev.job j.queue j.index = some k ∧ (h.val, s.dev.logicalOf p.val) ∈ k.arrivals) ∧
          t.dev.fabric = s.dev.fabric ∧ ∀ i, i ≠ p.val → t.dev.core i = s.dev.core i) ∧
      (∀ v g b m, s.dev.mesh.jobs = [j] → h.val = 0 → s.dev.jobImage j = some v → v.image.group = some g →
        (∀ c ∈ j.cores, c = s.dev.logicalOf p.val ∨ (0, c) ∈ j.arrivals) → s.dev.memberBox g.toNat = some b →
        s.dev.groupParent b = some m → (s.dev.group g.toNat).barrier.ownNow = false →
        ∃ t, exec (.barrierArrive p h) s = .next t ∧ (t.dev.group g.toNat).barrier.ownNow = true ∧
          ∃ k, t.dev.job j.queue j.index = some k ∧ k.groupArr = some (g.toNat, s.dev.freeSeq g.toNat))) ∧
    (s.dev.issues p.val = false ∨ s.dev.logicalOf p.val ∉ s.dev.members j h.val ∨ (h.val = 0 ∧ s.dev.outSettled p.val = false) →
      exec (.barrierArrive p h) s = .next s)) ∧
    (∀ (s : State) (q : QueueId) (i : U32) (h : Fin 32) (j : Job), s.dev.job q.toNat i = some j → s.dev.members j h.val ≠ [] →
      (∀ c ∈ s.dev.members j h.val, (h.val, c) ∈ j.arrivals) →
      (h.val = 0 → ∀ g, (s.dev.jobImage j).bind (fun v => v.image.group) = some g →
        ∃ a, j.groupArr = some a ∧ s.dev.released a.1 a.2 = true) →
      (j.preempted = false →
        ∃ t, exec (.barrierRelease q i h) s = .next t ∧ ∃ k, t.dev.job q.toNat i = some k ∧ (∀ a ∈ k.arrivals, a.1 ≠ h.val) ∧
          k.cores = j.cores ∧ k.segment = (if h.val = 0 then j.segment + 1 else j.segment) ∧
          k.slot = (if h.val = 0 then !j.slot else j.slot) ∧ (h.val = 0 → k.attempts = 0)) ∧
      (j.preempted = true →
        ∃ t, exec (.barrierRelease q i h) s = .next t ∧ ∃ k, t.dev.job q.toNat i = some k ∧ h.val ∈ k.latched ∧
          k.arrivals = j.arrivals ∧ k.segment = j.segment)) ∧
    (∀ (s : State) (q : QueueId) (i : U32) (h : Fin 32), (∀ j, s.dev.job q.toNat i = some j →
        (∃ c ∈ s.dev.members j h.val, (h.val, c) ∉ j.arrivals) ∨
        (h.val = 0 ∧ ((s.dev.jobImage j).bind (fun v => v.image.group)).isSome = true ∧ j.groupArr = none)) →
      exec (.barrierRelease q i h) s = .next s) ∧
    (∀ (s : State) (p : PosId) (b : List Byte), s.dev.issues p.val = true → (s.dev.jobAt (s.dev.logicalOf p.val)).isSome = true →
      (collFault s.dev (slice b 0 64) = false →
        ∃ t, exec (.collectiveStart p b) s = .next t ∧
          (t.dev.group (parseColl (slice b 0 64)).group).seq = (parseColl (slice b 0 64)).seq) ∧
      (∀ q c, collFault s.dev (slice b 0 64) = true → s.dev.ownerOf p.val = some (q, c.index) → (s.dev.qrun q).running = [c] →
        c.completed = false → c.committed = false → c.facts = [] → (∀ j ∈ s.dev.mesh.jobs, j.preempted = false) →
        ∃ t, exec (.collectiveStart p b) s = .next t ∧ (t.dev.qrun q).running = [] ∧
          RecordedAt s.dev t.dev q c.index 0x22 0xFFFFFFFF ∧ t.dev.fabric = s.dev.fabric)) ∧
    (∀ (s : State) (p : PosId) (b : List Byte), s.dev.issues p.val = false ∨ s.dev.jobAt (s.dev.logicalOf p.val) = none →
      exec (.collectiveStart p b) s = .next s) ∧
    (∀ (s : State) (q : QueueId) (b : List Byte), ReadyHead s.dev q.toNat 0 b 1 → Alone s.dev q.toNat 1 → byteAt b 0 = 8 →
      byteAt b 0x10 = 1 →
      (∀ o, fabricBarrierFault s.dev b = some o →
        ∃ t, exec (.barrierFabric q) s = .next t ∧ Completed s.dev t.dev q.toNat 1 ∧ Recorded s.dev t.dev q.toNat 0x22 o ∧
          OnlyQueue s.dev t.dev q.toNat) ∧
      (fabricBarrierFault s.dev b = none →
        (s.dev.released (field b 0x14 4) (BitVec.ofNat 64 (field b 0x18 8)) = true →
          ∃ t, exec (.barrierFabric q) s = .next t ∧ Completed s.dev t.dev q.toNat 1 ∧ Recorded s.dev t.dev q.toNat 0 0 ∧
            OnlyQueue s.dev t.dev q.toNat) ∧
        (s.dev.groupAlone (field b 0x14 4) = true →
          ∃ t, exec (.barrierFabric q) s = .next t ∧ Completed s.dev t.dev q.toNat 1) ∧
        ∀ x m, s.dev.memberBox (field b 0x14 4) = some x → s.dev.groupParent x = some m →
          s.dev.groupAlone (field b 0x14 4) = false →
          (s.dev.group (field b 0x14 4)).barrier.seq = BitVec.ofNat 64 (field b 0x18 8) →
          ∃ t, exec (.barrierFabric q) s = .next t ∧ (t.dev.group (field b 0x14 4)).barrier.ownNow = true ∧
            (t.dev.queue q.toNat).retired = (s.dev.queue q.toNat).retired ∧
            ∃ c, (t.dev.qrun q.toNat).running = [c] ∧ c.index = (s.dev.queue q.toNat).started ∧ c.completed = false ∧
              c.work = .barrier (field b 0x14 4) (BitVec.ofNat 64 (field b 0x18 8)))) ∧
    (∀ (s : State) (p : PosId) (n : Nat), (s.dev.core p.val).entry.thread = true → (s.dev.core p.val).nextThread = some n →
      (∀ rd v, ∃ t, exec (.threadIssue p (.setReg rd v)) s = .next t ∧ (t.dev.core p.val).lastThread = n ∧
        ((t.dev.core p.val).thread n).reg rd.val = v ∧
        ((t.dev.core p.val).thread n).pc = ((s.dev.core p.val).thread n).pc + 1) ∧
      (∀ rd ra rb, ∃ t, exec (.threadIssue p (.add rd ra rb)) s = .next t ∧ ((t.dev.core p.val).thread n).reg rd.val =
        ((s.dev.core p.val).thread n).reg ra.val + ((s.dev.core p.val).thread n).reg rb.val) ∧
      (∀ rd a, ∃ t, exec (.threadIssue p (.loadLocal rd a)) s = .next t ∧ ((t.dev.core p.val).thread n).reg rd.val =
        BitVec.ofNat 64 (leNat ((s.dev.core p.val).bytesAt a.toNat 8)) ∧ (t.dev.core p.val).lm = (s.dev.core p.val).lm) ∧
      (∀ rs a, ∃ t, exec (.threadIssue p (.storeLocal rs a)) s = .next t ∧ (t.dev.core p.val).bytesAt a.toNat 8 =
        leBytes 8 (((s.dev.core p.val).thread n).reg rs.val).toNat ∧
        ∀ x, x < a.toNat ∨ a.toNat + 8 ≤ x → look 0 (t.dev.core p.val).lm x = look 0 (s.dev.core p.val).lm x) ∧
      (∀ v, ∃ t, exec (.threadIssue p (.jump v)) s = .next t ∧ ((t.dev.core p.val).thread n).pc = v) ∧
      (∃ t, exec (.threadIssue p (.useUnit .weightSwap)) s = .next t ∧ (t.dev.core p.val).active = (s.dev.core p.val).staged ∧
        (t.dev.core p.val).staged = (s.dev.core p.val).active) ∧
      (∀ k, (s.dev.slot (8 * p.val + k.val)).swappable = false → (s.dev.slot (8 * p.val + k.val)).working = true →
        ∃ t, exec (.threadIssue p (.swap k)) s = .next t ∧ ((t.dev.core p.val).thread n).swap = some (8 * p.val + k.val) ∧
          t.dev.streams = s.dev.streams) ∧
      ∀ src k a, ∃ t, exec (.threadIssue p (.readFar src k a)) s = .next t ∧ ((t.dev.core p.val).thread n).ready = false ∧
        ((t.dev.core p.val).thread n).read = some { src := src, bytes := k.val, dest := a.toNat, arrived := none } ∧
        (∀ x, src = .host x → t.dev.out.hostReads = s.dev.out.hostReads ++ [(2 ^ 21 + 1 + 16 * p.val + n, x, k.val)]) ∧
        ∀ d x, src = .core d x → ∃ r, t.dev.mesh.packets = s.dev.mesh.packets ++ [r] ∧ r.pos = p.val ∧ r.dst = d.val ∧
          r.reader = p.val ∧ r.thread = n ∧ r.reply = false ∧ r.addr = x.toNat ∧ r.bytes = k.val) ∧
    (∀ (s : State) (p : PosId) (i : ThreadInstr), (s.dev.core p.val).entry.thread = false ∨ (s.dev.core p.val).nextThread = none →
      exec (.threadIssue p i) s = .next s) ∧
    (∀ (s : State) (p : PosId) (n : Fin 16) (b : List Byte) (r : FarRead), (s.dev.core p.val).entry.thread = true →
      ((s.dev.core p.val).thread n.val).read = some r → inLm r.dest r.bytes = true →
      (∀ a, r.src = .stacks a → inSoft a.toNat r.bytes = true →
        ∃ t, exec (.threadReadReturn p n b) s = .next t ∧ ((t.dev.core p.val).thread n.val).read = none ∧
          (t.dev.core p.val).bytesAt r.dest r.bytes = s.dev.bytesAt a.toNat r.bytes) ∧
      (∀ a, r.src = .host a → r.bytes ≤ b.length →
        ∃ t, exec (.threadReadReturn p n b) s = .next t ∧ ((t.dev.core p.val).thread n.val).read = none ∧
          (t.dev.core p.val).bytesAt r.dest r.bytes = b.take r.bytes) ∧
      (∀ d a data, r.src = .core d a → r.arrived = some data → data.length = r.bytes →
        ∃ t, exec (.threadReadReturn p n b) s = .next t ∧ ((t.dev.core p.val).thread n.val).read = none ∧
          (t.dev.core p.val).bytesAt r.dest r.bytes = data.map (·.1)) ∧
      ∀ d a, r.src = .core d a → r.arrived = none → exec (.threadReadReturn p n b) s = .next s) ∧
    ∀ (s : State) (p : PosId) (n : Fin 16) (b : List Byte), (s.dev.core p.val).entry.thread = false ∨
        ((s.dev.core p.val).thread n.val).read = none →
      exec (.threadReadReturn p n b) s = .next s

/-- O42. A SCORE in order starts and waits with none of its records admitted; a faulty one completes with 0x22 and the
offset of the field. Where it is the one source that waits for an idle group of free cores, with records in device
memory and no publication pending, BATCH_ADMIT makes a batch of its next records, up to the group's capacity, under the
ensemble's current version, at step 0, each with the codes of its bytes, and the command counts it in flight; where
nothing waits, nothing happens. The end of a shard step walks every record through its core's shard, swaps the
node-store and key halves and moves the batch one step on, and after its last step to the free finish stage, the next
batch taking its place; with no active batch, or before a busy finish stage, nothing happens; an uncorrectable error
that a core's local memory finds in the step sends the batch back to its admission instead. The finish of a batch
empties the finish stage and leaves the others; while more batches are in flight the command counts the records written,
and their results lie in its result area of device memory; after the last one the command completes and retires.
Completes: score, batchAdmit, shardStepEnd, batchFinish. -/
def Obligations.ScoringRunsInBatches : Prop :=
  (∀ (s : State) (q : QueueId) (b : List Byte), ReadyHead s.dev q.toNat 3 b 1 → Alone s.dev q.toNat 1 → byteAt b 0 = 2 →
    (∀ l, scoreFault s.dev q.toNat b = none → scoreLayout s.dev b = some l →
      ∃ t, exec (.score q) s = .next t ∧ (t.dev.queue q.toNat).started = (s.dev.queue q.toNat).started + 1 ∧
        (t.dev.queue q.toNat).retired = (s.dev.queue q.toNat).retired ∧
        ∃ c, t.dev.cmd q.toNat (s.dev.queue q.toNat).started = some c ∧ c.bytes = b ∧ c.work = .score l 0 0 0 0) ∧
    (∀ o, scoreFault s.dev q.toNat b = some o →
      ∃ t, exec (.score q) s = .next t ∧ Completed s.dev t.dev q.toNat 1 ∧ Recorded s.dev t.dev q.toNat 0x22 o ∧
        OnlyQueue s.dev t.dev q.toNat)) ∧
    (∀ (s : State) (first : BitVec 11) (given : List (List Byte × Bool)) (bad : List (Fin 80 × BitVec 14)), NoRetry s.dev →
      (∀ (q : Nat) (i : U32) (c : Cmd) (l : Layout) (next fl late : Nat) (v0 : U32) (v : EnsVersion),
        s.dev.waitingFor first.toNat = [(.score q i next, l)] → s.dev.cmd q i = some c →
        c.work = .score l next fl v0 late → scoreService c.bytes = none → scoreFlag c.bytes 0 = false →
        next < scoreRecords c.bytes → 0 < l.capacity → (s.dev.sgroup first.toNat).active = none →
        s.dev.inOrder 0x17 l.ensemble.toNat = true → (∀ x ∈ l.ring, (s.dev.placeOf x).isSome = true) →
        l.ring.all (s.dev.freeFor first.toNat) = true → s.dev.currentVersion l.ensemble.toNat = some v →
        ∃ t, exec (.batchAdmit first given bad) s = .next t ∧
          (∃ b, (t.dev.sgroup first.toNat).active = some b ∧ b.source = .score q i next ∧ b.version = v.number ∧ b.step = 0 ∧
            b.records.map (·.codes) = (rangeFrom next (min l.capacity (scoreRecords c.bytes - next))).map (fun k =>
              v.content.codesOf l.raw (s.dev.bytesAt (field c.bytes 0x18 8 + v.content.recordBytes l.raw * k)
                (v.content.recordBytes l.raw)))) ∧
          (t.dev.sgroup first.toNat).next = (s.dev.sgroup first.toNat).next ∧
          (t.dev.sgroup first.toNat).finishing = (s.dev.sgroup first.toNat).finishing ∧
          ∃ k, t.dev.cmd q i = some k ∧
            k.work = .score l (next + min l.capacity (scoreRecords c.bytes - next)) (fl + 1) v.number late) ∧
      (s.dev.waitingFor first.toNat = [] → exec (.batchAdmit first given bad) s = .next s)) ∧
    (∀ (s : State) (first : BitVec 11) (lmErrors : List (PosId × BitVec 20 × Bool)) (b : Batch) (e : Ensemble),
      (s.dev.sgroup first.toNat).active = some b → s.dev.versionOf b = some e → (∀ x ∈ lmErrors, x.2.2 = false) →
      (b.step + 1 < b.layout.g →
        ∃ t, exec (.shardStepEnd first lmErrors) s = .next t ∧ ∃ k, (t.dev.sgroup first.toNat).active = some k ∧ k.step = b.step + 1 ∧
          k.source = b.source ∧ k.version = b.version ∧
          k.records.map (·.reached) = (b.records.zip (List.range b.records.length)).map (fun x => x.1.reached ++
            (e.shard b.layout.g (b.layout.shardAt b.step x.2)).filterMap (fun n => e.trees[n]?.map (fun y => (n, e.walk x.1.codes y)))) ∧
          (t.dev.sgroup first.toNat).nodeB = (!(s.dev.sgroup first.toNat).nodeB) ∧
          (t.dev.sgroup first.toNat).keyB = (!(s.dev.sgroup first.toNat).keyB) ∧
          (t.dev.sgroup first.toNat).next = (s.dev.sgroup first.toNat).next ∧
          (t.dev.sgroup first.toNat).finishing = (s.dev.sgroup first.toNat).finishing) ∧
      (b.step + 1 = b.layout.g → (s.dev.sgroup first.toNat).finishing = none →
        ∃ t, exec (.shardStepEnd first lmErrors) s = .next t ∧ (∃ k, (t.dev.sgroup first.toNat).finishing = some k ∧ k.step = b.layout.g ∧
          k.source = b.source ∧ k.version = b.version) ∧
          (t.dev.sgroup first.toNat).active = (s.dev.sgroup first.toNat).next ∧ (t.dev.sgroup first.toNat).next = none)) ∧
    (∀ (s : State) (first : BitVec 11), (∀ b, (s.dev.sgroup first.toNat).active = some b →
        b.step + 1 = b.layout.g ∧ (s.dev.sgroup first.toNat).finishing.isSome = true) →
      exec (.shardStepEnd first []) s = .next s) ∧
    (∀ (s : State) (first : BitVec 11) (p : PosId) (a : BitVec 20) (b : Batch), (s.dev.sgroup first.toNat).active = some b →
      (s.dev.sgroup first.toNat).next = none → (s.dev.sgroup first.toNat).finishing = none → b.preempts = none → b.replays < 3 →
      s.dev.unreplayable b.segment.1 b.segment.2 = false →
      p.val ∈ s.dev.ringPlaces first.toNat → (s.dev.core p.val).ueTimes = [] → s.dev.agreed 13 = true →
      ∃ t, exec (.shardStepEnd first [(p, a, true)]) s = .next t ∧ ∃ k, (t.dev.sgroup first.toNat).active = some k ∧ k.step = 0 ∧
        k.replays = b.replays + 1 ∧ k.version = b.version ∧ k.source = b.source ∧ ∀ r ∈ k.records, r.reached = []) ∧
    (∀ (s : State) (first : BitVec 11), (s.dev.sgroup first.toNat).finishing = none → exec (.batchFinish first) s = .next s) ∧
    ∀ (s : State) (first : BitVec 11) (b : Batch) (e : Ensemble), (s.dev.sgroup first.toNat).finishing = some b →
      s.dev.versionOf b = some e →
      (∃ t, exec (.batchFinish first) s = .next t ∧ (t.dev.sgroup first.toNat).finishing = none ∧
        (t.dev.sgroup first.toNat).active = (s.dev.sgroup first.toNat).active ∧
        (t.dev.sgroup first.toNat).next = (s.dev.sgroup first.toNat).next) ∧
      ∀ (q : Nat) (i : U32) (r0 next fl late : Nat) (l : Layout) (v : U32) (c : Cmd), b.source = .score q i r0 →
        s.dev.cmd q i = some c → c.work = .score l next fl v late →
        (1 < fl → ∃ t, exec (.batchFinish first) s = .next t ∧ (∃ k, t.dev.cmd q i = some k ∧
          k.work = .score l next (fl - 1) v (late + b2n (s.dev.lateFor b)) ∧ k.count = stick32 c.count b.records.length) ∧
          ∀ rs, rs = (b.records.zip (List.range b.records.length)).map (fun x => b.layout.resultsOf
              (e.finish (s.dev.batchCore b.layout x.2) x.1.spoiled (rawScores e (s.dev.batchCore b.layout x.2) b.layout.g x.1))) →
            scoreFlag c.bytes 1 = false →
            inSoft (field c.bytes 0x20 8 + (rs.headD []).length * r0) rs.flatten.length = true →
            t.dev.bytesAt (field c.bytes 0x20 8 + (rs.headD []).length * r0) rs.flatten.length = rs.flatten) ∧
        (fl = 1 → scoreRecords c.bytes ≤ next → (s.dev.qrun q).running = [c] → c.completed = false →
          ∃ t, exec (.batchFinish first) s = .next t ∧ (t.dev.qrun q).running = [] ∧
            (t.dev.queue q).retired = (s.dev.queue q).retired + BitVec.ofNat 64 c.entries)

/-- O43. A batch whose deadline fabric time has reached is marked missed, once; one whose deadline lies ahead, that has
none or that is marked already is left as it is. Once no batch that preempted the job of a group's cores is left, the
job is restored: it is no longer preempted, its saved state is put back from the save banks and let go, and its command
counts a preemption; where a KILL came meanwhile, the command completes with 0x10 instead; while such a batch is left,
or with no such job, nothing happens. A Squirrel instruction that emits neither keys nor codes writes each clean
record's leaf values, read from the blocks of the active node-store half, to local memory by tree and output, and poison
for a poisoned record; one of a reserved KEYS completes its command with 0x22. Completes: deadlineMiss, preemptRestore,
squirrelInstruction. -/
def Obligations.ScoringMeetsDeadlinesAndJobs : Prop :=
  (∀ (s : State) (first : BitVec 11) (b : Batch), (s.dev.sgroup first.toNat).active = some b →
    (s.dev.sgroup first.toNat).next = none → (s.dev.sgroup first.toNat).finishing = none →
    ∃ t, exec (.deadlineMiss first) s = .next t ∧
      (∀ x, b.missed = false → b.deadline = some x → x.toNat ≤ s.dev.time.ft.toNat →
        (t.dev.sgroup first.toNat).active = some { b with missed := true }) ∧
      (b.missed = true ∨ (∀ x, b.deadline = some x → s.dev.time.ft.toNat < x.toNat) →
        t.dev.sgroup first.toNat = s.dev.sgroup first.toNat ∧ t.dev.out = s.dev.out ∧ t.dev.events = s.dev.events)) ∧
    (∀ (s : State) (first : BitVec 11) (l : Layout) (j : Job), (s.dev.sgroup first.toNat).layout = some l → s.dev.mesh.jobs = [j] →
      j.preempted = true → (∃ c ∈ l.ring, c ∈ j.cores) →
      ((∀ g ∈ s.dev.scoring.groups, ∀ b ∈ g.2.batches, b.preempts ≠ some (j.queue, j.index)) →
        (j.killed = false → j.latched = [] →
          ∃ t, exec (.preemptRestore first) s = .next t ∧ (∃ k, t.dev.job j.queue j.index = some k ∧ k.preempted = false ∧
            k.saved = [] ∧ k.restoredAt = s.dev.time.ft ∧ k.cores = j.cores) ∧
          (∀ c, s.dev.cmd j.queue j.index = some c → ∃ k, t.dev.cmd j.queue j.index = some k ∧ k.preemptions = c.preemptions + 1) ∧
          ∀ v x b0 b1 rest p, s.dev.jobImage j = some v → v.image.saveBanks = b0 :: b1 :: rest → j.saved = [x] →
            s.dev.placeOf x.pos = some p → (t.dev.core p).acc = accFrom (s.dev.core p).lm (65536 * b0.toNat) ∧
              (t.dev.core p).issued = field ((s.dev.core p).bytesAt (65536 * b1.toNat + 8192) 64) 0 8 ∧
              (t.dev.core p).lm = (s.dev.core p).lm) ∧
        (∀ c, j.killed = true → (s.dev.qrun j.queue).running = [c] → c.index = j.index → c.completed = false → c.committed = false →
          c.facts = [] → ∃ t, exec (.preemptRestore first) s = .next t ∧ (t.dev.qrun j.queue).running = [] ∧
            t.dev.mesh.jobs = [] ∧ RecordedAt s.dev t.dev j.queue j.index 0x10 0)) ∧
      ((∃ g ∈ s.dev.scoring.groups, ∃ b ∈ g.2.batches, b.preempts = some (j.queue, j.index)) →
        exec (.preemptRestore first) s = .next s)) ∧
    (∀ (s : State) (first : BitVec 11), (∀ j ∈ s.dev.mesh.jobs, j.preempted = false) → exec (.preemptRestore first) s = .next s) ∧
    (∀ (s : State) (p : PosId) (op : SquirrelOp) (v : EnsVersion), s.dev.issues p.val = true →
      (s.dev.ens op.ensemble.toNat).versions.find? (fun v => decide (v.number = op.version ∧
        v.era = (s.dev.ens op.ensemble.toNat).era)) = some v →
      (∀ (i n : Nat) (codes : List U32) (m : Bool), squirrelKeysBad op v.content.trees.length = false → op.keys = 0 →
        op.writeCodes = false → (∀ e ∈ op.lmErrors, e.2 = false) →
        n = 4 * v.content.outputs * (squirrelBlocks s.dev p.val v.content op).length →
        s.dev.inProgram p.val op.leavesAt.toNat (n * op.count.val) = true →
        op.records.toNat + v.content.recordBytes false * op.count.val ≤ 2 ^ 20 → i < op.count.val →
        localRecord (s.dev.core p.val) v.content op i = (codes, m) →
        ∃ t, exec (.squirrelInstruction p op) s = .next t ∧
          (m = false → (∀ b ∈ squirrelBlocks s.dev p.val v.content op, blockSpoils v.content codes b = false) →
            (t.dev.core p.val).bytesAt (op.leavesAt.toNat + n * i) n =
              ((squirrelBlocks s.dev p.val v.content op).map (fun b =>
                (v.content.reachBlock b.2.1 (b.2.2.map (·.1)) codes).1)).flatten) ∧
          (m = true → (t.dev.core p.val).bytesAt (op.leavesAt.toNat + n * i) n =
            (List.replicate (v.content.outputs * (squirrelBlocks s.dev p.val v.content op).length)
              (leBytes 4 (poisonElem .lf32 (s.dev.nanCore p.val) 0))).flatten)) ∧
      ∀ q c, squirrelKeysBad op v.content.trees.length = true → s.dev.ownerOf p.val = some (q, c.index) →
        (s.dev.qrun q).running = [c] → c.completed = false → c.committed = false → c.facts = [] →
        (∀ j ∈ s.dev.mesh.jobs, j.preempted = false) →
        ∃ t, exec (.squirrelInstruction p op) s = .next t ∧ (t.dev.qrun q).running = [] ∧
          RecordedAt s.dev t.dev q c.index 0x22 0xFFFFFFFF) ∧
    ∀ (s : State) (p : PosId) (op : SquirrelOp), s.dev.issues p.val = false → exec (.squirrelInstruction p op) s = .next s

/-- O44. For a session of this module alone, a GROW in order completes. A LEVEL that starts a round stages the records
where it restages, and in a round whose tree in progress is not its last, LEVEL grows one level and END_TREE ends the
tree, the next one following. DISCARD ends the round, keeping the session with its scores invalid; CLOSE closes the
session. A GROW at fault completes with 0x22 and the offset of its field, or 0xFFFFFFFF, and its session is as before. A
command that waits to publish tries again: when nothing stands against it, it completes, the session leaves its round
and remembers the version that is now current; when four versions are live it goes on waiting; when the publication is
refused for good, it completes with 0x20 and the code, and the session leaves its round with its scores invalid. Where
none waits, nothing happens. Completes: growLevel, growEndTree, growDiscard, growClose, growPublishRetry. -/
def Obligations.GrowingFollowsItsOperations : Prop :=
  (∀ (s : State) (q : QueueId) (b : List Byte) (x : Schedule) (y : ScheduleAt), ReadyHead s.dev q.toNat 4 b 1 →
    Alone s.dev q.toNat 1 → byteAt b 0 = 3 → growJudged s.dev q.toNat b [] = none → growSchedule s.dev b = (x, y) →
    y.collective = 0xFFFFFFFF →
    (∀ u, (s.dev.session (growNo b)).inRound = true → (s.dev.session (growNo b)).sched = some (x, y) →
      (s.dev.session (growNo b)).tree = some u → (s.dev.session (growNo b)).treeInRound + 1 < x.treesPerRound.toNat →
      (growOp b = 0 → ∃ t, exec (.growLevel q []) s = .next t ∧ Completed s.dev t.dev q.toNat 1 ∧
        (t.dev.session (growNo b)).levels = (s.dev.session (growNo b)).levels + 1) ∧
      (growOp b = 1 → ∃ t, exec (.growEndTree q []) s = .next t ∧ Completed s.dev t.dev q.toNat 1 ∧
        (t.dev.session (growNo b)).tree = none ∧
        (t.dev.session (growNo b)).treeInRound = (s.dev.session (growNo b)).treeInRound + 1)) ∧
    (growOp b = 0 → (s.dev.session (growNo b)).inRound = false →
      (∀ u, startRound q.toNat b x y 1 s.dev = some u → 1 < x.treesPerRound.toNat →
        ∃ t, exec (.growLevel q []) s = .next t ∧ Completed s.dev t.dev q.toNat 1 ∧
          (t.dev.session (growNo b)).inRound = true ∧ (t.dev.session (growNo b)).queue = q.toNat ∧
          (t.dev.session (growNo b)).base = u.1.base ∧
          (t.dev.session (growNo b)).levels = (s.dev.session (growNo b)).levels + 1 ∧
          (bitOf (field b 0x22 1) 0 = true → (t.dev.session (growNo b)).records.length = y.records.toNat)) ∧
      (startRound q.toNat b x y 1 s.dev = none →
        ∃ t, exec (.growLevel q []) s = .next t ∧ Completed s.dev t.dev q.toNat 1 ∧ Recorded s.dev t.dev q.toNat 0x22 0xFFFFFFFF ∧
          t.dev.session (growNo b) = s.dev.session (growNo b)))) ∧
    (∀ (s : State) (q : QueueId) (b : List Byte), ReadyHead s.dev q.toNat 4 b 1 → Alone s.dev q.toNat 1 → byteAt b 0 = 3 →
      growJudged s.dev q.toNat b [] = none → growReady s.dev b 0 = true →
      (growOp b = 2 → ∃ t, exec (.growDiscard q []) s = .next t ∧ Completed s.dev t.dev q.toNat 1 ∧
        t.dev.session (growNo b) = { (s.dev.session (growNo b)).endRound with scoresValid := false }) ∧
      (growOp b = 3 → ∃ t, exec (.growClose q []) s = .next t ∧ Completed s.dev t.dev q.toNat 1 ∧
        t.dev.session (growNo b) = Session.reset)) ∧
    (∀ (s : State) (q : QueueId) (b : List Byte) (o p : Nat) (i : Instr), ReadyHead s.dev q.toNat 4 b 1 → Alone s.dev q.toNat 1 →
      byteAt b 0 = 3 → growJudged s.dev q.toNat b [] = some (o, p) →
      (growOp b = 0 ∧ i = .growLevel q []) ∨ (growOp b = 1 ∧ i = .growEndTree q []) ∨ (growOp b = 2 ∧ i = .growDiscard q []) ∨
        (growOp b = 3 ∧ i = .growClose q []) ∨ (4 ≤ growOp b ∧ i = .growLevel q []) →
      ∃ t, exec i s = .next t ∧ Completed s.dev t.dev q.toNat 1 ∧ Recorded s.dev t.dev q.toNat 0x22 o ∧
        ∀ n, t.dev.session n = s.dev.session n) ∧
    (∀ (s : State) (q : QueueId) (c : Cmd) (n : Nat) (r : GrowRetry) (x : Schedule) (y : ScheduleAt),
      (s.dev.qrun q.toNat).running = [c] → c.completed = false → c.work = .growRetry n →
      s.dev.retries.find? (fun k => decide (k.1 = n)) = some (n, r) → r.session.sched = some (x, y) →
      (s.dev.inOrder 0x18 x.ensemble.toNat = true →
        (judgeRound r.session x y (bitOf (field c.bytes 0x22 1) 1) s.dev).1 = 0 →
        ∃ t, exec (.growPublishRetry q) s = .next t ∧ (t.dev.qrun q.toNat).running = [] ∧
          (t.dev.queue q.toNat).retired = (s.dev.queue q.toNat).retired + BitVec.ofNat 64 c.entries ∧
          (t.dev.session n).inRound = false ∧ (t.dev.session n).lastPublished = some (t.dev.ens x.ensemble.toNat).current) ∧
      ((judgeRound r.session x y (bitOf (field c.bytes 0x22 1) 1) s.dev).1 = 5 →
        ∃ t, exec (.growPublishRetry q) s = .next t ∧ (t.dev.queue q.toNat).retired = (s.dev.queue q.toNat).retired ∧
          (∃ k, t.dev.cmd q.toNat c.index = some k ∧ k.work = .growRetry n ∧ k.completed = false) ∧
          t.dev.session n = s.dev.session n ∧ t.dev.retries.find? (fun k => decide (k.1 = n)) = some (n, r)) ∧
      ((judgeRound r.session x y (bitOf (field c.bytes 0x22 1) 1) s.dev).1 ≠ 0 →
        (judgeRound r.session x y (bitOf (field c.bytes 0x22 1) 1) s.dev).1 ≠ 5 →
        ∃ t, exec (.growPublishRetry q) s = .next t ∧ (t.dev.qrun q.toNat).running = [] ∧
          (t.dev.queue q.toNat).retired = (s.dev.queue q.toNat).retired + BitVec.ofNat 64 c.entries ∧
          (t.dev.session n).inRound = false ∧ (t.dev.session n).scoresValid = false ∧
          (c.facts = [] → RecordedAt s.dev t.dev q.toNat c.index 0x20
            (judgeRound r.session x y (bitOf (field c.bytes 0x22 1) 1) s.dev).1))) ∧
    ∀ (s : State) (q : QueueId), (∀ c ∈ s.dev.live q.toNat, ∀ n, c.work ≠ .growRetry n) →
      exec (.growPublishRetry q) s = .next s

/-- O45. An EMB_STEP ABANDON in order completes: every listed table has no staging slot in use, an empty undo log and no
open step; with no request but gathers held at them, no byte of device memory changes but the ROW fields of the freed
staging slots, those of the log of memory errors, and those of the command's completion record, where its ring lies in
device memory. -/
def Obligations.AbandonedStepsChangeNoRow : Prop :=
  ∀ (s : State) (q : QueueId) (b : List Byte), ReadyHead s.dev q.toNat 5 b 1 → Alone s.dev q.toNat 1 → byteAt b 0 = 4 →
    field b 0x22 1 = 2 → embFault b = none → s.dev.poisonedIn (field b 0x18 8) (16 * field b 0x20 2) = 0 →
    blockFails s.dev 2 (BitVec.ofNat 64 (field b 0x10 8)) (stepEntries s.dev b) = false →
    ∃ t, exec (.embStepAbandon q) s = .next t ∧ Completed s.dev t.dev q.toNat 1 ∧
      (∀ e ∈ stepEntries s.dev b, (t.dev.table (stepEntry e).table).staging = [] ∧ (t.dev.table (stepEntry e).table).undo = [] ∧
        (t.dev.table (stepEntry e).table).step = none) ∧
      ((∀ e ∈ stepEntries s.dev b, ∀ g ∈ (s.dev.table (stepEntry e).table).gathers, field g.request 0 1 = 1) →
        ∀ a, ((s.dev.queue q.toNat).inDevice = true → a < (s.dev.queue q.toNat).entryAddr (s.dev.queue q.toNat).started.toNat ∨
            (s.dev.queue q.toNat).entryAddr (s.dev.queue q.toNat).started.toNat + 64 ≤ a) →
          (∀ e ∈ stepEntries s.dev b, ∀ x, (s.dev.table (stepEntry e).table).desc = some x →
            ∀ u ∈ (s.dev.table (stepEntry e).table).staging, ∀ o, o < 8 → s.dev.areaAddr (stepEntry e).table u.channel
              (s.dev.slotAt (stepEntry e).table x u.channel u.slot + o) ≠ some a) →
          a < 0xFF01080000 ∨ 0xFF01180000 ≤ a →
          look 0 t.dev.mem.cells a = look 0 s.dev.mem.cells a)

/-- O46. An EMB_STEP BEGIN in order completes, the step open on every listed table, and other tables are as before. An
EMB_STEP with a faulty field completes with 0x22 and its offset, one with a faulty step block with 0x22 and 0xFFFFFFFF,
and no table changes. APPLY in order of tables of this module alone, with as many row updates as there are staged rows,
completes and leaves every listed table with no open step, no staging and no application in progress, and every engine's
heat list empty; the one staged row of a single SGD table, finite and clean, takes a count one higher and the step's
number in its header. An APPLY whose tables span modules arrives at their groups' barriers and waits, once every scatter
sent for its tables has been added. A GATHER in order of a row of this module to a core of this module writes the row's
bytes, with its header where asked, at DEST; of a key out of range it writes zeros. A SCATTER_ADD in order for the open
step of a table whose rows have an optimizer adds its values into the row's staging slot, or takes one where the
channel's staging is not yet seven eighths full, else the table is incomplete; outside the open step it is a stray. A
faulty request is counted and leaves the tables and the stacks as they were. Completes: embStepBegin, embStepApply,
gather, scatterAdd. -/
def Obligations.StepsAndRequestsOfTables : Prop :=
  (∀ (s : State) (q : QueueId) (b : List Byte), ReadyHead s.dev q.toNat 5 b 1 → Alone s.dev q.toNat 1 → byteAt b 0 = 4 →
    field b 0x22 1 = 0 → embFault b = none → s.dev.poisonedIn (field b 0x18 8) (16 * field b 0x20 2) = 0 →
    blockFails s.dev 0 (BitVec.ofNat 64 (field b 0x10 8)) (stepEntries s.dev b) = false →
    ∃ t, exec (.embStepBegin q) s = .next t ∧ Completed s.dev t.dev q.toNat 1 ∧ Recorded s.dev t.dev q.toNat 0 0 ∧
      (∀ e ∈ stepEntries s.dev b, t.dev.table (stepEntry e).table = { s.dev.table (stepEntry e).table with
        step := some (BitVec.ofNat 64 (field b 0x10 8)), incomplete := false, jobs := [] }) ∧
      ∀ n, n ∉ (stepEntries s.dev b).map (fun e => (stepEntry e).table) → t.dev.table n = s.dev.table n) ∧
    (∀ (s : State) (q : QueueId) (b : List Byte) (i : Instr), ReadyHead s.dev q.toNat 5 b 1 → Alone s.dev q.toNat 1 → byteAt b 0 = 4 →
      (field b 0x22 1 ≠ 1 ∧ field b 0x22 1 ≠ 2 ∧ i = .embStepBegin q) ∨
        (field b 0x22 1 = 1 ∧ ∃ op, i = .embStepApply q op) ∨ (field b 0x22 1 = 2 ∧ i = .embStepAbandon q) →
      (∀ o, embFault b = some o → ∃ t, exec i s = .next t ∧ Completed s.dev t.dev q.toNat 1 ∧ Recorded s.dev t.dev q.toNat 0x22 o ∧
        OnlyQueue s.dev t.dev q.toNat) ∧
      (embFault b = none → s.dev.poisonedIn (field b 0x18 8) (16 * field b 0x20 2) = 0 →
        blockFails s.dev (field b 0x22 1) (BitVec.ofNat 64 (field b 0x10 8)) (stepEntries s.dev b) = true →
        ∃ t, exec i s = .next t ∧ Completed s.dev t.dev q.toNat 1 ∧ Recorded s.dev t.dev q.toNat 0x22 0xFFFFFFFF ∧
          OnlyQueue s.dev t.dev q.toNat)) ∧
    (∀ (s : State) (q : QueueId) (b : List Byte) (rows : Nat), ReadyHead s.dev q.toNat 5 b 1 → Alone s.dev q.toNat 1 →
      byteAt b 0 = 4 → field b 0x22 1 = 1 → embFault b = none → s.dev.poisonedIn (field b 0x18 8) (16 * field b 0x20 2) = 0 →
      blockFails s.dev 1 (BitVec.ofNat 64 (field b 0x10 8)) (stepEntries s.dev b) = false →
      (applyGroups s.dev ((stepEntries s.dev b).map stepEntry) = [] →
        ((stepEntries s.dev b).map (fun e => (s.dev.table (stepEntry e).table).staging.length)).sum ≤ rows →
        (∀ e ∈ stepEntries s.dev b, (s.dev.table (stepEntry e).table).gathers = []) →
        ∃ t, exec (.embStepApply q ⟨[], rows⟩) s = .next t ∧ Completed s.dev t.dev q.toNat 1 ∧ t.dev.embed.engines = [] ∧
          (∀ e ∈ stepEntries s.dev b, (t.dev.table (stepEntry e).table).staging = [] ∧ (t.dev.table (stepEntry e).table).step = none ∧
            (t.dev.table (stepEntry e).table).applying = false) ∧
          ∀ (n : Nat) (x : TableDesc) (u : Staged), (stepEntries s.dev b).map (fun e => (stepEntry e).table) = [n] →
            bitOf (field b 0x23 1) 0 = true → (s.dev.table n).pins = [] → (s.dev.table n).applying = false →
            (s.dev.table n).desc = some x → x.opt = 1 → (s.dev.table n).staging = [u] → (s.dev.table n).incomplete = false →
            (s.dev.queue q.toNat).inDevice = false →
            skipRow x u (s.dev.slotPoisoned n x u || decide (0 < s.dev.poisonedIn (s.dev.rowAddr n x u.row) x.slot))
              (field (s.dev.bytesAt (s.dev.rowAddr n x u.row) x.slot) 0xC 4) = none →
            (∀ o k, o < 8 → k < 12 → s.dev.areaAddr n u.channel (s.dev.slotAt n x u.channel u.slot + o) ≠
              some (s.dev.rowAddr n x u.row + k)) →
            t.dev.bytesAt (s.dev.rowAddr n x u.row) 12 =
              leBytes 4 (field (s.dev.bytesAt (s.dev.rowAddr n x u.row) x.slot) 0 4 + 1) ++ leBytes 8 (field b 0x10 8)) ∧
      (∀ others, applyGroups s.dev ((stepEntries s.dev b).map stepEntry) ≠ [] →
        ∃ t, exec (.embStepApply q ⟨others, rows⟩) s = .next t ∧ (t.dev.queue q.toNat).retired = (s.dev.queue q.toNat).retired ∧
          ∃ k, t.dev.cmd q.toNat (s.dev.queue q.toNat).started = some k ∧ k.completed = false ∧
            ((∃ e ∈ stepEntries s.dev b, (s.dev.table (stepEntry e).table).sent ≠ 0) → k.work = .plain) ∧
            ((∀ e ∈ stepEntries s.dev b, (s.dev.table (stepEntry e).table).sent = 0) → ∃ w, k.work = .apply w ∧
              w.map (·.1) = applyGroups s.dev ((stepEntries s.dev b).map stepEntry)))) ∧
    (∀ (s : State) (r : List Byte) (slot : SlotId) (x : TableDesc), byteAt r 0 = 1 → badRequest s.dev r = false →
      (s.dev.table (field r 2 2)).desc = some x → bits (field r 0x10 8) 45 32 = s.dev.fabric.cfg.moduleId.toNat →
      (∀ g p, x.rowOf (field r 8 5) = some g → (s.dev.ownerRow x g).1 = s.dev.fabric.cfg.moduleId.toNat →
        (s.dev.table (field r 2 2)).applying = false → s.dev.placeOf (bits (field r 0x10 8) 30 20) = some p →
        ∃ t, exec (.gather r slot) s = .next t ∧
          (t.dev.core p).bytesAt (field r 0x10 8 % 2 ^ 20) (gatherBytes x (bitOf (field r 1 1) 0)) =
            s.dev.bytesAt (s.dev.rowAddr (field r 2 2) x (s.dev.ownerRow x g).2 + (if bitOf (field r 1 1) 0 then 0 else 16))
              (gatherBytes x (bitOf (field r 1 1) 0)) ∧ t.dev.mem.cells = s.dev.mem.cells ∧
          Counts s.dev t.dev (cBadger (s.dev.rowChannel (field r 2 2) x (s.dev.ownerRow x g).2) 1) 1) ∧
      (∀ p, x.rowOf (field r 8 5) = none → s.dev.placeOf (bits (field r 0x10 8) 30 20) = some p →
        ∃ t, exec (.gather r slot) s = .next t ∧
          (t.dev.core p).bytesAt (field r 0x10 8 % 2 ^ 20) (gatherBytes x (bitOf (field r 1 1) 0)) =
            List.replicate (gatherBytes x (bitOf (field r 1 1) 0)) 0 ∧ t.dev.embed = s.dev.embed ∧
          Counts s.dev t.dev (cBadger (homeChannel (field r 2 2) 0) 5) 1)) ∧
    (∀ (s : State) (r : List Byte) (slot : SlotId) (x : TableDesc) (g l k : Nat), byteAt r 0 = 2 → badRequest s.dev r = false →
      (s.dev.table (field r 2 2)).desc = some x → x.rowOf (field r 8 5) = some g →
      s.dev.ownerRow x g = (s.dev.fabric.cfg.moduleId.toNat, l) → k = s.dev.rowChannel (field r 2 2) x l →
      (∀ u, x.opt ≠ 0 → (s.dev.table (field r 2 2)).step = some u → u.toNat % 2 ^ 32 = field r 4 4 →
        (∀ v, (s.dev.table (field r 2 2)).staged l = some v →
          ∃ t, exec (.scatterAdd r slot) s = .next t ∧ (t.dev.table (field r 2 2)).staged l =
              some (stageAdd x (gradValues (bitOf (field r 1 1) 1) x.width.toNat (r.drop 32)) v) ∧
            (t.dev.table (field r 2 2)).incomplete = (s.dev.table (field r 2 2)).incomplete ∧
            Counts s.dev t.dev (cBadger k 2) 1) ∧
        ((s.dev.table (field r 2 2)).staged l = none →
          (8 * (((s.dev.table (field r 2 2)).inUse k).length + 1) ≤ 7 * x.slots.toNat →
            ∃ t, exec (.scatterAdd r slot) s = .next t ∧ (∃ n, (t.dev.table (field r 2 2)).staged l =
                some (stageAdd x (gradValues (bitOf (field r 1 1) 1) x.width.toNat (r.drop 32))
                  (freshStaged x k n l (BitVec.ofNat 32 (field r 4 4))))) ∧
              (t.dev.table (field r 2 2)).incomplete = (s.dev.table (field r 2 2)).incomplete ∧
              Counts s.dev t.dev (cBadger k 2) 1) ∧
          (7 * x.slots.toNat < 8 * (((s.dev.table (field r 2 2)).inUse k).length + 1) →
            ∃ t, exec (.scatterAdd r slot) s = .next t ∧ (t.dev.table (field r 2 2)).incomplete = true ∧
              (t.dev.table (field r 2 2)).staging = (s.dev.table (field r 2 2)).staging ∧
              t.dev.mem.cells = s.dev.mem.cells ∧ Counts s.dev t.dev (cBadger k 7) 1))) ∧
      (x.opt = 0 ∨ (∀ u, (s.dev.table (field r 2 2)).step = some u → u.toNat % 2 ^ 32 ≠ field r 4 4) →
        ∃ t, exec (.scatterAdd r slot) s = .next t ∧ t.dev.embed = s.dev.embed ∧ t.dev.mem.cells = s.dev.mem.cells ∧
          Counts s.dev t.dev (cBadger k 6) 1)) ∧
    ∀ (s : State) (r : List Byte) (slot : SlotId) (i : Instr), badRequest s.dev r = true →
      (byteAt r 0 = 1 ∧ i = .gather r slot) ∨ (byteAt r 0 = 2 ∧ i = .scatterAdd r slot) →
      ∃ t, exec i s = .next t ∧ t.dev.embed = s.dev.embed ∧ t.dev.mem = s.dev.mem ∧ t.dev.mesh = s.dev.mesh ∧
        Counts s.dev t.dev (cSide (sideOfSlot slot.val) 5) 1

/-- O47. For XS elements of either width whose NaN tags, where there are any, have a class other than 0, adding them in
any two orders from zero gives the same register and the same tag. -/
def Obligations.ExactSumsHaveNoOrder : Prop :=
  ∀ (wide : Bool) (l m : List Xs), l.Perm m → (∀ x ∈ l, tagKind x.tag = 3 → tagClass x.tag ≠ 0) →
    l.foldl (xsAdd wide) Xs.zero = m.foldl (xsAdd wide) Xs.zero

/-- O48. On a core that issues, with local memory that gives no uncorrectable error: an INT8 step of a tile row leaves
in each of its columns the exact sum of the products present, added to the entry but in a first step, clamped to INT32,
and leaves other tile rows and local memory as they were; an LF32 step of one k position writes its rounded product in a
first step and else adds it with one rounding; a control field with a reserved encoding completes the core's command
with 0x22; WEIGHT_LOAD stages the block at the address and leaves the active one; WEIGHT_SWAP exchanges the two; a
promotion adds each entry of its tile row, as an addend, to its XS total; a preload writes every value of its line,
converted to the entry's format under its own rounding, SAT and IOV, to its tile row. On a core that does not issue,
none of them does anything. Completes: arrayStep, weightLoad, weightSwap, promotion, preload. -/
def Obligations.ArrayStepsSumAndWeightsLoad : Prop :=
  (∀ (s : State) (p : PosId) (op : ArrayOp) (ctl : AccCtl), s.dev.issues p.val = true → accCtl op.ctl = some ctl →
    (∀ e ∈ op.lmErrors, e.2 = false) →
    (op.left = .int8 → op.weight = .int8 → inLine 1 op.addr.toNat 64 = true →
      ∃ t, exec (.arrayStep p op) s = .next t ∧ (t.dev.core p.val).lm = (s.dev.core p.val).lm ∧
        (∀ r e, e < 32 → r ≠ op.row.toNat → (t.dev.core p.val).entryAt r e = (s.dev.core p.val).entryAt r e) ∧
        (∀ i, i ≠ p.val → t.dev.core i = s.dev.core i) ∧
        ∀ n, n < op.columns.val →
          (∀ i, i < 64 → op.k0.toNat + i < op.kEnd.toNat → ((s.dev.core p.val).elemAt .int8 (op.addr.toNat + i)).2 = false ∧
            ((s.dev.core p.val).active.weight .int8 64 i n).2 = false) →
          (ctl.first = false → ((s.dev.core p.val).entryAt op.row.toNat n).2 = false) →
          (t.dev.core p.val).entryAt op.row.toNat n =
            ((clampInt 32 ctl.iov ((((List.range 64).filter (fun i => decide (op.k0.toNat + i < op.kEnd.toNat))).map (fun i =>
              toSigned 8 ((s.dev.core p.val).elemAt .int8 (op.addr.toNat + i)).1 *
                toSigned 8 ((s.dev.core p.val).active.weight .int8 64 i n).1)).sum +
                  (if ctl.first then 0 else toSigned 32 ((s.dev.core p.val).entryAt op.row.toNat n).1))).bits, false)) ∧
    (op.left = .lf32 → op.weight = .lf32 → inLine 4 op.addr.toNat 32 = true → op.kEnd.toNat = op.k0.toNat + 1 →
      ∃ t, exec (.arrayStep p op) s = .next t ∧ (t.dev.core p.val).lm = (s.dev.core p.val).lm ∧
        ∀ (n x y z : Nat), n < op.columns.val → (s.dev.core p.val).elemAt .lf32 op.addr.toNat = (x, false) →
          (s.dev.core p.val).active.weight .lf32 8 0 n = (y, false) →
          z = (mulElem .lf32 ctl.rnd 0 (s.dev.nanCore p.val) (wide32 .lf32 x) (wide32 .lf32 y)).bits →
          (ctl.first = true → (t.dev.core p.val).entryAt op.row.toNat n = (z % 2 ^ 32, false)) ∧
          ∀ v, ctl.first = false → (s.dev.core p.val).entryAt op.row.toNat n = (v, false) →
            (t.dev.core p.val).entryAt op.row.toNat n =
              ((addElem .lf32 ctl.rnd 0 (s.dev.nanCore p.val) v z).bits % 2 ^ 32, false))) ∧
    (∀ (s : State) (p : PosId) (op : ArrayOp) (q : Nat) (c : Cmd), s.dev.issues p.val = true → accCtl op.ctl = none →
      s.dev.ownerOf p.val = some (q, c.index) → (s.dev.qrun q).running = [c] → c.completed = false → c.committed = false →
      c.facts = [] → (∀ j ∈ s.dev.mesh.jobs, j.preempted = false) →
      ∃ t, exec (.arrayStep p op) s = .next t ∧ (t.dev.qrun q).running = [] ∧
        RecordedAt s.dev t.dev q c.index 0x22 0xFFFFFFFF ∧ (t.dev.core p.val).acc = (s.dev.core p.val).acc) ∧
    (∀ (s : State) (p : PosId) (f : Fmt) (a : BitVec 20) (ks : Nat) (lm : LmErrors), s.dev.issues p.val = true →
      stepShape f f = some ks → inLines a.toNat (blockBytes f) = true → (∀ e ∈ lm, e.2 = false) →
      ∃ t, exec (.weightLoad p f ⟨a, lm⟩) s = .next t ∧ (t.dev.core p.val).staged.fmt = f ∧
        (t.dev.core p.val).staged.bytes = (s.dev.core p.val).bytesAt a.toNat (blockBytes f) ∧
        (t.dev.core p.val).active = (s.dev.core p.val).active ∧ (t.dev.core p.val).lm = (s.dev.core p.val).lm) ∧
    (∀ (s : State) (p : PosId), s.dev.issues p.val = true →
      ∃ t, exec (.weightSwap p) s = .next t ∧ (t.dev.core p.val).active = (s.dev.core p.val).staged ∧
        (t.dev.core p.val).staged = (s.dev.core p.val).active ∧ (t.dev.core p.val).lm = (s.dev.core p.val).lm) ∧
    (∀ (s : State) (p : PosId) (op : PromoOp), s.dev.issues p.val = true → promoFits op = true →
      (∀ e ∈ op.lmErrors, e.2 = false) →
      ∃ t, exec (.promotion p op) s = .next t ∧ (t.dev.core p.val).acc = (s.dev.core p.val).acc ∧ ∀ n, n < op.columns.val →
        ((t.dev.core p.val).xsAt (promoWide op) op.values.toNat op.tags.toNat n).1 =
          xsAdd (promoWide op) ((s.dev.core p.val).xsAt (promoWide op) op.values.toNat op.tags.toNat n).1
            (promoAddend op (s.dev.coreStep p.val) n ((s.dev.core p.val).entryAt op.row.toNat n)).1) ∧
    (∀ (s : State) (p : PosId) (op : PreloadOp), s.dev.issues p.val = true → preloadFits op = true → op.fmt.isXs = false →
      (∀ e ∈ op.lmErrors, e.2 = false) →
      ∃ t, exec (.preload p op) s = .next t ∧ (t.dev.core p.val).lm = (s.dev.core p.val).lm ∧
        ∀ i e o, i < op.rows.val → e < 32 → op.firstRow.toNat + i < 512 → o = (if op.residual then 32 * i else 0) + e →
          ((s.dev.core p.val).elemAt op.fmt (op.src.toNat + op.fmt.size * o)).2 = false →
          (t.dev.core p.val).entryAt (op.firstRow.toNat + i) e =
            ((convElem op.fmt (preloadFmt op) op.sat op.iov op.rnd (preloadSr op (s.dev.coreStep p.val) o)
              ((s.dev.core p.val).elemAt op.fmt (op.src.toNat + op.fmt.size * o)).1).bits % 2 ^ 32, false)) ∧
    ∀ (s : State) (p : PosId) (i : Instr), s.dev.issues p.val = false →
      ((∃ op, i = .arrayStep p op) ∨ (∃ f op, i = .weightLoad p f op) ∨ i = .weightSwap p ∨ (∃ op, i = .promotion p op) ∨
        ∃ op, i = .preload p op) →
      exec i s = .next s

/-- O49. On a core that issues, with local memory that gives no uncorrectable error: a vector addition of INT16 or LF32
lines leaves the sum of the two lanes in each lane of the destination, exact where INT16 holds it and rounded as LF32;
MOMENTS adds each clean element of its line to T1 and its square to T2, where the totals and the line lie apart, and
SUMSQ its square to T2, leaving T1 alone; the MOMENTS finish rounds the mean once from a finite total in range, and the
variance from the two. The output stage writes each finished element of its columns at its destination; a control field
with a reserved encoding completes the core's command with 0x22. On a core that does not issue, none of them does
anything. Completes: vectorOp, moments, sumsq, momentsFinish, outputStage. -/
def Obligations.VectorAndOutputUnitsCompute : Prop :=
  (∀ (s : State) (p : PosId) (op : VecOp) (a b : BitVec 20), s.dev.issues p.val = true → op.op = .add → op.a = .lm a → op.b = .lm b →
    vecFits op = true → (∀ e ∈ op.lmErrors, e.2 = false) → (op.fmt = .int16 ∨ op.fmt = .lf32) →
    ∃ t, exec (.vectorOp p op) s = .next t ∧ (t.dev.core p.val).acc = (s.dev.core p.val).acc ∧ ∀ i, i < op.lanes.val →
      ((s.dev.core p.val).elemAt op.fmt (a.toNat + op.fmt.size * i)).2 = false →
      ((s.dev.core p.val).elemAt op.fmt (b.toNat + op.fmt.size * i)).2 = false →
      (op.fmt = .int16 →
        -(2 ^ 15) ≤ toSigned 16 ((s.dev.core p.val).elemAt .int16 (a.toNat + 2 * i)).1 +
            toSigned 16 ((s.dev.core p.val).elemAt .int16 (b.toNat + 2 * i)).1 →
        toSigned 16 ((s.dev.core p.val).elemAt .int16 (a.toNat + 2 * i)).1 +
            toSigned 16 ((s.dev.core p.val).elemAt .int16 (b.toNat + 2 * i)).1 < 2 ^ 15 →
        toSigned 16 ((t.dev.core p.val).elemAt .int16 (op.dst.toNat + 2 * i)).1 =
          toSigned 16 ((s.dev.core p.val).elemAt .int16 (a.toNat + 2 * i)).1 +
            toSigned 16 ((s.dev.core p.val).elemAt .int16 (b.toNat + 2 * i)).1) ∧
      (op.fmt = .lf32 →
        ((t.dev.core p.val).elemAt .lf32 (op.dst.toNat + 4 * i)).1 =
          (addElem .lf32 op.rnd (vecSr op (s.dev.coreStep p.val) i) (s.dev.nanCore p.val)
            ((s.dev.core p.val).elemAt .lf32 (a.toNat + 4 * i)).1
            ((s.dev.core p.val).elemAt .lf32 (b.toNat + 4 * i)).1).bits % 2 ^ 32)) ∧
    (∀ (s : State) (p : PosId) (op : MomOp), s.dev.issues p.val = true → momFits op = true → (∀ e ∈ op.lmErrors, e.2 = false) →
      (∀ i, i < op.lanes.val → ((s.dev.core p.val).elemAt (momFmt op) (op.src.toNat + (momFmt op).size * i)).2 = false) →
      (∀ x ∈ [op.t1.toNat, op.t2.toNat], ∀ y ∈ [op.t1Tag.toNat, op.t2Tag.toNat], y < x ∨ x + xsSize op.wide ≤ y) →
      op.t1Tag ≠ op.t2Tag →
      (op.t1.toNat + xsSize op.wide ≤ op.t2.toNat ∨ op.t2.toNat + xsSize op.wide ≤ op.t1.toNat) →
      (∃ t, exec (.moments p op) s = .next t ∧
        ((t.dev.core p.val).xsAt op.wide op.t1.toNat op.t1Tag.toNat 0).1 =
          (List.range op.lanes.val).foldl (fun a i => xsAdd op.wide a
            (xsAddend op.wide op.base1.toInt op.rnd (srBits op.tensor (op.index + BitVec.ofNat 48 i) (s.dev.coreStep p.val)) (momFmt op)
              (readFloat (momFmt op) ((s.dev.core p.val).elemAt (momFmt op) (op.src.toNat + (momFmt op).size * i)).1)).1)
            ((s.dev.core p.val).xsAt op.wide op.t1.toNat op.t1Tag.toNat 0).1 ∧
        ((op.t1.toNat + xsSize op.wide ≤ op.src.toNat ∨ op.src.toNat + (momFmt op).size * op.lanes.val ≤ op.t1.toNat) →
          (op.t1Tag.toNat < op.src.toNat ∨ op.src.toNat + (momFmt op).size * op.lanes.val ≤ op.t1Tag.toNat) →
          (∀ i, i < op.lanes.val → (op.src.toNat + (momFmt op).size * i) / 64 ≠ op.t1.toNat / 64 ∧
            (op.src.toNat + (momFmt op).size * i) / 64 ≠ op.t1Tag.toNat / 64) →
          op.t1.toNat / 64 ≠ op.t2.toNat / 64 →
          ((t.dev.core p.val).xsAt op.wide op.t2.toNat op.t2Tag.toNat 0).1 =
            (List.range op.lanes.val).foldl (fun a i => xsAdd op.wide a
              (xsAddend op.wide op.base2.toInt op.rnd (srBits op.tensor (op.index + BitVec.ofNat 48 i) (s.dev.coreStep p.val)) (momFmt op)
                (squareNum (readFloat (momFmt op)
                  ((s.dev.core p.val).elemAt (momFmt op) (op.src.toNat + (momFmt op).size * i)).1))).1)
              ((s.dev.core p.val).xsAt op.wide op.t2.toNat op.t2Tag.toNat 0).1)) ∧
      ∃ t, exec (.sumsq p op) s = .next t ∧
        ((t.dev.core p.val).xsAt op.wide op.t1.toNat op.t1Tag.toNat 0).1 =
          ((s.dev.core p.val).xsAt op.wide op.t1.toNat op.t1Tag.toNat 0).1 ∧
        ((t.dev.core p.val).xsAt op.wide op.t2.toNat op.t2Tag.toNat 0).1 =
          (List.range op.lanes.val).foldl (fun a i => xsAdd op.wide a
            (xsAddend op.wide op.base2.toInt op.rnd (srBits op.tensor (op.index + BitVec.ofNat 48 i) (s.dev.coreStep p.val)) (momFmt op)
              (squareNum (readFloat (momFmt op)
                ((s.dev.core p.val).elemAt (momFmt op) (op.src.toNat + (momFmt op).size * i)).1))).1)
            ((s.dev.core p.val).xsAt op.wide op.t2.toNat op.t2Tag.toNat 0).1) ∧
    (∀ (s : State) (p : PosId) (op : MomFinOp) (x y : Xs), s.dev.issues p.val = true → momFinFits op = true →
      (∀ e ∈ op.lmErrors, e.2 = false) →
      (op.mean.toNat + 4 ≤ op.variance.toNat ∨ op.variance.toNat + 4 ≤ op.mean.toNat) →
      (s.dev.core p.val).xsAt op.wide op.t1.toNat op.t1Tag.toNat 0 = (x, false) → tagKind x.tag = 0 →
      xsInRange op.wide (xsInt op.wide x) = true → op.count ≠ 0 →
      ∃ t, exec (.momentsFinish p op) s = .next t ∧ ((t.dev.core p.val).elemAt .lf32 op.mean.toNat).1 =
        (roundArith .lf32 op.rnd (srBits op.tensor op.index (s.dev.coreStep p.val)) (decide (xsInt op.wide x < 0))
          (xsInt op.wide x).natAbs op.count.toNat op.base1.toInt).bits % 2 ^ 32 ∧
        ((s.dev.core p.val).xsAt op.wide op.t2.toNat op.t2Tag.toNat 0 = (y, false) → tagKind y.tag = 0 →
          xsInRange op.wide (xsInt op.wide y) = true → op.count.toNat * (op.count.toNat - b2n op.sample) ≠ 0 →
          0 ≤ (varTop op x y).1 →
          ((t.dev.core p.val).elemAt .lf32 op.variance.toNat).1 =
            (roundArith .lf32 op.rnd (srBits op.tensor (op.index + 1) (s.dev.coreStep p.val)) false (varTop op x y).1.natAbs
              (op.count.toNat * (op.count.toNat - b2n op.sample)) (varTop op x y).2).bits % 2 ^ 32)) ∧
    (∀ (s : State) (p : PosId) (op : OutOp) (f : Fmt), s.dev.issues p.val = true → outControlBad op.control.toNat = false →
      outFmt (bits op.control.toNat 3 0) = some f → outFits op f = true → (∀ e ∈ op.lmErrors, e.2 = false) →
      ∃ t, exec (.outputStage p op) s = .next t ∧ (t.dev.core p.val).acc = (s.dev.core p.val).acc ∧ ∀ n, n < op.columns.val →
        ((t.dev.core p.val).elemAt f (op.dst.toNat + f.size * n)).1 =
          (outColumn op (s.dev.coreStep p.val) f (s.dev.core p.val) (s.dev.nanCore p.val) n).1.1 % 2 ^ (8 * f.size)) ∧
    (∀ (s : State) (p : PosId) (op : OutOp) (q : Nat) (c : Cmd), s.dev.issues p.val = true →
      outControlBad op.control.toNat = true → s.dev.ownerOf p.val = some (q, c.index) → (s.dev.qrun q).running = [c] →
      c.completed = false → c.committed = false → c.facts = [] →
      ∃ t, exec (.outputStage p op) s = .next t ∧ (t.dev.qrun q).running = [] ∧
        (t.dev.queue q).retired = (s.dev.queue q).retired + BitVec.ofNat 64 c.entries ∧
        RecordedAt s.dev t.dev q c.index 0x22 0xFFFFFFFF ∧ ∀ k, k ≠ p.val → t.dev.core k = s.dev.core k) ∧
    ∀ (s : State) (p : PosId) (i : Instr), s.dev.issues p.val = false →
      ((∃ op, i = .vectorOp p op) ∨ (∃ op, i = .moments p op) ∨ (∃ op, i = .sumsq p op) ∨ (∃ op, i = .momentsFinish p op) ∨
        ∃ op, i = .outputStage p op) →
      exec i s = .next s

/-- O50. On a core that issues, an item of the right kind at the front of its list that may begin runs where its
operands lie as they must: it leaves the list, occupies its unit for its cycles, counts in DEFER_ITEMS, and a sum sends
its owner one contribution that names the item's chunk and this core; where no such item may begin, the lists stay. ADD
takes the contribution that its item names: a new one is received once and added to the totals that it reaches, one
received already is counted and changes no total. A weight update that is due and has a stash slot leaves every element
that the core owns, and that is due for it, at the update's number with what the optimizer makes of it; one that is not
due changes none. A dense swap of a group that is not held: a forward pass begins with its header in local memory and
the micro-batch in flight, a product begins with the core's home shard, a rotation turns to the shard that has arrived,
a backward pass ends, or where the version or the shard has not come, the group is held. Completes: wgradTile, biasSum,
scaleSum, normSum, add, weightUpdate, swap. -/
def Obligations.DeferredItemsRun : Prop :=
  (∀ (s : State) (p : PosId) (op : DeferOp) (i : DeferItem × Nat) (w : TowerDecl) (st : StageDecl) (td : TensorDecl) (o : Nat),
    s.dev.issues p.val = true → s.dev.placeOf i.1.owner.toNat = some o → (∀ e ∈ op.lmErrors, e.2 = false) →
    (∀ ctl ks, nextItem s.dev p.val true 1 = some i → accCtl op.control = some ctl → stepShape op.fmt op.fmt = some ks →
      s.dev.sumTensor p.val i.1.layer 1 = some (w, st, td) → wgradFits op ks = true →
      ∃ t, exec (.wgradTile p op) s = .next t ∧ (t.dev.core p.val).dense.array = (s.dev.core p.val).dense.array.drop 1 ∧
        (t.dev.core p.val).dense.arrayBusy = i.2 + i.1.cycles.toNat ∧ Counts s.dev t.dev (cCore p.val 16) 1 ∧
        ∃ c, (t.dev.core o).dense.arrived = (s.dev.core o).dense.arrived ++ [c] ∧ c.sender = s.dev.logicalOf p.val ∧
          c.chunk = itemKey i.1 (itemSet s.dev w i.1) ∧ c.values.length = tileRows td i.1 * tileColumns td i.1) ∧
    (∀ (kind : Byte) (x : Instr) (products : Bool), nextItem s.dev p.val false kind = some i →
      (kind = 2 ∧ x = .biasSum p op ∧ products = false) ∨ (kind = 3 ∧ x = .scaleSum p op ∧ products = true) ∨
        (kind = 4 ∧ x = .normSum p op ∧ products = true) →
      s.dev.sumTensor p.val i.1.layer kind.toNat = some (w, st, td) → columnFits op products = true →
      ∃ t, exec x s = .next t ∧ (t.dev.core p.val).dense.vector = (s.dev.core p.val).dense.vector.drop 1 ∧
        (t.dev.core p.val).dense.vectorBusy = i.2 + i.1.cycles.toNat ∧ Counts s.dev t.dev (cCore p.val 16) 1 ∧
        ∃ c, (t.dev.core o).dense.arrived = (s.dev.core o).dense.arrived ++ [c] ∧ c.sender = s.dev.logicalOf p.val ∧
          c.chunk = itemKey i.1 (itemSet s.dev w i.1))) ∧
    (∀ (s : State) (p : PosId) (op : DeferOp) (x : Instr),
      (x = .wgradTile p op ∧ nextItem s.dev p.val true 1 = none) ∨ (x = .biasSum p op ∧ nextItem s.dev p.val false 2 = none) ∨
        (x = .scaleSum p op ∧ nextItem s.dev p.val false 3 = none) ∨ (x = .normSum p op ∧ nextItem s.dev p.val false 4 = none) ∨
        (x = .add p ∧ nextItem s.dev p.val false 5 = none) →
      ∃ t, exec x s = .next t ∧ (t.dev.core p.val).dense = (s.dev.core p.val).dense) ∧
    (∀ (s : State) (p : PosId) (i : DeferItem × Nat) (c : Contribution), s.dev.issues p.val = true →
      nextItem s.dev p.val false 5 = some i → (s.dev.core p.val).dense.taken i.1 = some c →
      ∃ t, exec (.add p) s = .next t ∧ (t.dev.core p.val).dense.vector = (s.dev.core p.val).dense.vector.drop 1 ∧
        (t.dev.core p.val).dense.arrived = (s.dev.core p.val).dense.arrived.erase c ∧
        (c.chunk ∉ (s.dev.core p.val).dense.received →
          (t.dev.core p.val).dense.received = (s.dev.core p.val).dense.received ++ [c.chunk] ∧
          ((c.values.map (·.1)).Nodup → ∀ v ∈ c.values, look OwnedElem.reset (t.dev.core p.val).dense.owned v.1 =
            addTotal c.chunk.second v.2 (look OwnedElem.reset (s.dev.core p.val).dense.owned v.1))) ∧
        (c.chunk ∈ (s.dev.core p.val).dense.received → (t.dev.core p.val).dense.owned = (s.dev.core p.val).dense.owned ∧
          (t.dev.core p.val).dense.received = (s.dev.core p.val).dense.received ∧ Counts s.dev t.dev (cCore p.val 18) 1)) ∧
    (∀ (s : State) (p : PosId) (op : UpdateOp) (j : Job) (v : ImageVersion) (w : TowerDecl) (st : StageDecl) (td : TensorDecl),
      s.dev.issues p.val = true → s.dev.jobAt (s.dev.logicalOf p.val) = some j → s.dev.jobImage j = some v →
      imageTensor v.image op.tensor = some (w, st, td) →
      (∀ k, s.dev.updateDue j w op.update.toNat = true → op.update = (s.dev.stash w.header.toNat).newest + 1 →
        (takeStash w.header.toNat p.val op.update s.dev).1 = some k →
        ∃ t, exec (.weightUpdate p op) s = .next t ∧ ∀ e ∈ s.dev.ownedOf p.val td.id,
          op.update.toNat = (look OwnedElem.reset (s.dev.core p.val).dense.owned (elemKey td.id e)).done.toNat + 1 →
          look OwnedElem.reset (t.dev.core p.val).dense.owned (elemKey td.id e) =
            (updateElem td (s.dev.updateAt p.val w td op.update) op.others (s.dev.nanCore p.val) e
              (look OwnedElem.reset (s.dev.core p.val).dense.owned (elemKey td.id e))).1 ∧
          (look OwnedElem.reset (t.dev.core p.val).dense.owned (elemKey td.id e)).done = op.update) ∧
      (s.dev.updateDue j w op.update.toNat = false ∨ op.update ≠ (s.dev.stash w.header.toNat).newest + 1 →
        ∃ t, exec (.weightUpdate p op) s = .next t ∧ (t.dev.core p.val).dense = (s.dev.core p.val).dense ∧
          t.dev.mesh.stashes = s.dev.mesh.stashes)) ∧
    (∀ (s : State) (n : SlotId) (j : Job) (v : ImageVersion) (x : DenseSwap),
      s.dev.jobAt (s.dev.logicalOf (n.val / 8)) = some j → s.dev.jobImage j = some v → j.preempted = false →
      (s.dev.core (n.val / 8)).waiting = [] → j.held = false → (∀ w ∈ v.image.towers, (s.dev.stash w.header.toNat).ripe = none) →
      (denseReady s.dev (n.val / 8) (s.dev.logicalOf (n.val / 8)) v.image x = true →
        (∀ (h : BitVec 40) (m : U64) (a : BitVec 20) (w : TowerDecl), x = .start h m a → a.toNat + 16 ≤ 2 ^ 20 →
          v.image.towers.find? (fun w => w.header = h) = some w →
          ∃ t, exec (.swap ⟨n, (some x)⟩) s = .next t ∧
            (t.dev.core (n.val / 8)).headerAt a.toNat = (m, BitVec.ofNat 32 (towerVersion w m.toNat)) ∧
            ∃ f ∈ (t.dev.stash h.toNat).flight, f.1 = m) ∧
        (∀ (h : BitVec 40) (a : BitVec 20), x = .finish h a →
          ∃ t, exec (.swap ⟨n, (some x)⟩) s = .next t ∧ (∀ f ∈ (t.dev.stash h.toNat).flight,
            f.1 = ((s.dev.core (n.val / 8)).headerAt a.toNat).1 → s.dev.logicalOf (n.val / 8) ∉ f.2.2) ∧
            t.dev.mesh.cores = s.dev.mesh.cores) ∧
        (∀ (tensor : U32) (back : Bool) (r : Rotation) (k : Nat) (w : TowerDecl) (st : StageDecl) (td : TensorDecl), x = .rotate tensor back →
          imageTensor v.image tensor = some (w, st, td) → (s.dev.core (n.val / 8)).dense.rotation td.id back = some r →
          r.arrived = some k →
          ∃ t y, exec (.swap ⟨n, (some x)⟩) s = .next t ∧ (t.dev.core (n.val / 8)).dense.rotation td.id back = some y ∧
            y.held = k ∧ y.step = r.step + 1 ∧ y.halfB = (!r.halfB) ∧ y.version = r.version) ∧
        (∀ (tensor : U32) (back : Bool) (a : BitVec 20) (w : TowerDecl) (st : StageDecl) (td : TensorDecl), x = .product tensor back a →
          imageTensor v.image tensor = some (w, st, td) → td.sharded = true →
          ∃ t y, exec (.swap ⟨n, (some x)⟩) s = .next t ∧ (t.dev.core (n.val / 8)).dense.rotation td.id back = some y ∧ y.step = 0 ∧
            y.held = ringPlace st (s.dev.logicalOf (n.val / 8)) ∧ y.halfB = false ∧
            y.version = ((s.dev.core (n.val / 8)).headerAt a.toNat).2)) ∧
      (denseReady s.dev (n.val / 8) (s.dev.logicalOf (n.val / 8)) v.image x = false →
        ∃ t, exec (.swap ⟨n, (some x)⟩) s = .next t ∧ (t.dev.core (n.val / 8)).dense = (s.dev.core (n.val / 8)).dense ∧
          ∃ k, t.dev.job j.queue j.index = some k ∧ k.held = true ∧ (n.val / 8, x) ∈ k.lateDense)) ∧
    ∀ (s : State) (n : SlotId) (x : DenseSwap), (∀ j, s.dev.jobAt (s.dev.logicalOf (n.val / 8)) = some j → j.preempted = true) →
      exec (.swap ⟨n, (some x)⟩) s = .next s

/-- O51. With REPLAY agreed, a fault in the job of a running command past its first restart point, on this module alone
and able to replay, puts the job back: its attempts count one more, it is no longer held, no arrival stands, its
schedule is at the restart point, and its command counts a replay and carries the note REPLAYED. An uncorrectable error
that a core's local memory finds in a WEIGHT_LOAD does the same in place of the load. Where the replay fails, or REPLAY
is not agreed, the command completes with 0x10. A fault that touches no running command changes nothing. Completes:
faultReplay. -/
def Obligations.FaultsReplayJobs : Prop :=
  (∀ (s : State) (q : QueueId) (i : U32) (c : Cmd) (j : Job), s.dev.cmd q.toNat i = some c → c.completed = false →
    c.committed = false → s.dev.job q.toNat i = some j →
    (∀ v, s.dev.agreed 13 = true → s.dev.replayFails q.toNat i = false → s.dev.jobImage j = some v → s.dev.jobGroup j = none →
      j.segment ≠ 0 →
      (∃ t, exec (.faultReplay q i) s = .next t ∧
        (∃ k, t.dev.job q.toNat i = some k ∧ k.attempts = j.attempts + 1 ∧ k.held = false ∧ k.arrivals = [] ∧
          k.segment = j.segment ∧ k.cores = j.cores ∧ k.cycle = j.restartCycle ∧ k.flits = [] ∧ k.lateSlots = []) ∧
        ∃ k, t.dev.cmd q.toNat i = some k ∧ k.replays = c.replays + 1 ∧ bitOf k.notes.toNat 0 = true ∧ k.completed = false) ∧
      ∀ (p : PosId) (f : Fmt) (a x : BitVec 20) (ks : Nat), s.dev.issues p.val = true → stepShape f f = some ks →
        inLines a.toNat (blockBytes f) = true → s.dev.ownerOf p.val = some (q.toNat, i) → (s.dev.core p.val).ueTimes = [] →
        ∃ t, exec (.weightLoad p f ⟨a, [(x, true)]⟩) s = .next t ∧
          (∃ k, t.dev.job q.toNat i = some k ∧ k.attempts = j.attempts + 1) ∧
          ∃ k, t.dev.cmd q.toNat i = some k ∧ k.replays = c.replays + 1) ∧
    (s.dev.agreed 13 = false ∨ s.dev.replayFails q.toNat i = true → s.dev.embed.tables = [] → (s.dev.qrun q.toNat).running = [c] →
      c.facts = [] → j.preempted = false →
      ∃ t, exec (.faultReplay q i) s = .next t ∧ (t.dev.qrun q.toNat).running = [] ∧
        (t.dev.queue q.toNat).retired = (s.dev.queue q.toNat).retired + BitVec.ofNat 64 c.entries ∧
        RecordedAt s.dev t.dev q.toNat i 0x10 0)) ∧
    ∀ (s : State) (q : QueueId) (i : U32), (∀ c, s.dev.cmd q.toNat i = some c → c.completed = true ∨ c.committed = true) →
      exec (.faultReplay q i) s = .next s

/-- O52. A data flit for this module that comes in order on an ACTIVE link is taken: the link expects the next SEQ and
counts it. STREAM_OPEN opens the half that takes it; while the half is still full it waits and nothing happens; for no
half it is taken and does nothing; while REPLAY is set a half from outside the job is dropped and counted. STREAM_DATA
of a LINK stream lands as many bytes as it carries, and the half's last one is acknowledged to the sender; for no half
it lands nothing. STREAM_ACK counts as returned for the transfer in hand, or for a spilled half that still waits. A
FABRIC_READ of one block counts the access in the block's channel and answers a block of up to 240 bytes with its bytes;
a block outside device memory is not answered. FABRIC_WRITE leaves its bytes in device memory and no other byte, its
whole granules counted, and is acknowledged; outside device memory it writes nothing. A BADGER flit with MORE is kept; a
whole GATHER for this module leaves the row in the core that DEST names; a faulty request and a scatter of no open step
count; an answer ends one wait for a scatter, a faulty one is noted for its command; a settled job's log entries are
gone. GATHER_DATA leaves its bytes in local memory; for a command that has ended, an absent core, or past the end of
memory it leaves nothing, and counts in the last two cases. A FABRIC_WRITE out of order writes nothing, its link still
expects the same SEQ and discards. Completes: streamOpen, streamData, streamAck, fabricRead, fabricWrite, badger,
gatherData. -/
def Obligations.StreamAndMemoryFlitsAreTaken : Prop :=
  (∀ (s : State) (n : LinkId) (f : Flit), ForUs s.dev n.val 2 f →
    (∀ (sl : Nat) (x : Desc), judgeOpen f s.dev = .takes sl x → (s.dev.replaying && s.dev.liveOutside f) = false →
      ∃ t, exec (.streamOpen n f) s = .next t ∧ Took s.dev t.dev n.val ∧ (t.dev.slotRun sl).opened = true ∧
        ∀ k, k ≠ sl → t.dev.slotRun k = s.dev.slotRun k) ∧
    (judgeOpen f s.dev = .waits → (s.dev.replaying && s.dev.liveOutside f) = false → exec (.streamOpen n f) s = .next s) ∧
    (judgeOpen f s.dev = .drops → ∃ t, exec (.streamOpen n f) s = .next t ∧ Took s.dev t.dev n.val ∧ t.dev.streams = s.dev.streams) ∧
    ((s.dev.replaying && s.dev.liveOutside f) = true → ∃ t, exec (.streamOpen n f) s = .next t ∧ Took s.dev t.dev n.val ∧
      t.dev.streams = s.dev.streams ∧ Counts s.dev t.dev (cOwl 5) 1)) ∧
    (∀ (s : State) (n : LinkId) (f : Flit), ForUs s.dev n.val 1 f →
      (∀ (sl : Nat) (x : Desc), judgeData f s.dev = .takes sl x → x.farKind = 5 →
        ∃ t, exec (.streamData n f) s = .next t ∧ Took s.dev t.dev n.val ∧
          (t.dev.slotRun sl).landed + (t.dev.slotRun sl).tail.length =
            (s.dev.slotRun sl).landed + (s.dev.slotRun sl).tail.length + (f.payload.take f.len.toNat).length ∧
          ∀ m, Direct s.dev (bits x.farAddr.toNat 27 14) m → t.dev.landedAll sl x = true →
            Sent s.dev t.dev m (bits x.farAddr.toNat 27 14) 3 (leBytes 4 (s.dev.slot sl).current)) ∧
      (judgeData f s.dev = .drops → ∃ t, exec (.streamData n f) s = .next t ∧ Took s.dev t.dev n.val ∧ t.dev.streams = s.dev.streams ∧
        t.dev.mesh = s.dev.mesh)) ∧
    (∀ (s : State) (n : LinkId) (f : Flit) (sl : Nat) (x : Desc), ForUs s.dev n.val 3 f →
      s.dev.slotOfStream (f.target.toNat % 2 ^ 14) = some sl → (s.dev.slot sl).desc = some x → x.out = true → s.dev.overLinks x = true →
      (x.farKind = 1 ∨ ((s.dev.slot sl).gen.toNat % 2 ^ 12 = bits f.target.toNat 25 14 ∧ field f.payload 0 4 = s.dev.ackedTransfer sl)) →
      ((s.dev.slot sl).state = .active → (∀ w ∈ (s.dev.slotRun sl).owed, w.2 = 0) →
        ∃ t, exec (.streamAck n f) s = .next t ∧ Took s.dev t.dev n.val ∧
          (t.dev.slot sl).returned = (s.dev.slot sl).returned + 1) ∧
      ∀ (k m : Nat) (rest : List (Nat × Nat)), (s.dev.slotRun sl).owed = (k, m + 1) :: rest →
        ∃ t, exec (.streamAck n f) s = .next t ∧ Took s.dev t.dev n.val ∧ (t.dev.slotRun sl).owed = (k, m) :: rest ∧
          (t.dev.slot sl).returned = (s.dev.slot sl).returned) ∧
    (∀ (s : State) (n : LinkId) (f : Flit) (a k : Nat), ForUs s.dev n.val 4 f → field f.payload 6 2 = 1 →
      a = field (slice f.payload 8 16) 0 8 → k = field (slice f.payload 8 16) 8 4 →
      (inSoft a k = true → 0 < k → a % 256 + k ≤ 256 →
        ∃ t, exec (.fabricRead n f) s = .next t ∧ Took s.dev t.dev n.val ∧ Counts s.dev t.dev (cChan (channelOf a) 5) 1 ∧
          t.dev.mem.cells = s.dev.mem.cells ∧
          ∀ m, k ≤ 240 → Direct s.dev (field f.payload 0 2) m →
            Sent s.dev t.dev m (field f.payload 0 2) 1 (s.dev.bytesAt a k)) ∧
      (inSoft a k = false → ∃ t, exec (.fabricRead n f) s = .next t ∧ Took s.dev t.dev n.val ∧ t.dev.out.flits = s.dev.out.flits ∧
        t.dev.mem.cells = s.dev.mem.cells)) ∧
    (∀ (s : State) (n : LinkId) (f : Flit) (a : Nat) (b : List Byte), ForUs s.dev n.val 5 f → a = f.target.toNat % 2 ^ 40 →
      b = f.payload.take f.len.toNat →
      (inSoft a b.length = true →
        ∃ t, exec (.fabricWrite n f) s = .next t ∧ Took s.dev t.dev n.val ∧ t.dev.bytesAt a b.length = b ∧
          (f.poison = 0 → ∀ x, x < a ∨ a + b.length ≤ x → look 0 t.dev.mem.cells x = look 0 s.dev.mem.cells x) ∧
          (f.poison = 0 → a % 64 = 0 → b.length % 64 = 0 → 0 < b.length → a % 256 + b.length ≤ 256 →
            Counts s.dev t.dev (cChan (channelOf a) 5) 1 ∧ t.dev.poisonedIn a b.length = 0) ∧
          ∀ m, Direct s.dev f.origin.toNat m → Sent s.dev t.dev m f.origin.toNat 3 (leBytes 4 0)) ∧
      (inSoft a b.length = false → ∃ t, exec (.fabricWrite n f) s = .next t ∧ Took s.dev t.dev n.val ∧
        t.dev.mem.cells = s.dev.mem.cells)) ∧
    (∀ (s : State) (n : LinkId) (f : Flit), (s.dev.link n.val).reg.state = .active → f.type = 5 →
      f.dest = s.dev.fabric.cfg.moduleId → f.seq ≠ (s.dev.link n.val).run.rxSeq →
      ∃ t, exec (.fabricWrite n f) s = .next t ∧ t.dev.mem = s.dev.mem ∧ (t.dev.link n.val).run.discarding = true ∧
        (t.dev.link n.val).run.rxSeq = (s.dev.link n.val).run.rxSeq) ∧
    (∀ (s : State) (n : LinkId) (f : Flit) (r : List Byte) (tb : Nat), ForUs s.dev n.val 6 f → bits f.target.toNat 38 37 = 0 →
      s.dev.fabric.parts = [] → r = f.payload.take f.len.toNat → tb = field r 2 2 →
      (bitOf f.target.toNat 0 = true → ∃ t, exec (.badger n f) s = .next t ∧ Took s.dev t.dev n.val ∧
        t.dev.fabric.parts = [(f.origin.toNat, f.flowKey.toNat, r)] ∧ t.dev.embed = s.dev.embed) ∧
      (bitOf f.target.toNat 0 = false → badRequest s.dev r = true →
        ∃ t, exec (.badger n f) s = .next t ∧ Took s.dev t.dev n.val ∧ t.dev.fabric.parts = [] ∧ t.dev.embed = s.dev.embed ∧
          t.dev.mem.cells = s.dev.mem.cells ∧ Counts s.dev t.dev (cSide (if homeChannel tb 0 < 128 then 0 else 1) 5) 1) ∧
      ∀ (x : TableDesc) (g l : Nat), bitOf f.target.toNat 0 = false → badRequest s.dev r = false → (s.dev.table tb).desc = some x →
        x.rowOf (field r 8 5) = some g → s.dev.ownerRow x g = (s.dev.fabric.cfg.moduleId.toNat, l) →
        (∀ p, byteAt r 0 = 1 → (s.dev.table tb).applying = false →
          bits (field r 0x10 8) 45 32 = s.dev.fabric.cfg.moduleId.toNat → s.dev.placeOf (bits (field r 0x10 8) 30 20) = some p →
          ∃ t, exec (.badger n f) s = .next t ∧ Took s.dev t.dev n.val ∧ t.dev.fabric.parts = [] ∧
            t.dev.mem.cells = s.dev.mem.cells ∧ Counts s.dev t.dev (cBadger (s.dev.rowChannel tb x l) 1) 1 ∧
            (t.dev.core p).bytesAt (field r 0x10 8 % 2 ^ 20) (gatherBytes x (bitOf (field r 1 1) 0)) =
              s.dev.bytesAt (s.dev.rowAddr tb x l + (if bitOf (field r 1 1) 0 then 0 else 16)) (gatherBytes x (bitOf (field r 1 1) 0))) ∧
        (byteAt r 0 = 1 → (s.dev.table tb).applying = true →
          ∃ t, exec (.badger n f) s = .next t ∧ Took s.dev t.dev n.val ∧
            ((t.dev.table tb).gathers.map (·.request)) = (s.dev.table tb).gathers.map (·.request) ++ [r]) ∧
        (byteAt r 0 = 2 → (x.opt = 0 ∨ (s.dev.table tb).step = none) →
          ∃ t, exec (.badger n f) s = .next t ∧ Took s.dev t.dev n.val ∧ (t.dev.table tb).staging = (s.dev.table tb).staging ∧
            Counts s.dev t.dev (cBadger (s.dev.rowChannel tb x l) 6) 1)) ∧
    (∀ (s : State) (n : LinkId) (f : Flit) (j : Nat × U32), ForUs s.dev n.val 6 f →
      j = (2 ^ 18 * (f.origin.toNat + 1) + bits f.target.toNat 18 1,
        BitVec.ofNat 32 (if bitOf f.target.toNat 39 then bits f.target.toNat 36 19 else 2 ^ 20)) →
      (bits f.target.toNat 38 37 = 1 → field f.payload 3 1 = 1 → field f.payload 0 1 = 0 →
        ∃ t, exec (.badger n f) s = .next t ∧ Took s.dev t.dev n.val ∧
          (t.dev.table (field f.payload 1 2)).sent = (s.dev.table (field f.payload 1 2)).sent - 1) ∧
      (∀ c, bits f.target.toNat 38 37 = 1 → field f.payload 3 1 = 0 → field f.payload 0 1 = 1 →
        s.dev.live (bits f.target.toNat 18 1) = [c] → c.index.toNat % 2 ^ 18 = j.2.toNat →
        ∃ t, exec (.badger n f) s = .next t ∧ Took s.dev t.dev n.val ∧
          ∃ k, t.dev.cmd (bits f.target.toNat 18 1) c.index = some k ∧ (0x22, 0xFFFFFFFF) ∈ k.facts) ∧
      (∀ x, bits f.target.toNat 38 37 = 2 → (s.dev.table (field f.payload 1 2)).desc = some x →
        ∃ t, exec (.badger n f) s = .next t ∧ Took s.dev t.dev n.val ∧
          ∀ e ∈ (t.dev.table (field f.payload 1 2)).undo, e.job ≠ j)) ∧
    ∀ (s : State) (n : LinkId) (f : Flit) (core a left : Nat), ForUs s.dev n.val 7 f → core = bits f.target.toNat 30 20 →
      a = f.target.toNat % 2 ^ 20 → left = 16 * bits f.target.toNat 37 31 →
      (∀ p, s.dev.placeOf core = some p → a + left ≤ 2 ^ 20 → s.dev.askerGone (rowAsker f) = false →
        ∃ t, exec (.gatherData n f) s = .next t ∧ Took s.dev t.dev n.val ∧
          (t.dev.core p).bytesAt a (rowData f).length = (rowData f).map (·.1) ∧ ∀ c, c ≠ p → t.dev.core c = s.dev.core c) ∧
      (∀ p, s.dev.placeOf core = some p → a + left ≤ 2 ^ 20 → s.dev.askerGone (rowAsker f) = true →
        ∃ t, exec (.gatherData n f) s = .next t ∧ Took s.dev t.dev n.val ∧ t.dev.mesh = s.dev.mesh) ∧
      (s.dev.placeOf core = none ∨ 2 ^ 20 < a + left → left ≤ (rowData f).length →
        ∃ t, exec (.gatherData n f) s = .next t ∧ Took s.dev t.dev n.val ∧ t.dev.mesh = s.dev.mesh ∧
          Counts s.dev t.dev (cSide (if core / 40 < 15 then 0 else 1) 5) 1)

/-- O53. A flit for this module that comes in order on an ACTIVE link is taken. COLLECTIVE waits where none of its SEQ
runs; a line of the running collective's step adds its elements, and the last line of its last step ends the collective;
a line of another step waits; one that stops, or whose CRC differs, leaves the collective failed. A child's ARRIVE for
the current SEQ joins those heard, the group's first of all setting it: the last of them makes a member send ARRIVE to
its parent, and at the root releases; one for the next SEQ joins those that came ahead, an older one does nothing, a
later one counts as a bad flit. RELEASE of the current SEQ moves the barrier on; an older one does nothing. A request of
the time exchange is answered; the parent's answer sets the time of a module that has admitted no queue and is not
aligned, and slews it otherwise, aligned within 64 ticks; another answer is not used. STOP puts the group's job back to
the segment that it names. READY is noted from its sender, answered by a module whose reset is done, and the last of
them makes the root choose T0 and another module ready itself; GO gives a waiting start its T0. NOTICE notes a dead face
and takes away a live one. A reserved TYPE counts as a bad flit. Completes: collective, barrierFlitArrive,
barrierFlitRelease, timeSync, stop, resetSyncReady, resetSyncGo, notice, badFlit. -/
def Obligations.GroupAndTimeFlitsAreTaken : Prop :=
  (∀ (s : State) (n : LinkId) (f : Flit) (g : Nat), ForUs s.dev n.val 8 f → g = bits f.target.toNat 11 0 →
    (bitOf (trailField f 8 1) 2 = true →
      ∃ t, exec (.collective n f) s = .next t ∧ Took s.dev t.dev n.val ∧ t.dev.group g = s.dev.group g) ∧
    (bitOf (trailField f 8 1) 2 = false → (s.dev.group g).running = none →
      ∃ t, exec (.collective n f) s = .next t ∧ Took s.dev t.dev n.val ∧ (t.dev.group g).early = (s.dev.group g).early ++ [f]) ∧
    ∀ (c : Collective) (x : CollDesc), bitOf (trailField f 8 1) 2 = false → (s.dev.group g).running = some c →
      x = parseColl c.descriptor → c.failed = false →
      (trailField f 4 2 ≠ x.seq.toNat % 65536 → ∃ t, exec (.collective n f) s = .next t ∧ Took s.dev t.dev n.val ∧
        (t.dev.group g).early = (s.dev.group g).early ++ [f] ∧ (t.dev.group g).running = some c) ∧
      (trailField f 4 2 = x.seq.toNat % 65536 → c.owner = none →
        (bitOf (trailField f 8 1) 1 = true ∨ (bitOf (trailField f 8 1) 0 = true ∧ trailField f 0 4 ≠ c.crc.toNat)) →
        ∃ t, exec (.collective n f) s = .next t ∧ Took s.dev t.dev n.val ∧ (t.dev.group g).running = some { c with failed := true }) ∧
      ∀ (b : Box) (st : RingStep), trailField f 4 2 = x.seq.toNat % 65536 → bitOf (trailField f 8 1) 1 = false →
        (bitOf (trailField f 8 1) 0 = true → trailField f 0 4 = c.crc.toNat) → s.dev.memberBox g = some b →
        x.ringStep b s.dev.fabric.cfg.moduleId.toNat c = some st → c.inbox = [] → c.stepDone x st = false →
        (c.takes st f = false → ∃ t, exec (.collective n f) s = .next t ∧ Took s.dev t.dev n.val ∧
          (t.dev.group g).running = some { c with inbox := [f] }) ∧
        (c.takes st f = true → (x.linesOf st.comes).all (c.lines ++ [f.target.toNat / 2 ^ 12]).contains = false →
          ∃ t k, exec (.collective n f) s = .next t ∧ Took s.dev t.dev n.val ∧ (t.dev.group g).running = some k ∧
            k.lines = c.lines ++ [f.target.toNat / 2 ^ 12] ∧ k.inbox = [] ∧ k.phase = c.phase ∧ k.step = c.step ∧
            ∀ e ∈ (x.inLine st.comes (f.target.toNat / 2 ^ 12)).zip
                (planeElems x (x.inLine st.comes (f.target.toNat / 2 ^ 12)).length f.poison.toNat f.payload),
              look Xs.zero k.values e.1 =
                if st.copies then e.2.1 else xsAdd (decide (x.width = 1)) (look Xs.zero c.values e.1) e.2.1) ∧
        (c.takes st f = true → (x.linesOf st.comes).all (c.lines ++ [f.target.toNat / 2 ^ 12]).contains = true →
          x.ringStep b s.dev.fabric.cfg.moduleId.toNat (c.next st) = none →
          ∃ t, exec (.collective n f) s = .next t ∧ Took s.dev t.dev n.val ∧ (t.dev.group g).running = none)) ∧
    (∀ (s : State) (n : LinkId) (f : Flit) (g : Nat) (b : Box) (x : GroupBarrier), ForUs s.dev n.val 9 f → g = field f.payload 0 4 →
      x = (s.dev.group g).barrier → s.dev.memberBox g = some b → s.dev.groupAlone g = false →
      (field f.payload 4 1 = 0 → x.begun = false → x.ownNow = false →
        ∃ t, exec (.barrierFlitArrive n f) s = .next t ∧ Took s.dev t.dev n.val ∧ (t.dev.group g).barrier.begun = true ∧
          (t.dev.group g).barrier.seq = BitVec.ofNat 64 (field f.payload 8 8) ∧ f.origin.toNat ∈ (t.dev.group g).barrier.now) ∧
      (field f.payload 4 1 = 0 → x.begun = true →
        (BitVec.ofNat 64 (field f.payload 8 8) = x.seq →
          (x.ownNow = false → ∃ t, exec (.barrierFlitArrive n f) s = .next t ∧ Took s.dev t.dev n.val ∧
            f.origin.toNat ∈ (t.dev.group g).barrier.now ∧ (t.dev.group g).barrier.seq = x.seq) ∧
          (x.ownNow = true → (∀ m ∈ s.dev.groupChildren b, m ∈ x.now ∨ m = f.origin.toNat) →
            (∀ p m, s.dev.groupParent b = some p → x.sentUp = false →
              ∃ t, exec (.barrierFlitArrive n f) s = .next t ∧ Took s.dev t.dev n.val ∧ (t.dev.group g).barrier.sentUp = true ∧
                (t.dev.group g).barrier.seq = x.seq ∧
                (Direct s.dev p m → Sent s.dev t.dev m p 9 (barrierPayload g 0 x.seq.toNat))) ∧
            (s.dev.groupParent b = none → x.ownNext = false →
              ∃ t, exec (.barrierFlitArrive n f) s = .next t ∧ Took s.dev t.dev n.val ∧ (t.dev.group g).barrier.seq = x.seq + 1 ∧
                (t.dev.group g).barrier.now = x.next ∧ (t.dev.group g).barrier.ownNow = false))) ∧
        (BitVec.ofNat 64 (field f.payload 8 8) = x.seq + 1 →
          ∃ t, exec (.barrierFlitArrive n f) s = .next t ∧ Took s.dev t.dev n.val ∧
            f.origin.toNat ∈ (t.dev.group g).barrier.next ∧ (t.dev.group g).barrier.now = x.now) ∧
        (BitVec.ofNat 64 (field f.payload 8 8) ≠ x.seq → BitVec.ofNat 64 (field f.payload 8 8) ≠ x.seq + 1 →
          ∃ t, exec (.barrierFlitArrive n f) s = .next t ∧ Took s.dev t.dev n.val ∧ t.dev.group g = s.dev.group g ∧
            (x.seq.toNat < field f.payload 8 8 → Counts s.dev t.dev (cLink n.val 8) 1))) ∧
      (field f.payload 4 1 = 1 →
        (BitVec.ofNat 64 (field f.payload 8 8) = x.seq → x.ownNext = false →
          ∃ t, exec (.barrierFlitRelease n f) s = .next t ∧ Took s.dev t.dev n.val ∧ (t.dev.group g).barrier.seq = x.seq + 1 ∧
            (t.dev.group g).barrier.now = x.next ∧ (t.dev.group g).barrier.ownNow = false) ∧
        (BitVec.ofNat 64 (field f.payload 8 8) ≠ x.seq →
          ∃ t, exec (.barrierFlitRelease n f) s = .next t ∧ Took s.dev t.dev n.val ∧ t.dev.group g = s.dev.group g ∧
            (x.seq.toNat < field f.payload 8 8 → Counts s.dev t.dev (cLink n.val 8) 1)))) ∧
    (∀ (s : State) (n : LinkId) (f : Flit), ForUs s.dev n.val 10 f →
      (∀ m, field f.payload 0 1 = 0 → Direct s.dev f.origin.toNat m →
        ∃ t, exec (.timeSync n f) s = .next t ∧ Took s.dev t.dev n.val ∧ t.dev.time = s.dev.time ∧
          Sent s.dev t.dev m f.origin.toNat 10
            (syncPayload 1 (BitVec.ofNat 64 (field f.payload 8 8)) s.dev.time.rootTime s.dev.time)) ∧
      (field f.payload 0 1 ≠ 0 → s.dev.time.syncSent ≠ some (BitVec.ofNat 64 (field f.payload 8 8)) →
        ∃ t, exec (.timeSync n f) s = .next t ∧ Took s.dev t.dev n.val ∧ t.dev.time = s.dev.time) ∧
      ∀ est : U64, field f.payload 0 1 ≠ 0 → s.dev.time.syncSent = some (BitVec.ofNat 64 (field f.payload 8 8)) →
        s.dev.fabric.cfg.parentTo s.dev.time.rootId.toNat s.dev.fabric.cfg.moduleId.toNat = some f.origin.toNat →
        est = BitVec.ofNat 64 (field f.payload 0x10 8) +
          BitVec.ofNat 64 ((s.dev.time.ft - BitVec.ofNat 64 (field f.payload 8 8)).toNat / 2) →
        ∃ t, exec (.timeSync n f) s = .next t ∧ Took s.dev t.dev n.val ∧ t.dev.time.syncSent = none ∧ t.dev.time.missedSync = 0 ∧
          t.dev.time.plant = bitOf (field f.payload 1 1) 0 ∧ t.dev.time.plantOffset = BitVec.ofNat 64 (field f.payload 0x18 8) ∧
          (s.dev.time.admitted = false → s.dev.time.aligned = false → t.dev.time.aligned = true ∧ t.dev.time.ft = est) ∧
          (s.dev.time.admitted = true ∨ s.dev.time.aligned = true → t.dev.time.ft = s.dev.time.ft ∧
            t.dev.time.slew = (est - s.dev.time.ft).toInt ∧
            (t.dev.time.aligned = true ↔ (est - s.dev.time.ft).toInt.natAbs ≤ 64))) ∧
    (∀ (s : State) (n : LinkId) (f : Flit) (j : Job) (v : ImageVersion), ForUs s.dev n.val 11 f → s.dev.mesh.jobs = [j] →
      s.dev.jobGroup j = some (field f.payload 0 4) → field f.payload 4 4 ≠ 0 → s.dev.agreed 13 = true →
      s.dev.replayFails j.queue j.index = false → s.dev.jobImage j = some v →
      (j.segment = field f.payload 4 4 ∨ j.segment = field f.payload 4 4 + 1) →
      ∃ t, exec (.stop n f) s = .next t ∧ Took s.dev t.dev n.val ∧ ∃ k, t.dev.job j.queue j.index = some k ∧
        k.attempts = j.attempts + 1 ∧ k.held = false ∧ k.arrivals = [] ∧ k.cycle = j.restartCycle ∧ k.segment = field f.payload 4 4 ∧
        k.slot = (if j.segment = field f.payload 4 4 then j.slot else !j.slot)) ∧
    (∀ (s : State) (n : LinkId) (f : Flit), ForUs s.dev n.val 12 f →
      (field f.payload 0 1 = 0 → s.dev.fabric.cfg.resetDone = false →
        ∃ t, exec (.resetSyncReady n f) s = .next t ∧ Took s.dev t.dev n.val ∧ f.origin.toNat ∈ t.dev.fabric.cfg.ready ∧
          (s.dev.awaitsReset = true → s.dev.fabric.cfg.readySent = false → s.dev.linksSettled = true →
            (∀ m ∈ s.dev.fabric.cfg.childrenTo s.dev.resetRoot, m ∈ s.dev.fabric.cfg.ready ∨ m = f.origin.toNat) →
            t.dev.fabric.cfg.readySent = true ∧
            (s.dev.fabric.cfg.parentTo s.dev.resetRoot s.dev.fabric.cfg.moduleId.toNat = none →
              t.dev.fabric.cfg.t0 =
                some (s.dev.time.ft + BitVec.ofNat 64 (2 * s.dev.fabric.cfg.depthTo s.dev.resetRoot * 4000 + 160000), 0)) ∧
            ∀ p m, s.dev.fabric.cfg.parentTo s.dev.resetRoot s.dev.fabric.cfg.moduleId.toNat = some p → Direct s.dev p m →
              Sent s.dev t.dev m p 12 (resetPayload 0 0 s.dev.time.ft))) ∧
      (∀ m, field f.payload 0 1 = 0 → s.dev.fabric.cfg.resetDone = true → Direct s.dev f.origin.toNat m →
        ∃ t, exec (.resetSyncReady n f) s = .next t ∧ Took s.dev t.dev n.val ∧ t.dev.fabric.cfg = s.dev.fabric.cfg ∧
          Sent s.dev t.dev m f.origin.toNat 12 (resetPayload 1 s.dev.time.ft s.dev.time.rootTime)) ∧
      (field f.payload 0 1 = 1 → s.dev.awaitsReset = true → s.dev.fabric.cfg.t0 = none →
        ∃ t, exec (.resetSyncGo n f) s = .next t ∧ Took s.dev t.dev n.val ∧
          t.dev.fabric.cfg.t0 = some (BitVec.ofNat 64 (field f.payload 8 8),
            BitVec.ofNat 64 (field f.payload 0x10 8 + (s.dev.link n.val).run.roundTrip.toNat / 2) - s.dev.time.ft)) ∧
      (s.dev.awaitsReset = false ∨ s.dev.fabric.cfg.t0.isSome = true →
        ∃ t, exec (.resetSyncGo n f) s = .next t ∧ Took s.dev t.dev n.val ∧ t.dev.fabric.cfg = s.dev.fabric.cfg)) ∧
    (∀ (s : State) (n : LinkId) (f : Flit), ForUs s.dev n.val 13 f →
      ∃ t, exec (.notice n f) s = .next t ∧ Took s.dev t.dev n.val ∧
        ((field f.payload 0 1, field f.payload 1 1, bitOf (field f.payload 2 1) 0) ∈ t.dev.fabric.cfg.breaks ↔
          bitOf (field f.payload 3 1) 0 = true) ∧
        t.dev.fabric.cfg.unreachable = t.dev.fabric.cfg.cutOff) ∧
    ∀ (s : State) (n : LinkId) (f : Flit), (ForUs s.dev n.val 0 f ∨ ForUs s.dev n.val 14 f ∨ ForUs s.dev n.val 15 f) →
      ∃ t, exec (.badFlit n f) s = .next t ∧ Took s.dev t.dev n.val ∧ Counts s.dev t.dev (cLink n.val 8) 1

/-- O54. A transit flit in order, whose next hop has one live ACTIVE link with credits and room, is taken and goes out
on that link with its destination, type, payload and origin; for a module that cannot be reached it is taken and
dropped, which counts; out of order it goes nowhere. An uncorrectable flit makes its link discard and ask for a resend
from the SEQ that it still expects, once for a run of them. A control flit of an ACTIVE link acknowledges what it names
and returns its credits, up to 128 of each virtual channel; lanes that fail start RETRAIN, and a resend request sends
again what is kept from its SEQ on, or, the eighth time, starts RETRAIN. A link that is not ACTIVE takes none of them.
Completes: transitFlit, uncorrectableFlit, controlFlit. -/
def Obligations.LinksPassKeepAndReturnFlits : Prop :=
  (∀ (s : State) (n : LinkId) (f : Flit), (s.dev.link n.val).reg.state = .active →
    f.dest ≠ s.dev.fabric.cfg.moduleId → 1 ≤ f.type.toNat → f.type.toNat ≤ 13 →
    (∀ m, f.seq = (s.dev.link n.val).run.rxSeq → Direct s.dev f.dest.toNat m →
      ∃ t, exec (.transitFlit n f) s = .next t ∧ Took s.dev t.dev n.val ∧
        ∃ g, t.dev.out.flits = s.dev.out.flits ++ [(m, g)] ∧ g.dest = f.dest ∧ g.type = f.type ∧ g.payload = f.payload ∧
          g.origin = f.origin ∧ g.stamp = f.stamp ∧ g.poison = f.poison ∧
          (t.dev.link m).run.unacked = (s.dev.link m).run.unacked ++ [g]) ∧
    (f.seq = (s.dev.link n.val).run.rxSeq → s.dev.reachable f.dest.toNat = false →
      ∃ t, exec (.transitFlit n f) s = .next t ∧ Took s.dev t.dev n.val ∧ t.dev.out.flits = s.dev.out.flits ∧
        Counts s.dev t.dev (cOwl 6) 1) ∧
    (f.seq ≠ (s.dev.link n.val).run.rxSeq →
      ∃ t, exec (.transitFlit n f) s = .next t ∧ t.dev.out.flits = s.dev.out.flits ∧ (t.dev.link n.val).run.discarding = true ∧
        (t.dev.link n.val).run.rxSeq = (s.dev.link n.val).run.rxSeq)) ∧
    (∀ (s : State) (n : LinkId) (q : BitVec 12), (s.dev.link n.val).reg.state = .active →
      ((s.dev.link n.val).run.discarding = false →
        ∃ t, exec (.uncorrectableFlit n q) s = .next t ∧ (t.dev.link n.val).run.discarding = true ∧
          (t.dev.link n.val).run.rxSeq = (s.dev.link n.val).run.rxSeq ∧
          ∃ k, t.dev.out.controls = s.dev.out.controls ++ [(n.val, k)] ∧ k.resend = some (s.dev.link n.val).run.rxSeq) ∧
      ((s.dev.link n.val).run.discarding = true → q ≠ (s.dev.link n.val).run.rxSeq →
        exec (.uncorrectableFlit n q) s = .next s)) ∧
    (∀ (s : State) (n : LinkId) (c : CtlFlit), (s.dev.link n.val).reg.state = .active → (s.dev.link n.val).run.waiting = [] →
      (c.lanesOk ||| (s.dev.link n.val).reg.dropped = 0xF → c.resend = none →
        ∃ t, exec (.controlFlit n c) s = .next t ∧
          (t.dev.link n.val).run.unacked = afterAck c.ackSeq (s.dev.link n.val).run.unacked ∧
          (∀ k, k < 4 → (t.dev.link n.val).run.credits.getD k 0 =
            min 128 ((s.dev.link n.val).run.credits.getD k 0 + c.credits.getD k 0)) ∧
          (t.dev.link n.val).reg = (s.dev.link n.val).reg ∧ ∀ m, m ≠ n.val → t.dev.link m = s.dev.link m) ∧
      (c.lanesOk ||| (s.dev.link n.val).reg.dropped ≠ 0xF →
        ∃ t, exec (.controlFlit n c) s = .next t ∧ (t.dev.link n.val).reg.state = .retrain ∧ Counts s.dev t.dev (cLink n.val 4) 1) ∧
      ∀ (q : BitVec 12) (fs : List Flit), c.lanesOk ||| (s.dev.link n.val).reg.dropped = 0xF → c.resend = some q →
        afterAck c.ackSeq (s.dev.link n.val).run.unacked = (s.dev.link n.val).run.unacked →
        fs = (s.dev.link n.val).run.unacked.dropWhile (fun f => decide (f.seq ≠ q)) → fs ≠ [] →
        ((s.dev.link n.val).run.resends < 7 →
          ∃ t, exec (.controlFlit n c) s = .next t ∧ t.dev.out.flits = s.dev.out.flits ++ fs.map (fun f => (n.val, f)) ∧
            (t.dev.link n.val).run.resends = (s.dev.link n.val).run.resends + 1 ∧ Counts s.dev t.dev (cLink n.val 3) 1) ∧
        (7 ≤ (s.dev.link n.val).run.resends →
          ∃ t, exec (.controlFlit n c) s = .next t ∧ t.dev.out.flits = s.dev.out.flits ∧
            (t.dev.link n.val).reg.state = .retrain ∧ Counts s.dev t.dev (cLink n.val 3) 1)) ∧
    ∀ (s : State) (n : LinkId), (s.dev.link n.val).reg.state ≠ .active →
      (∀ f, exec (.transitFlit n f) s = .next s) ∧ (∀ q, exec (.uncorrectableFlit n q) s = .next s) ∧
        ∀ c, exec (.controlFlit n c) s = .next s

/-- O55. ENABLE of a DISABLED link whose face joins a neighbour begins its training at DETECT; an Ethernet port ignores
it. DISABLE leaves a link DISABLED and, when it carried traffic, lost and counted. RETRAIN of an ACTIVE link notes its
time and counts; 100 ms later, not ACTIVE, the link is lost, no longer live, and counted; before that nothing happens.
DETECT without an answer goes on. A training that finds at least three good lanes in a right order and the peer expected
leaves the link ACTIVE on those lanes; one that fails, or finds fewer lanes, goes back to DETECT or, the third time in a
row, to FAILED, and out of RETRAIN to DETECT; a wrong peer or lane order leaves MISWIRE and FAILED. A link that does not
train takes no result. An ACTIVE link joins its face once no other link of the face keeps an unacknowledged data flit,
and not before. Completes: linkEnable, linkDisable, retrain, linkDown, linkDetectRetry, linkTrainingComplete,
linkTrainingFailed, linkJoin. -/
def Obligations.LinksTrainAndAreLost : Prop :=
  (∀ (s : State) (n : LinkId),
    ((s.dev.link n.val).reg.state = .disabled → s.dev.fabric.cfg.usesFace (linkDim n.val) (linkPlus n.val) = true →
      ∃ t, exec (.linkEnable n) s = .next t ∧ (t.dev.link n.val).reg.state = .detect ∧ (t.dev.link n.val).reg.enable = true ∧
        (t.dev.link n.val).run.failures = 0 ∧ ∀ m, m ≠ n.val → t.dev.link m = s.dev.link m) ∧
    ((s.dev.link n.val).reg.state = .disabled → s.dev.fabric.cfg.usesFace (linkDim n.val) (linkPlus n.val) = false →
      ∃ t, exec (.linkEnable n) s = .next t ∧ (t.dev.link n.val).reg.state = .disabled ∧ (t.dev.link n.val).reg.enable = true ∧
        ∀ m, m ≠ n.val → t.dev.link m = s.dev.link m) ∧
    ((s.dev.link n.val).reg.state = .ethernet →
      exec (.linkEnable n) s = .next s ∧ exec (.linkDisable n) s = .next s) ∧
    ((s.dev.link n.val).reg.state ≠ .ethernet →
      ∃ t, exec (.linkDisable n) s = .next t ∧ (t.dev.link n.val).reg.state = .disabled ∧ (t.dev.link n.val).reg.enable = false ∧
        ((s.dev.link n.val).reg.state = .active → (t.dev.link n.val).run.live = false ∧ Counts s.dev t.dev (cLink n.val 6) 1)) ∧
    ((s.dev.link n.val).reg.state = .active →
      ∃ t, exec (.retrain n) s = .next t ∧ (t.dev.link n.val).reg.state = .retrain ∧
        (t.dev.link n.val).run.retrainAt = some s.dev.time.ft ∧ (t.dev.link n.val).run.live = (s.dev.link n.val).run.live ∧
        Counts s.dev t.dev (cLink n.val 4) 1 ∧ ∀ m, m ≠ n.val → t.dev.link m = s.dev.link m) ∧
    ((s.dev.link n.val).reg.state ≠ .active → exec (.retrain n) s = .next s) ∧
    (∀ x, (s.dev.link n.val).run.retrainAt = some x →
      ((s.dev.link n.val).reg.state ≠ .active → 1600000000 ≤ (s.dev.time.ft - x).toNat →
        ∃ t, exec (.linkDown n) s = .next t ∧ (t.dev.link n.val).run.live = false ∧ (t.dev.link n.val).run.retrainAt = none ∧
          (t.dev.link n.val).reg = (s.dev.link n.val).reg ∧ Counts s.dev t.dev (cLink n.val 6) 1) ∧
      ((s.dev.time.ft - x).toNat < 1600000000 → exec (.linkDown n) s = .next s)) ∧
    ((s.dev.link n.val).run.retrainAt = none → exec (.linkDown n) s = .next s) ∧
    ((s.dev.link n.val).reg.state = .detect →
      ∃ t, exec (.linkDetectRetry n) s = .next t ∧ (t.dev.link n.val).reg.state = .detect ∧ (t.dev.link n.val).reg.lanes = 0) ∧
    ((s.dev.link n.val).reg.state ≠ .detect → exec (.linkDetectRetry n) s = .next s)) ∧
    (∀ (s : State) (n : LinkId) (r : TrainResult), (s.dev.link n.val).reg.state.training = true → s.dev.trains n.val = true →
      (lanesBad r < 2 →
        (laneOrderOk r = true → peerExpected r s.dev.fabric.cfg n.val = true →
          ∃ t, exec (.linkTrainingComplete n r) s = .next t ∧ (t.dev.link n.val).reg.state = .active ∧
            (t.dev.link n.val).reg.lanes = 4 - lanesBad r ∧ (t.dev.link n.val).reg.peerId = r.peerId ∧
            (t.dev.link n.val).reg.dropped = r.badLanes ∧ (t.dev.link n.val).run.retrainAt = none ∧
            (t.dev.link n.val).run.failures = 0 ∧ (t.dev.link n.val).run.roundTrip = r.roundTrip) ∧
        ((laneOrderOk r && peerExpected r s.dev.fabric.cfg n.val) = false →
          (∃ t, exec (.linkTrainingComplete n r) s = .next t ∧ (t.dev.link n.val).reg.state = .failed ∧
            (t.dev.link n.val).reg.miswire = true) ∧
          ∃ t, exec (.linkTrainingFailed n r) s = .next t ∧ (t.dev.link n.val).reg.state = .failed ∧
            (t.dev.link n.val).reg.miswire = true)) ∧
      (2 ≤ lanesBad r ∨ (laneOrderOk r = true ∧ peerExpected r s.dev.fabric.cfg n.val = true) →
        ((s.dev.link n.val).reg.state ≠ .retrain →
          ∃ t, exec (.linkTrainingFailed n r) s = .next t ∧
            (t.dev.link n.val).run.failures = (s.dev.link n.val).run.failures + 1 ∧
            (t.dev.link n.val).reg.state = (if 3 ≤ (s.dev.link n.val).run.failures + 1 then .failed else .detect)) ∧
        ((s.dev.link n.val).reg.state = .retrain →
          ∃ t, exec (.linkTrainingFailed n r) s = .next t ∧ (t.dev.link n.val).reg.state = .detect ∧
            (t.dev.link n.val).run.retrainAt = (s.dev.link n.val).run.retrainAt))) ∧
    (∀ (s : State) (n : LinkId) (r : TrainResult), (s.dev.link n.val).reg.state.training = false ∨ s.dev.trains n.val = false →
      (∃ t, exec (.linkTrainingComplete n r) s = .next t ∧ (t.dev.link n.val).reg = (s.dev.link n.val).reg) ∧
      ∃ t, exec (.linkTrainingFailed n r) s = .next t ∧ (t.dev.link n.val).reg = (s.dev.link n.val).reg) ∧
    ∀ (s : State) (n : LinkId), (s.dev.link n.val).reg.state = .active → (s.dev.link n.val).run.live = false →
      ((∀ m ∈ rangeFrom (8 * (n.val / 8)) 8, m ≠ n.val → ∀ f ∈ (s.dev.link m).run.unacked, flitUrgent f = true) →
        ∃ t, exec (.linkJoin n) s = .next t ∧ (t.dev.link n.val).run.live = true ∧ (t.dev.link n.val).reg = (s.dev.link n.val).reg) ∧
      (∀ m ∈ rangeFrom (8 * (n.val / 8)) 8, m ≠ n.val → ∀ f ∈ (s.dev.link m).run.unacked, flitUrgent f = false →
        exec (.linkJoin n) s = .next s)

/-- O56. A change of root selects the module's root by the rule, is root itself where that is this module, and leaves
fabric time as it is; a root that is gone while the module was aligned counts a loss, and a new root that is another
module leaves it not aligned. A module that is not the root starts an exchange with its stamp, sent to its parent, one
without an answer counting as missed; after three missed in a row it is no longer aligned, and counts the loss. The root
starts none and loses none. At T0 a module that waits for the fabric reset loads its estimate of root time, is aligned,
and its start goes on at step 8; before T0 nothing happens. Completes: rootChange, timeSyncSend, timeSyncLost,
fabricResetLoad. -/
def Obligations.TimeOfTheFabric : Prop :=
  (∀ (s : State) (l : List ModId) (root : Nat), root = selectRoot s.dev.fabric.cfg.timeSource.toNat
      ((l.map (·.toNat)).filter s.dev.fabric.cfg.holds) s.dev.fabric.cfg.moduleId.toNat →
    ∃ t, exec (.rootChange l) s = .next t ∧ t.dev.time.rootId = BitVec.ofNat 14 root ∧
      t.dev.time.isRoot = decide (root = s.dev.fabric.cfg.moduleId.toNat) ∧ t.dev.time.ft = s.dev.time.ft ∧
      (root = s.dev.fabric.cfg.moduleId.toNat → t.dev.time.aligned = true) ∧
      (root ≠ s.dev.fabric.cfg.moduleId.toNat → root ≠ s.dev.time.rootId.toNat → t.dev.time.aligned = false) ∧
      (root ≠ s.dev.fabric.cfg.timeSource.toNat → t.dev.time.plant = false) ∧
      (s.dev.time.aligned = true → s.dev.time.rootId ≠ s.dev.fabric.cfg.moduleId → s.dev.time.rootId ∉ l →
        Counts s.dev t.dev cDen 1)) ∧
    (∀ (s : State), s.dev.time.isRoot = false →
      (∃ t, exec .timeSyncSend s = .next t ∧ t.dev.time.syncSent = some s.dev.time.ft ∧ t.dev.time.ft = s.dev.time.ft ∧
        t.dev.time.missedSync = s.dev.time.missedSync + (if s.dev.time.syncSent.isSome then 1 else 0) ∧
        ∀ p m, s.dev.fabric.cfg.parentTo s.dev.time.rootId.toNat s.dev.fabric.cfg.moduleId.toNat = some p → Direct s.dev p m →
          Sent s.dev t.dev m p 10 (syncPayload 0 s.dev.time.ft s.dev.time.rootTime s.dev.time)) ∧
      (3 ≤ s.dev.time.missedSync → ∃ t, exec .timeSyncLost s = .next t ∧ t.dev.time.aligned = false ∧ t.dev.time.missedSync = 0 ∧
        t.dev.time.syncSent = none ∧ t.dev.time.slew = 0 ∧ t.dev.time.ft = s.dev.time.ft ∧ Counts s.dev t.dev cDen 1) ∧
      (s.dev.time.missedSync < 3 → exec .timeSyncLost s = .next s)) ∧
    (∀ (s : State), s.dev.time.isRoot = true → exec .timeSyncSend s = .next s ∧ exec .timeSyncLost s = .next s) ∧
    (∀ (s : State) (t0 off : U64), s.dev.fabric.cfg.t0 = some (t0, off) → s.dev.awaitsReset = true →
      (t0.toNat ≤ (s.dev.time.ft + off).toNat →
        ∃ t, exec .fabricResetLoad s = .next t ∧ t.dev.time.ft = s.dev.time.ft + off ∧ t.dev.time.aligned = true ∧
          t.dev.fabric.cfg.resetDone = true ∧ t.dev.start.step = 8 ∧ t.dev.mem = s.dev.mem ∧ t.dev.fe = s.dev.fe) ∧
      ((s.dev.time.ft + off).toNat < t0.toNat → exec .fabricResetLoad s = .next s)) ∧
    ∀ (s : State), (s.dev.fabric.cfg.t0 = none ∨ s.dev.awaitsReset = false) → exec .fabricResetLoad s = .next s

/-- O57. A port that is UP counts every frame; one with a bad check sequence, a wrong length, or that its rules drop is
counted so and nothing of it is taken; without room in the receive buffer it is dropped and DROPPING is set; while
REPLAY is set it is dropped and counted. An ARP request for its address, and a neighbour solicitation, are answered; a
datagram that no entry listens for is counted; a well-formed one for an enabled entry joins the open batch, or closes a
full one and opens the next, and takes its room in the buffer; a malformed one, and one for a draining entry, is refused
and counted. A port that is not UP takes nothing. REPLY_SEND sends the oldest frame of the transmit buffer and counts
it; an empty buffer, or a port that is not UP, sends nothing. Where PTP runs, an exchange gives PLANT_OFFSET, the second
in a row sets PLANT and locks the port; the better Announce is kept; a Delay_Req leaves and is stamped; no Sync for
three intervals clears PLANT and leaves PLANT_OFFSET; where it does not run, nothing happens. Completes: frameReceive,
replySend, ptpSync, ptpAnnounce, delayReq, ptpLost. -/
def Obligations.EthernetPortsReceiveAndSend : Prop :=
  (∀ (s : State) (n : Fin 8) (f : List Byte) (ok : Bool) (k : Nat) (c : PortCfg), (s.dev.port n.val).cfg = some c →
    (s.dev.port n.val).up = true →
    (s.dev.replaying = true → ∃ t, exec (.frameReceive n f ok k) s = .next t ∧ t.dev.service = s.dev.service ∧
      Counts s.dev t.dev (cOwl 5) 1) ∧
    (s.dev.replaying = false →
      (ok = false → ∃ t, exec (.frameReceive n f ok k) s = .next t ∧ t.dev.service = s.dev.service ∧
        Counts s.dev t.dev (cPort n.val 3) 1 ∧ Counts s.dev t.dev (cPort n.val 0) 1) ∧
      (ok = true → f.length + 4 < 64 ∨ 9216 < f.length + 4 →
        ∃ t, exec (.frameReceive n f ok k) s = .next t ∧ t.dev.service = s.dev.service ∧
          Counts s.dev t.dev (cPort n.val 4) 1 ∧ Counts s.dev t.dev (cPort n.val 0) 1) ∧
      (ok = true → 64 ≤ f.length + 4 → f.length + 4 ≤ 9216 →
        (c.rxBytes.toNat < (s.dev.port n.val).rxUsed + alignUp f.length 64 →
          ∃ t, exec (.frameReceive n f ok k) s = .next t ∧ (t.dev.port n.val).dropping = true ∧
            (t.dev.port n.val).rxUsed = (s.dev.port n.val).rxUsed ∧ (t.dev.port n.val).tx = (s.dev.port n.val).tx ∧
            Counts s.dev t.dev (cPort n.val 5) 1) ∧
        ((s.dev.port n.val).rxUsed + alignUp f.length 64 ≤ c.rxBytes.toNat →
          (∀ m p, judgeFrame c f = (.drop m, p) → 2 < m →
            ∃ t, exec (.frameReceive n f ok k) s = .next t ∧ t.dev.service = s.dev.service ∧ Counts s.dev t.dev (cPort n.val m) 1) ∧
          (∀ mac ip p, judgeFrame c f = (.arp mac ip, some p) →
            ∃ t, exec (.frameReceive n f ok k) s = .next t ∧
              (t.dev.port n.val).tx = (s.dev.port n.val).tx ++ [(arpReply c p mac ip, none)] ∧
              (t.dev.port n.val).rxUsed = (s.dev.port n.val).rxUsed) ∧
          (∀ src x p, judgeFrame c f = (.solicit src x, some p) →
            ∃ t, exec (.frameReceive n f ok k) s = .next t ∧
              (t.dev.port n.val).tx = (s.dev.port n.val).tx ++ [(advertisement c p src, none)] ∧
              (t.dev.port n.val).rxUsed = (s.dev.port n.val).rxUsed) ∧
          ∀ (u : Udp) (p : Pkt), judgeFrame c f = (.udp u, some p) →
            (bitOf c.flags.toNat 2 = true → u.dport = 319 ∨ u.dport = 320 →
              ∃ t, exec (.frameReceive n f ok k) s = .next t ∧ t.dev.service = s.dev.service) ∧
            ((bitOf c.flags.toNat 2 = false ∨ (u.dport ≠ 319 ∧ u.dport ≠ 320)) →
              (s.dev.listener n.val u.dport = none →
                ∃ t, exec (.frameReceive n f ok k) s = .next t ∧ t.dev.service = s.dev.service ∧
                  Counts s.dev t.dev (cPort n.val 6) 1) ∧
              ∀ (e : Nat) (x : ServiceCfg) (l : Layout), s.dev.listener n.val u.dport = some e → (s.dev.serv e).cfg = some x →
                (s.dev.serv e).layout = some l →
                ((s.dev.serv e).state = .draining ∨ ((s.dev.serv e).state = .enabled ∧ goodRequest s.dev l u.data = false) →
                  ∃ t, exec (.frameReceive n f ok k) s = .next t ∧ (t.dev.serv e).openBatch = (s.dev.serv e).openBatch ∧
                    (t.dev.serv e).closed = (s.dev.serv e).closed ∧ (t.dev.port n.val).rxUsed = (s.dev.port n.val).rxUsed ∧
                    (t.dev.port n.val).tx.length = (s.dev.port n.val).tx.length + 1 ∧ Counts s.dev t.dev (cServ e 3) 1) ∧
                ((s.dev.serv e).state = .enabled → goodRequest s.dev l u.data = true →
                  (recordCount (s.dev.serv e).openBatch + field u.data 4 2 ≤ l.capacity →
                    ∃ t, exec (.frameReceive n f ok k) s = .next t ∧
                      (t.dev.serv e).openBatch = (s.dev.serv e).openBatch ++ [datagramOf s.dev n.val f u.data] ∧
                      (t.dev.serv e).closed = (s.dev.serv e).closed ∧ Counts s.dev t.dev (cServ e 0) 1 ∧
                      (t.dev.port n.val).rxUsed = (s.dev.port n.val).rxUsed + alignUp f.length 64) ∧
                  (l.capacity < recordCount (s.dev.serv e).openBatch + field u.data 4 2 → (s.dev.serv e).openBatch ≠ [] →
                    (s.dev.serv e).closed.length + 1 < x.backlog.toNat * x.groups.toNat →
                    ∃ t, exec (.frameReceive n f ok k) s = .next t ∧
                      (t.dev.serv e).openBatch = [datagramOf s.dev n.val f u.data] ∧
                      (t.dev.serv e).closed = (s.dev.serv e).closed ++ [(s.dev.serv e).openBatch] ∧
                      Counts s.dev t.dev (cServ e 0) 1))))))) ∧
    (∀ (s : State) (n : Fin 8) (f : List Byte) (ok : Bool) (k : Nat), (s.dev.port n.val).cfg = none ∨ (s.dev.port n.val).up = false →
      exec (.frameReceive n f ok k) s = .next s) ∧
    (∀ (s : State) (n : Fin 8),
      (∀ (f : List Byte) (w : Option (Nat × Nat × U32)) (rest : List (List Byte × Option (Nat × Nat × U32))),
        (s.dev.port n.val).tx = (f, w) :: rest → (s.dev.port n.val).up = true →
        ∃ t, exec (.replySend n) s = .next t ∧ t.dev.out.frames = s.dev.out.frames ++ [(n.val, f)] ∧
          Counts s.dev t.dev (cPort n.val 1) 1 ∧ (w = none → (t.dev.port n.val).tx = rest)) ∧
      ((s.dev.port n.val).tx = [] ∨ (s.dev.port n.val).up = false → exec (.replySend n) s = .next s)) ∧
    ∀ (s : State) (n : Fin 8), (s.dev.ptpOn n.val = true →
      (∀ o i, ∃ t, exec (.ptpSync n o i) s = .next t ∧ t.dev.time.plantOffset = o ∧ (t.dev.port n.val).lastSync = s.dev.time.ft ∧
        (1 ≤ s.dev.time.goodSyncs → t.dev.time.plant = true ∧ (t.dev.port n.val).ptpLocked = true) ∧
        (s.dev.time.goodSyncs = 0 → t.dev.time.plant = s.dev.time.plant)) ∧
      (∀ b, (s.dev.time.transmitter = none → ∃ t, exec (.ptpAnnounce n b) s = .next t ∧ t.dev.time.transmitter = some b) ∧
        ∀ a, s.dev.time.transmitter = some a →
          ∃ t, exec (.ptpAnnounce n b) s = .next t ∧ t.dev.time.transmitter = some (if betterSet b a then b else a)) ∧
      (∃ t, exec (.delayReq n) s = .next t ∧ t.dev.time.delayReqAt = some s.dev.time.ft ∧ Counts s.dev t.dev (cPort n.val 1) 1 ∧
        ∃ f, t.dev.out.frames = s.dev.out.frames ++ [(n.val, f)]) ∧
      ((s.dev.port n.val).ptpLocked = true →
        3 * (s.dev.port n.val).syncEvery.toNat ≤ (s.dev.time.ft - (s.dev.port n.val).lastSync).toNat →
        ∃ t, exec (.ptpLost n) s = .next t ∧ t.dev.time.plant = false ∧ (t.dev.port n.val).ptpLocked = false ∧
          t.dev.time.plantOffset = s.dev.time.plantOffset) ∧
      ((s.dev.time.ft - (s.dev.port n.val).lastSync).toNat < 3 * (s.dev.port n.val).syncEvery.toNat →
        exec (.ptpLost n) s = .next s)) ∧
      (s.dev.ptpOn n.val = false → (∀ o i, exec (.ptpSync n o i) s = .next s) ∧ (∀ b, exec (.ptpAnnounce n b) s = .next s) ∧
        exec (.delayReq n) s = .next s ∧ exec (.ptpLost n) s = .next s)

/-- O58. With its 54 V regulators running, a valid reading at a sensor's shutdown value, or an input outside 44 to 60 V,
leaves the module in SHUTDOWN with THERMTRIP# asserted, its regulators off, SHUTDOWN in THROTTLE_CAUSE, no job, nothing
in device memory and no start that runs; below the value, inside the range, or with the regulators off, nothing happens.
A reversed input does the same and leaves REVERSED set, and a module whose regulators are off is then in DEN_ONLY; one
that is OFF takes none. A regulator that fails leaves its row in FAULT, not awake and without voltage, and, once the map
is built, fenced with every position of it reading cause 4; a second failure changes nothing. The current limit lowers
the step of an ACTIVE module by 4, to no less than 10, counts, and overrides a clock floor above that step. A sensor
whose wire opens reads 0x7FFF, and the opening counts once. Completes: shutdown, inputOutOfRange, inputReversed,
regulatorFault, currentLimit, sensorOpen. -/
def Obligations.LimitsStopTheModule : Prop :=
  (∀ (s : State), s.dev.powered = true →
    (∀ (n : Fin 16) (r : U16) (l : Int), (s.dev.sensor n.val).isOpen = false → (sensorLimits n.val).2 = some l → l ≤ r.toInt →
      ∃ t, exec (.shutdown n r) s = .next t ∧ t.dev.power.state = .shutdown ∧ t.dev.health.thermtrip = true ∧
        t.dev.power.regulators54 = false ∧ bitOf t.dev.power.cause.toNat 8 = true ∧ t.dev.mesh.jobs = [] ∧ t.dev.mem.cells = [] ∧
        t.dev.start.running = false ∧ t.dev.start.retainValid = false ∧ (t.dev.sensor n.val).reading = r) ∧
    (∀ mv : U16, (mv.toNat < 44000 ∨ 60000 < mv.toNat) →
      ∃ t, exec (.inputOutOfRange mv) s = .next t ∧ t.dev.power.state = .shutdown ∧ t.dev.health.thermtrip = true ∧
        t.dev.power.regulators54 = false ∧ t.dev.power.inputMv = mv ∧ t.dev.mesh.jobs = [] ∧ t.dev.mem.cells = [] ∧
        t.dev.start.running = false) ∧
    (∀ mv : U16, ∃ t, exec (.inputReversed mv) s = .next t ∧ t.dev.power.state = .shutdown ∧ t.dev.health.thermtrip = true ∧
      bitOf t.dev.power.inputFlags.toNat 1 = true ∧ t.dev.mem.cells = [])) ∧
    (∀ (s : State) (n : Fin 16) (r : U16) (mv : U16),
      (s.dev.powered = false ∨ (s.dev.sensor n.val).isOpen = true ∨ (∀ l, (sensorLimits n.val).2 = some l → r.toInt < l) →
        exec (.shutdown n r) s = .next s) ∧
      (s.dev.powered = false ∨ (44000 ≤ mv.toNat ∧ mv.toNat ≤ 60000) → exec (.inputOutOfRange mv) s = .next s)) ∧
    (∀ (s : State) (mv : U16),
      (s.dev.powered = false → s.dev.power.state ≠ .off →
        ∃ t, exec (.inputReversed mv) s = .next t ∧ t.dev.power.state = .denOnly ∧ bitOf t.dev.power.inputFlags.toNat 1 = true ∧
          t.dev.mem.cells = s.dev.mem.cells) ∧
      (s.dev.power.state = .off → exec (.inputReversed mv) s = .next s)) ∧
    (∀ (s : State) (r : Fin 30),
      ((s.dev.row r.val).fault = false →
        ∃ t, exec (.regulatorFault r) s = .next t ∧ (t.dev.row r.val).fault = true ∧ (t.dev.row r.val).awake = false ∧
          (t.dev.row r.val).mv = 0 ∧
          (s.dev.mesh.mapBuilt = true → (t.dev.row r.val).fenced = true ∧
            ∀ p, p / 42 = r.val → t.dev.fenced p = true ∧ (t.dev.core p).entry.cause = 4)) ∧
      ((s.dev.row r.val).fault = true → exec (.regulatorFault r) s = .next s)) ∧
    (∀ (s : State) (a : U16),
      (3600 ≤ a.toNat → s.dev.power.state = .active →
        ∃ t, exec (.currentLimit a) s = .next t ∧ t.dev.power.step.toNat = max 10 (s.dev.power.step.toNat - 4) ∧
          t.dev.power.inputCa = a ∧ t.dev.power.state = .active ∧ Counts s.dev t.dev (cPower 8) 1 ∧
          (max 10 (s.dev.power.step.toNat - 4) < s.bounds.floorStep.toNat →
            (1, s.dev.power.causesNow ||| 4) ∈ t.dev.power.overrides)) ∧
      (a.toNat < 3600 ∨ s.dev.power.state ≠ .active → exec (.currentLimit a) s = .next s)) ∧
    ∀ (s : State) (n : Fin 16), ∃ t, exec (.sensorOpen n) s = .next t ∧ t.dev.sensor n.val = { reading := 0x7FFF, isOpen := true } ∧
      ((s.dev.sensor n.val).isOpen = false → Counts s.dev t.dev (cPower 6) 1) ∧
      ((s.dev.sensor n.val).isOpen = true → t.dev.counters = s.dev.counters) ∧
      ∀ m, m ≠ n.val → t.dev.sensor m = s.dev.sensor m

/-- O59. A health tick of a module that is not OFF takes the power and every sensor's reading, or its open wire, adds
the tick's energy, and leaves an ACTIVE module's clock step at most at its ceiling, at most one below the old one (to
10) where the power passes the limit, and at most at 10 with an open sensor; a reading at a shutdown value leaves it in
SHUTDOWN. A row takes the supply that its monitors need, between 620 and 880 mV, while it is awake, and its droop is
counted; a row that nothing needs is gated and keeps its cores' local memory and accumulators. An ACTIVE module that
nothing keeps so goes to QUIET while a link is up and to IDLE otherwise, with its stacks in self-refresh and its rows
gated. What is needed, or not ACTIVE, stays. A management bus recovers with its message dropped, is stuck when its line
stays low after that, and is released when it stays high. Completes: healthTick, rowVoltageLoop, droopStretch, rowGate,
idleEntry, mgmtBusRecovery, mgmtPortStuck, mgmtPortReleased. -/
def Obligations.HealthAndRowsAreKept : Prop :=
  (∀ (s : State) (env : TickEnv),
    (s.dev.power.state ≠ .off →
      ∃ t, exec (.healthTick env) s = .next t ∧ t.dev.power.p1 = env.p1 ∧ Counts s.dev t.dev (cPower 0) env.energyMj ∧
        (∀ i r, i < 16 → env.readings[i]? = some r → t.dev.sensor i =
          (if env.opens.getD i false then { reading := 0x7FFF, isOpen := true } else { reading := r, isOpen := false })) ∧
        (s.dev.power.state = .active → t.dev.power.step.toNat ≤ s.bounds.ceilingStep.toNat ∧
          (s.bounds.limit < env.p1.toNat → t.dev.power.step.toNat ≤ max 10 (s.dev.power.step.toNat - 1)) ∧
          ((∃ i, i < 16 ∧ env.readings[i]?.isSome = true ∧ env.opens.getD i false = true) → t.dev.power.step.toNat ≤ 10)) ∧
        (env.views = [] → s.dev.powered = true →
          (∃ i r l, i < 16 ∧ env.readings[i]? = some r ∧ env.opens.getD i false = false ∧ (sensorLimits i).2 = some l ∧ l ≤ r.toInt) →
          t.dev.power.state = .shutdown ∧ t.dev.health.thermtrip = true)) ∧
    (s.dev.power.state = .off → exec (.healthTick env) s = .next s)) ∧
    (∀ (s : State) (r : Fin 30),
      ((s.dev.row r.val).awake = true →
        (∀ mv da, ∃ t, exec (.rowVoltageLoop r mv da) s = .next t ∧ (t.dev.row r.val).mv.toNat = max 620 (min 880 mv.toNat) ∧
          (t.dev.row r.val).currentDa = da ∧ (t.dev.row r.val).awake = true ∧ ∀ i, i ≠ r.val → t.dev.row i = s.dev.row i) ∧
        ∃ t, exec (.droopStretch r) s = .next t ∧ (t.dev.row r.val).droop = true ∧ Counts s.dev t.dev (cPower 2) 1 ∧
          ∀ i, i ≠ r.val → t.dev.row i = s.dev.row i) ∧
      ((s.dev.row r.val).awake = false →
        (∀ mv da, exec (.rowVoltageLoop r mv da) s = .next s) ∧ exec (.droopStretch r) s = .next s)) ∧
    (∀ (s : State) (r : Fin 30),
      (s.dev.power.state = .active → s.dev.rowNeeded s.bounds r.val = false →
        ∃ t, exec (.rowGate r) s = .next t ∧ (t.dev.row r.val).awake = false ∧ (∀ i, i ≠ r.val → t.dev.row i = s.dev.row i) ∧
          (∀ p, (t.dev.core p).lm = (s.dev.core p).lm ∧ (t.dev.core p).acc = (s.dev.core p).acc ∧
            (p / 42 ≠ r.val → t.dev.core p = s.dev.core p)) ∧ t.dev.mem = s.dev.mem ∧ t.dev.fe = s.dev.fe) ∧
      (s.dev.power.state ≠ .active ∨ s.dev.rowNeeded s.bounds r.val = true → exec (.rowGate r) s = .next s)) ∧
    (∀ (s : State),
      (s.dev.power.state = .active → s.dev.mayIdle s.bounds = true →
        ∃ t, exec .idleEntry s = .next t ∧ t.dev.mem = { s.dev.mem with selfRefresh := true } ∧
          t.dev.power.state = (if s.dev.fabric.links.any (fun l => decide (l.2.reg.state = .active ∨ l.2.reg.state = .ethernet))
            then .quiet else .idle) ∧
          (∀ i, i < 30 → (t.dev.row i).awake = false) ∧ ∀ p, (t.dev.core p).lm = (s.dev.core p).lm) ∧
      (s.dev.power.state ≠ .active ∨ s.dev.mayIdle s.bounds = false → exec .idleEntry s = .next s)) ∧
    ∀ (s : State) (i : Bool),
      (∃ t, exec (.mgmtBusRecovery i) s = .next t ∧ (t.dev.mgmt i).recovering = true ∧ (t.dev.mgmt i).gathered = none ∧
        t.dev.mgmt (!i) = s.dev.mgmt (!i) ∧ t.dev.health.recovered = true ∧ Counts s.dev t.dev (cPower 7) 1) ∧
      ((s.dev.mgmt i).recovering = true → ∃ t, exec (.mgmtPortStuck i) s = .next t ∧
        (if i then t.dev.health.i3cStuck else t.dev.health.smbusStuck) = true ∧ ∀ j, t.dev.mgmt j = s.dev.mgmt j) ∧
      ((s.dev.mgmt i).recovering = false → exec (.mgmtPortStuck i) s = .next s) ∧
      ∃ t, exec (.mgmtPortReleased i) s = .next t ∧ (t.dev.mgmt i).recovering = false ∧
        (if i then t.dev.health.i3cStuck else t.dev.health.smbusStuck) = false ∧ t.dev.mgmt (!i) = s.dev.mgmt (!i)

/-- O60. With an input in range and no failure, a cold start, the first auxiliary power and the end of PERST# bring the
boot ROM to step 5, where it waits for FW_GO, and so does a warm start of a module whose start completed with
RETAIN_VALID set, keeping DET; a cold start leaves device memory empty and keeps the count of time, and every start
leaves the bounded registers at reset. An input out of range fails it with 1, a regulator with 2. FW_GO fails the start
with 5, 6 or 7 for a bad format, digest or signature; with all good it takes the image's version, ends a warm start, and
takes a cold one past step 5; in D3hot it waits. 60 s without it, or a step over its limit, fails the start with 0x04 or
0x0A; a start that does not wait, or another step, does not fail. A function-level reset removes the host windows and
sets BAR4 to 64 GiB in D0; D3hot is entered, and D0 sends the writes that waited. A Den clock edge adds 40 ns, and one
unit more or less where it slews, is what RS registers show, puts the arbitration modes in force, sends an unmasked
vector whose cause arose and keeps a masked one pending, and ends a start whose self-test has run. A module that is OFF
takes none of these. Without auxiliary power the module is OFF with nothing kept. Completes: startWarm, startCold,
auxPowerOn, fundamentalReset, fwGo, fwTimeout, stepLimit, functionLevelReset, d3hotEntry, d0Return, denClockEdge,
auxPowerLoss. -/
def Obligations.StartsResetsAndEdges : Prop :=
  (∀ (s : State) (env : StartEnv), 44000 ≤ env.inputMv.toNat → env.inputMv.toNat ≤ 60000 → env.reversed = false →
    env.regulatorFail = false → env.trainingFail = false →
    (∀ v : U64, s.dev.power.state ≠ .off → bits v.toNat 1 0 = 1 → s.dev.start.retainValid = true → s.dev.start.completed = true →
      s.dev.start.running = false →
      ∃ t, exec (.startWarm v env) s = .next t ∧ t.dev.start.running = true ∧ t.dev.start.warm = true ∧ t.dev.start.step = 5 ∧
        t.dev.start.preserved = bitOf v.toNat 2 ∧ t.dev.power.state = .starting ∧ t.dev.mode.det = s.dev.mode.det ∧
        t.bounds = Bounds.reset ∧ t.dev.mesh.jobs = [] ∧ t.dev.time.ft = s.dev.time.ft ∧
        (bitOf v.toNat 2 = true → t.dev.mem.cells = s.dev.mem.cells)) ∧
    (∀ v : U64, s.dev.power.state ≠ .off → bits v.toNat 1 0 = 2 →
      ∃ t, exec (.startCold v env) s = .next t ∧ t.dev.start.running = true ∧ t.dev.start.warm = false ∧ t.dev.start.step = 5 ∧
        t.dev.power.state = .starting ∧ t.dev.mem.cells = [] ∧ t.dev.time.ft = s.dev.time.ft ∧ t.dev.mode.det = false ∧
        t.dev.start.error = (if s.dev.start.running then 0x0B else 0) ∧ t.bounds = Bounds.reset) ∧
    (s.dev.power.state = .off →
      ∃ t, exec (.auxPowerOn env) s = .next t ∧ t.dev.start.running = true ∧ t.dev.start.warm = false ∧ t.dev.start.step = 5 ∧
        t.dev.power.state = .starting ∧ t.dev.mem.cells = [] ∧ t.dev.time.ft = 0 ∧ t.bounds = Bounds.reset) ∧
    (s.dev.power.state ≠ .off →
      ∃ t, exec (.fundamentalReset env) s = .next t ∧ t.dev.start.running = true ∧ t.dev.start.step = 5 ∧
        t.dev.start.warm = (s.dev.start.perstWarm && s.dev.start.retainValid && s.dev.start.completed && !s.dev.start.running) ∧
        t.dev.mode.bar4Log2 = 36 ∧ t.dev.mode.d3hot = false)) ∧
    (∀ (s : State) (env : StartEnv) (v : U64), s.dev.power.state ≠ .off → bits v.toNat 1 0 = 2 → env.reversed = false →
      ((env.inputMv.toNat < 44000 ∨ 60000 < env.inputMv.toNat) →
        ∃ t, exec (.startCold v env) s = .next t ∧ t.dev.start.failed = true ∧ t.dev.start.error = 1 ∧ t.dev.start.running = false) ∧
      (44000 ≤ env.inputMv.toNat → env.inputMv.toNat ≤ 60000 → env.regulatorFail = true →
        ∃ t, exec (.startCold v env) s = .next t ∧ t.dev.start.failed = true ∧ t.dev.start.error = 2 ∧ t.dev.start.running = false)) ∧
    (∀ (s : State) (env : StartEnv) (v : U64), s.dev.power.state = .off →
      exec (.startWarm v env) s = .next s ∧ exec (.startCold v env) s = .next s ∧ exec (.fundamentalReset env) s = .next s ∧
        exec .functionLevelReset s = .next s ∧ exec .d3hotEntry s = .next s ∧ exec .denClockEdge s = .next s) ∧
    (∀ (s : State) (img : List Byte) (u : SelfTest),
      (s.dev.awaitsFirmware = true → s.dev.mode.d3hot = false →
        ∃ t, exec (.fwGo img u) s = .next t ∧
          (fwFormat s.dev.start img = false → t.dev.start.failed = true ∧ t.dev.start.error = 5) ∧
          (fwFormat s.dev.start img = true → fwDigest img = false → t.dev.start.failed = true ∧ t.dev.start.error = 6) ∧
          (fwFormat s.dev.start img = true → fwDigest img = true → fwSigned img = false →
            t.dev.start.failed = true ∧ t.dev.start.error = 7) ∧
          (fwFormat s.dev.start img = true → fwDigest img = true → fwSigned img = true →
            t.dev.ident.major = byteAt img 8 ∧ t.dev.ident.minor = byteAt img 9 ∧
            (s.dev.start.warm = true → t.dev.start.running = false ∧ t.dev.start.completed = true ∧ t.dev.ident.owlReady = true ∧
              t.dev.power.state = .active) ∧
            (s.dev.start.warm = false → u.sharedFail = true → t.dev.start.error = 8) ∧
            (s.dev.start.warm = false → u.sharedFail = false → t.dev.start.test = some u ∧
              (t.dev.start.step = 7 ∨ t.dev.start.step = 8)))) ∧
      (s.dev.awaitsFirmware = false ∨ s.dev.mode.d3hot = true → s.dev.power.state ≠ .off →
        ∃ t, exec (.fwGo img u) s = .next t ∧ t.dev.start.fwGo = true ∧ t.dev.start.step = s.dev.start.step ∧
          t.dev.start.failed = s.dev.start.failed)) ∧
    (∀ (s : State),
      (s.dev.awaitsFirmware = true →
        ∃ t, exec .fwTimeout s = .next t ∧ t.dev.start.failed = true ∧ t.dev.start.error = 4 ∧ t.dev.start.running = false ∧
          t.dev.power.state = .failed ∧ t.dev.start.retainValid = false) ∧
      (s.dev.awaitsFirmware = false → exec .fwTimeout s = .next s)) ∧
    (∀ (s : State),
      (s.dev.start.running = true →
        ∃ t, exec (.stepLimit s.dev.start.step) s = .next t ∧ t.dev.start.failed = true ∧ t.dev.start.error = 0x0A ∧
          t.dev.power.state = .failed) ∧
      ∀ k, (s.dev.start.running = false ∨ k ≠ s.dev.start.step) → exec (.stepLimit k) s = .next s) ∧
    (∀ (s : State), s.dev.power.state ≠ .off →
      (∃ t, exec .functionLevelReset s = .next t ∧ t.dev.mem.windows = [] ∧ t.dev.mode.bar4Log2 = 36 ∧ t.dev.mode.d3hot = false ∧
        t.dev.events.enable = false) ∧
      (∃ t, exec .d3hotEntry s = .next t ∧ t.dev.mode.d3hot = true ∧ t.dev.fe = s.dev.fe ∧ t.dev.mem = s.dev.mem) ∧
      ∃ t, exec .denClockEdge s = .next t ∧ t.dev.time.edges = s.dev.time.edges + 1 ∧ t.atEdge = t.dev ∧ t.edgeBounds = t.bounds ∧
        t.bounds = s.bounds ∧ t.dev.cycle.zeroed = [] ∧
        (s.dev.time.slew = 0 → t.dev.time.ft = s.dev.time.ft + 640) ∧
        (0 < s.dev.time.slew → (s.dev.time.edges + 1) % 16 = 0 →
          t.dev.time.ft = s.dev.time.ft + 641 ∧ t.dev.time.slew = s.dev.time.slew - 1) ∧
        (s.dev.time.slew < 0 → (s.dev.time.edges + 1) % 16 = 0 →
          t.dev.time.ft = s.dev.time.ft + 639 ∧ t.dev.time.slew = s.dev.time.slew + 1) ∧
        (∀ n, n < 3 → (t.dev.side n).mode = (s.dev.side n).wanted) ∧
        (∀ v, v < 8 → bitOf s.dev.mode.msixCause.toNat v = true →
          (bitOf (look 0 s.dev.mode.msixTable (16 * v + 12)).toNat 0 = false → s.dev.pcieUp = true → v ∈ t.dev.out.msix) ∧
          (bitOf (look 0 s.dev.mode.msixTable (16 * v + 12)).toNat 0 = true → bitOf t.dev.mode.msixPending.toNat v = true)) ∧
        (∀ u, s.dev.start.test = some u → s.dev.start.running = true → s.dev.start.step = 8 →
          t.dev.start.completed = true ∧ t.dev.start.running = false ∧ t.dev.ident.owlReady = true ∧ t.dev.mesh.mapBuilt = true ∧
            t.dev.mesh.epoch = 1 ∧ t.dev.power.state = .active)) ∧
    (∀ (s : State) (env : StartEnv), s.dev.power.state ≠ .off → s.dev.start ≠ Start.reset → exec (.auxPowerOn env) s = .next s) ∧
    ∀ (s : State),
      (∃ t, exec .d0Return s = .next t ∧ t.dev.mode.d3hot = false ∧
        t.dev.out.hostWrites = s.dev.out.hostWrites ++ s.dev.out.waiting ∧ t.dev.out.waiting = []) ∧
      ∃ t, exec .auxPowerLoss s = .next t ∧ t.dev.power.state = .off ∧ t.dev.mem.cells = [] ∧ t.bounds = Bounds.reset ∧
        t.atEdge = t.dev ∧ t.dev.counters = [] ∧ t.dev.time.ft = 0
end

