-- ==== Sys2Proof/Laws/Sparse.lean ====
section
/-! SUPPORT. Laws of sparse tables: a read after a write, and the canonical form. -/

namespace Sys2Proof.Machine
open Sys2Proof

variable {α : Type}

@[simp] theorem look_nil (d : α) (k : Nat) : look d [] k = d := rfl

/-- Listing a value at a key changes what that key reads as, and no other. -/
theorem look_listAt (d v : α) (k i : Nat) : ∀ m : Sparse α, look d (listAt k v m) i = if i = k then v else look d m i
  | [] => by simp [listAt, look, eq_comm]
  | (j, w) :: m => by
    have ih := look_listAt d v k i m
    unfold listAt
    split
    · simp [look, eq_comm]
    · split
      · subst_vars; by_cases h : i = j <;> simp [look, h, eq_comm]
      · rename_i h1 h2
        by_cases h : j = i
        · subst h; simp [look]; intro h'; exact absurd h'.symm h2
        · simp [look, h, ih]

/-- Dropping a key lets it read as the default, and leaves every other key. -/
theorem look_drop (d : α) (k i : Nat) : ∀ m : Sparse α,
    look d (m.filter (fun c => decide (c.1 ≠ k))) i = if i = k then d else look d m i
  | [] => by simp
  | (j, w) :: m => by
    have ih := look_drop d k i m
    by_cases h : j = k
    · subst h
      simp only [List.filter_cons, ne_eq, not_true_eq_false, decide_false, Bool.false_eq_true, if_false, ih, look]
      by_cases h' : i = j
      · simp [h']
      · simp [h', Ne.symm h']
    · simp only [List.filter_cons, ne_eq, h, not_false_eq_true, decide_true, if_true, look, ih]
      by_cases h' : j = i
      · subst h'; simp [h]
      · simp [h']

variable [DecidableEq α]

/-- What a table reads as after a write. -/
theorem look_put (d v : α) (m : Sparse α) (k i : Nat) : look d (put d m k v) i = if i = k then v else look d m i := by
  unfold put
  split
  · rename_i h; rw [look_drop, h]
  · exact look_listAt d v k i m

@[simp] theorem look_put_same (d v : α) (m : Sparse α) (k : Nat) : look d (put d m k v) k = v := by simp [look_put]

theorem look_put_other (d v : α) (m : Sparse α) {k i : Nat} (h : i ≠ k) : look d (put d m k v) i = look d m i := by
  simp [look_put, h]

theorem look_upd (d : α) (m : Sparse α) (k i : Nat) (f : α → α) :
    look d (upd d m k f) i = if i = k then f (look d m k) else look d m i := look_put d _ m k i

@[simp] theorem look_upd_same (d : α) (m : Sparse α) (k : Nat) (f : α → α) : look d (upd d m k f) k = f (look d m k) := by
  simp [look_upd]

theorem look_upd_other (d : α) (m : Sparse α) {k i : Nat} (f : α → α) (h : i ≠ k) : look d (upd d m k f) i = look d m i := by
  simp [look_upd, h]

omit [DecidableEq α] in
/-- A table from which entries were dropped by key. -/
theorem look_keep (d : α) (q : Nat → Bool) (i : Nat) : ∀ m : Sparse α,
    look d (m.filter (fun c => q c.1)) i = if q i then look d m i else d
  | [] => by simp
  | (j, w) :: m => by
    have ih := look_keep d q i m
    by_cases h : j = i
    · subst h; by_cases hq : q j = true <;> simp [hq, look, ih]
    · by_cases hq : q j = true <;> simp [hq, look, ih, h]

omit [DecidableEq α] in
/-- A key that the first part does not list is read in the second. -/
theorem look_append_right (d : α) (i : Nat) (b : Sparse α) : ∀ a : Sparse α, (∀ c ∈ a, c.1 ≠ i) → look d (a ++ b) i = look d b i
  | [], _ => rfl
  | (j, w) :: a, h => by
    have hj : j ≠ i := h (j, w) (by simp)
    simp only [List.cons_append, look, hj, if_false]
    exact look_append_right d i b a (fun c hc => h c (by simp [hc]))

omit [DecidableEq α] in
/-- A key that the second part does not list is read in the first. -/
theorem look_append_left (d : α) (i : Nat) (b : Sparse α) (hb : look d b i = d) : ∀ a : Sparse α, look d (a ++ b) i = look d a i
  | [] => hb
  | (j, w) :: a => by simp only [List.cons_append, look, look_append_left d i b hb a]

/-- The keys of a row of entries. -/
theorem entriesAt_keys (d : α) : ∀ (vs : List α) (k : Nat), ∀ c ∈ entriesAt d k vs, k ≤ c.1 ∧ c.1 < k + vs.length
  | [], _, _, h => by simp [entriesAt] at h
  | v :: vs, k, c, h => by
    unfold entriesAt at h
    split at h
    · have := entriesAt_keys d vs (k + 1) c h; simp; omega
    · rcases List.mem_cons.1 h with rfl | h
      · simp
      · have := entriesAt_keys d vs (k + 1) c h; simp; omega

/-- What a row of entries reads as. -/
theorem look_entriesAt (d : α) : ∀ (vs : List α) (k i : Nat),
    look d (entriesAt d k vs) i = if k ≤ i then vs.getD (i - k) d else d
  | [], _, _ => by simp [entriesAt]
  | v :: vs, k, i => by
    have ih := look_entriesAt d vs (k + 1) i
    by_cases h : i = k
    · subst h
      by_cases hv : v = d
      · simp only [entriesAt, hv, if_true]
        rw [ih, if_neg (by omega)]
        simp
      · simp [entriesAt, hv, look]
    · have hk : k ≠ i := fun e => h e.symm
      have step : look d (entriesAt d k (v :: vs)) i = look d (entriesAt d (k + 1) vs) i := by
        by_cases hv : v = d <;> simp [entriesAt, hv, look, hk]
      rw [step, ih]
      by_cases h1 : k + 1 ≤ i
      · rw [if_pos h1, if_pos (by omega), show i - k = i - (k + 1) + 1 by omega]; simp
      · rw [if_neg h1, if_neg (by omega)]

/-- What a table reads as after a row of writes. -/
theorem look_putAll (d : α) (vs : List α) (m : Sparse α) (k i : Nat) :
    look d (putAll d m k vs) i = if k ≤ i ∧ i < k + vs.length then vs.getD (i - k) d else look d m i := by
  unfold putAll
  split
  · rename_i h; simp only [List.isEmpty_iff] at h; subst h; rw [List.length_nil, if_neg (by omega)]
  · have hi := look_keep d (fun j => decide (k + vs.length ≤ j)) i m
    by_cases h1 : i < k
    · have e : look d (entriesAt d k vs ++ m.filter (fun c => decide (k + vs.length ≤ c.1))) i = d := by
        rw [look_append_right d i _ _ (fun c hc => by have := entriesAt_keys d vs k c hc; omega), hi]
        simp; omega
      rw [look_append_left d i _ e, look_keep d (fun j => decide (j < k)) i m]
      have h1' : ¬ k ≤ i := by omega
      simp [h1, h1']
    · rw [look_append_right d i _ _ (fun c hc => by simp at hc; omega)]
      by_cases h2 : i < k + vs.length
      · rw [if_pos ⟨by omega, h2⟩, look_append_left d i _ (by rw [hi]; simp; omega), look_entriesAt, if_pos (by omega)]
      · rw [look_append_right d i _ _ (fun c hc => by have := entriesAt_keys d vs k c hc; omega), hi]
        have h3 : k + vs.length ≤ i := by omega
        simp [h2, h3]

omit [DecidableEq α] in
/-- Below a lower bound of its keys a table reads as the default. -/
theorem look_below (d : α) (i : Nat) : ∀ (m : Sparse α) (lo : Nat), keysRise lo m = true → i < lo → look d m i = d
  | [], _, _, _ => rfl
  | (j, v) :: m, lo, h, hi => by
    simp only [keysRise, Bool.and_eq_true, decide_eq_true_eq] at h
    have hj : j ≠ i := by omega
    simp only [look, hj, if_false]
    exact look_below d i m (j + 1) h.2 (by omega)

omit [DecidableEq α] in
theorem keysRise_mono {lo lo' : Nat} (h : lo' ≤ lo) : ∀ m : Sparse α, keysRise lo m = true → keysRise lo' m = true
  | [], _ => rfl
  | (k, v) :: m, hm => by
    simp only [keysRise, Bool.and_eq_true, decide_eq_true_eq] at hm ⊢
    exact ⟨by omega, hm.2⟩

omit [DecidableEq α] in
theorem lookEach_eq (d : α) (m : Sparse α) : ∀ n k, lookEach d m k n = (List.range n).map (fun i => look d m (k + i))
  | 0, _ => rfl
  | n + 1, k => by
    rw [lookEach, lookEach_eq d m n, List.range_succ_eq_map]
    simp [Function.comp_def, Nat.add_comm, Nat.add_left_comm]

omit [DecidableEq α] in
/-- The one pass reads what the single reads do. -/
theorem lookRow_eq (d : α) : ∀ (n : Nat) (m : Sparse α) (k : Nat), keysRise k m = true → lookRow d m k n = lookEach d m k n
  | 0, m, k, _ => by cases m <;> rfl
  | n + 1, [], k, _ => by rw [lookRow, lookEach, lookRow_eq d n [] (k + 1) rfl]; rfl
  | n + 1, (j, v) :: m, k, h => by
    simp only [keysRise, Bool.and_eq_true, decide_eq_true_eq] at h
    rw [lookRow, lookEach]
    by_cases e : j = k
    · subst e
      rw [if_pos rfl, lookRow_eq d n m (j + 1) h.2, lookEach_eq, lookEach_eq]
      simp only [look, if_true]
      congr 1
      apply List.map_congr_left
      intro i _
      rw [if_neg (by omega)]
    · have r : keysRise (k + 1) ((j, v) :: m) = true := by
        simp only [keysRise, Bool.and_eq_true, decide_eq_true_eq]; exact ⟨by omega, h.2⟩
      rw [if_neg e, lookRow_eq d n _ (k + 1) r, look_below d k _ (k + 1) r (by omega)]

omit [DecidableEq α] in
/-- A row of reads is the row of the single reads. -/
theorem lookAll_eq (d : α) (m : Sparse α) (n k : Nat) : lookAll d m k n = (List.range n).map (fun i => look d m (k + i)) := by
  have e : lookAll d m k n = lookEach d (m.filter (fun c => decide (k ≤ c.1 ∧ c.1 < k + n))) k n := by
    simp only [lookAll]
    by_cases h : keysRise k (m.filter (fun c => decide (k ≤ c.1 ∧ c.1 < k + n))) = true
    · rw [if_pos h, lookRow_eq d n _ k h]
    · rw [if_neg h]
  rw [e, lookEach_eq]
  apply List.map_congr_left
  intro i hi
  rw [look_keep d (fun j => decide (k ≤ j ∧ j < k + n)) (k + i) m]
  simp only [List.mem_range] at hi
  rw [if_pos (by simp; omega)]

omit [DecidableEq α] in
@[simp] theorem lookAll_length (d : α) (m : Sparse α) (k n : Nat) : (lookAll d m k n).length = n := by simp [lookAll_eq]

/-- A row that was written reads back. -/
theorem lookAll_putAll_same (d : α) (m : Sparse α) (k : Nat) (vs : List α) : lookAll d (putAll d m k vs) k vs.length = vs := by
  apply List.ext_getElem
  · simp
  · intro i h1 h2
    simp [lookAll_eq, look_putAll, h2]

/-! ## The canonical form -/

theorem wfFrom_mono (d : α) {lo lo' : Nat} (h : lo' ≤ lo) : ∀ m : Sparse α, Sparse.wfFrom d lo m = true → Sparse.wfFrom d lo' m = true
  | [], _ => rfl
  | (k, v) :: m, hm => by
    simp only [Sparse.wfFrom, Bool.and_eq_true, decide_eq_true_eq] at hm ⊢
    exact ⟨⟨by omega, hm.1.2⟩, hm.2⟩

theorem wfFrom_listAt (d v : α) (hv : v ≠ d) (k : Nat) : ∀ (m : Sparse α) (lo : Nat), lo ≤ k → Sparse.wfFrom d lo m = true →
    Sparse.wfFrom d lo (listAt k v m) = true
  | [], lo, hk, _ => by simp [listAt, Sparse.wfFrom, hk, hv]
  | (j, w) :: m, lo, hk, hm => by
    have hm' := hm
    simp only [Sparse.wfFrom, Bool.and_eq_true, decide_eq_true_eq] at hm'
    unfold listAt
    split
    · rename_i h
      simp only [Sparse.wfFrom, Bool.and_eq_true, decide_eq_true_eq]
      exact ⟨⟨hk, hv⟩, ⟨by omega, hm'.1.2⟩, hm'.2⟩
    · split
      · subst_vars
        simp only [Sparse.wfFrom, Bool.and_eq_true, decide_eq_true_eq]
        exact ⟨⟨hk, hv⟩, hm'.2⟩
      · simp only [Sparse.wfFrom, Bool.and_eq_true, decide_eq_true_eq]
        exact ⟨hm'.1, wfFrom_listAt d v hv k m (j + 1) (by omega) hm'.2⟩

theorem wfFrom_filter (d : α) (p : Nat × α → Bool) : ∀ (m : Sparse α) (lo : Nat), Sparse.wfFrom d lo m = true →
    Sparse.wfFrom d lo (m.filter p) = true
  | [], _, _ => rfl
  | (k, v) :: m, lo, hm => by
    simp only [Sparse.wfFrom, Bool.and_eq_true, decide_eq_true_eq] at hm
    have ih := wfFrom_filter d p m (k + 1) hm.2
    rw [List.filter_cons]
    split
    · simp only [Sparse.wfFrom, Bool.and_eq_true, decide_eq_true_eq]
      exact ⟨hm.1, ih⟩
    · exact wfFrom_mono d (by omega) _ ih

/-- A write keeps the canonical form. -/
theorem put_wf (d v : α) (m : Sparse α) (k : Nat) (h : Sparse.wf d m = true) : Sparse.wf d (put d m k v) = true := by
  unfold put Sparse.wf
  split
  · exact wfFrom_filter d _ m 0 h
  · rename_i hv; exact wfFrom_listAt d v hv k m 0 (by omega) h

theorem upd_wf (d : α) (m : Sparse α) (k : Nat) (f : α → α) (h : Sparse.wf d m = true) : Sparse.wf d (upd d m k f) = true :=
  put_wf d _ m k h

/-- Two tables, the keys of the second above those of the first. -/
theorem wfFrom_append (d : α) (hi : Nat) (b : Sparse α) (hb : Sparse.wfFrom d hi b = true) : ∀ (a : Sparse α) (lo : Nat),
    lo ≤ hi → (∀ c ∈ a, c.1 < hi) → Sparse.wfFrom d lo a = true → Sparse.wfFrom d lo (a ++ b) = true
  | [], lo, h, _, _ => wfFrom_mono d h b hb
  | (j, w) :: a, lo, h, hk, ha => by
    simp only [Sparse.wfFrom, Bool.and_eq_true, decide_eq_true_eq, List.cons_append] at ha ⊢
    have : j < hi := hk (j, w) (by simp)
    exact ⟨ha.1, wfFrom_append d hi b hb a (j + 1) (by omega) (fun c hc => hk c (by simp [hc])) ha.2⟩

theorem wfFrom_entriesAt (d : α) : ∀ (vs : List α) (k : Nat), Sparse.wfFrom d k (entriesAt d k vs) = true
  | [], _ => rfl
  | v :: vs, k => by
    have ih := wfFrom_entriesAt d vs (k + 1)
    unfold entriesAt
    split
    · exact wfFrom_mono d (by omega) _ ih
    · rename_i hv; simp [Sparse.wfFrom, hv, ih]

/-- Entries above a lower bound are in the canonical form from there on. -/
theorem wfFrom_above (d : α) (hi : Nat) : ∀ (m : Sparse α) (lo : Nat), Sparse.wfFrom d lo m = true →
    Sparse.wfFrom d hi (m.filter (fun c => decide (hi ≤ c.1))) = true
  | [], _, _ => rfl
  | (k, v) :: m, lo, hm => by
    simp only [Sparse.wfFrom, Bool.and_eq_true, decide_eq_true_eq] at hm
    by_cases h : hi ≤ k
    · simp only [List.filter_cons, h, decide_true, if_true, Sparse.wfFrom, Bool.and_eq_true, decide_eq_true_eq]
      exact ⟨⟨trivial, hm.1.2⟩, wfFrom_filter d _ m (k + 1) hm.2⟩
    · simp only [List.filter_cons, h, decide_false, Bool.false_eq_true, if_false]
      exact wfFrom_above d hi m (k + 1) hm.2

/-- A row of writes keeps the canonical form. -/
theorem putAll_wf (d : α) (vs : List α) (m : Sparse α) (k : Nat) (h : Sparse.wf d m = true) : Sparse.wf d (putAll d m k vs) = true := by
  unfold putAll
  split
  · exact h
  · apply wfFrom_append d k _ _ _ 0 (Nat.zero_le k) (fun c hc => by simp at hc; exact hc.2) (wfFrom_filter d _ m 0 h)
    exact wfFrom_append d (k + vs.length) _ (wfFrom_above d _ m 0 h) _ k (by omega)
      (fun c hc => (entriesAt_keys d vs k c hc).2) (wfFrom_entriesAt d vs k)

theorem filter_wf (d : α) (p : Nat × α → Bool) (m : Sparse α) (h : Sparse.wf d m = true) : Sparse.wf d (m.filter p) = true :=
  wfFrom_filter d p m 0 h

end Sys2Proof.Machine
end

