-- ==== Sys2Proof/Laws/State.lean ====
section
/-! SUPPORT. Laws of the object updates: what an object reads as after one of them, and everything each leaves unchanged. -/

namespace Sys2Proof.Machine
open Sys2Proof

variable (d : Dev) (n : Nat)

@[simp] theorem lift_eq (f : Dev → Dev) (s : State) : lift f s = .next { s with dev := f s.dev } := rfl
@[simp] theorem guarded_true (f : Dev → Dev) : guarded true f d = f d := rfl
@[simp] theorem guarded_false (f : Dev → Dev) : guarded false f d = d := rfl
@[simp] theorem forEach_nil {α : Type} (f : α → Dev → Dev) : forEach f [] d = d := rfl
@[simp] theorem forEach_cons {α : Type} (f : α → Dev → Dev) (x : α) (xs : List α) :
    forEach f (x :: xs) d = forEach f xs (f x d) := rfl

/-- A property that each application keeps holds after all of them. -/
theorem forEach_keeps {α : Type} {P : Dev → Prop} {f : α → Dev → Dev} (h : ∀ x d, P d → P (f x d)) :
    ∀ (xs : List α) (d : Dev), P d → P (forEach f xs d)
  | [], _, hd => hd
  | x :: xs, d, hd => forEach_keeps h xs (f x d) (h x d hd)

/-- What every application leaves unchanged is unchanged after all of them. -/
theorem forEach_same {α β : Type} {g : Dev → β} {f : α → Dev → Dev} (h : ∀ x d, g (f x d) = g d) (xs : List α) (d : Dev) :
    g (forEach f xs d) = g d :=
  forEach_keeps (P := fun e => g e = g d) (fun x e he => (h x e).trans he) xs d rfl

theorem queue_congr {a b : Dev} (h : a.fe.queues = b.fe.queues) : a.queue = b.queue := by funext i; simp only [Dev.queue, h]
theorem qrun_congr {a b : Dev} (h : a.fe.runs = b.fe.runs) : a.qrun = b.qrun := by funext i; simp only [Dev.qrun, h]
theorem fence_congr {a b : Dev} (h : a.fe.fences = b.fe.fences) : a.fence = b.fence := by funext i; simp only [Dev.fence, h]
theorem task_congr {a b : Dev} (h : a.fe.tasks = b.fe.tasks) : a.task = b.task := by funext i; simp only [Dev.task, h]
theorem image_congr {a b : Dev} (h : a.fe.images = b.fe.images) : a.image = b.image := by funext i; simp only [Dev.image, h]
theorem core_congr {a b : Dev} (h : a.mesh.cores = b.mesh.cores) : a.core = b.core := by funext i; simp only [Dev.core, h]
theorem slot_congr {a b : Dev} (h : a.streams.slots = b.streams.slots) : a.slot = b.slot := by funext i; simp only [Dev.slot, h]
theorem slotRun_congr {a b : Dev} (h : a.streams.runs = b.streams.runs) : a.slotRun = b.slotRun := by funext i; simp only [Dev.slotRun, h]
theorem side_congr {a b : Dev} (h : a.streams.sides = b.streams.sides) : a.side = b.side := by funext i; simp only [Dev.side, h]
theorem chan_congr {a b : Dev} (h : a.mem.channels = b.mem.channels) : a.chan = b.chan := by funext i; simp only [Dev.chan, h]
theorem ens_congr {a b : Dev} (h : a.scoring.ensembles = b.scoring.ensembles) : a.ens = b.ens := by funext i; simp only [Dev.ens, h]
theorem sgroup_congr {a b : Dev} (h : a.scoring.groups = b.scoring.groups) : a.sgroup = b.sgroup := by funext i; simp only [Dev.sgroup, h]
theorem session_congr {a b : Dev} (h : a.sessions = b.sessions) : a.session = b.session := by funext i; simp only [Dev.session, h]
theorem table_congr {a b : Dev} (h : a.embed.tables = b.embed.tables) : a.table = b.table := by funext i; simp only [Dev.table, h]
theorem engine_congr {a b : Dev} (h : a.embed.engines = b.embed.engines) : a.engine = b.engine := by funext i; simp only [Dev.engine, h]
theorem link_congr {a b : Dev} (h : a.fabric.links = b.fabric.links) : a.link = b.link := by funext i; simp only [Dev.link, h]
theorem group_congr {a b : Dev} (h : a.fabric.groups = b.fabric.groups) : a.group = b.group := by funext i; simp only [Dev.group, h]
theorem port_congr {a b : Dev} (h : a.service.ports = b.service.ports) : a.port = b.port := by funext i; simp only [Dev.port, h]
theorem serv_congr {a b : Dev} (h : a.service.services = b.service.services) : a.serv = b.serv := by funext i; simp only [Dev.serv, h]
theorem row_congr {a b : Dev} (h : a.health.rows = b.health.rows) : a.row = b.row := by funext i; simp only [Dev.row, h]
theorem sensor_congr {a b : Dev} (h : a.health.sensors = b.health.sensors) : a.sensor = b.sensor := by funext i; simp only [Dev.sensor, h]
theorem stash_congr {a b : Dev} (h : a.mesh.stashes = b.mesh.stashes) : a.stash = b.stash := by funext i; simp only [Dev.stash, h]
theorem counter_congr {a b : Dev} (h : a.counters = b.counters) : a.counter = b.counter := by funext i; simp only [Dev.counter, h]

theorem modQueue_queue (i : Nat) (f : Queue → Queue) : (modQueue n f d).queue i = if i = n then f (d.queue n) else d.queue i := look_upd _ _ _ _ _
@[simp] theorem modQueue_queue_same (f : Queue → Queue) : (modQueue n f d).queue n = f (d.queue n) := look_upd_same _ _ _ _
theorem modQueue_queue_other (f : Queue → Queue) (i : Nat) (h : i ≠ n) : (modQueue n f d).queue i = d.queue i := look_upd_other _ _ _ h
/-- modQueue changes nothing else. -/
@[simp] theorem modQueue_frame (f : Queue → Queue) :
    (modQueue n f d).out = d.out ∧ (modQueue n f d).time = d.time ∧ (modQueue n f d).mode = d.mode ∧
    (modQueue n f d).events = d.events ∧ (modQueue n f d).power = d.power ∧ (modQueue n f d).health = d.health ∧
    (modQueue n f d).start = d.start ∧ (modQueue n f d).ident = d.ident ∧ (modQueue n f d).owl = d.owl ∧
    (modQueue n f d).mesh = d.mesh ∧ (modQueue n f d).streams = d.streams ∧ (modQueue n f d).mem = d.mem ∧
    (modQueue n f d).scoring = d.scoring ∧ (modQueue n f d).sessions = d.sessions ∧ (modQueue n f d).retries = d.retries ∧
    (modQueue n f d).embed = d.embed ∧ (modQueue n f d).fabric = d.fabric ∧ (modQueue n f d).service = d.service ∧
    (modQueue n f d).journal = d.journal ∧ (modQueue n f d).counters = d.counters ∧ (modQueue n f d).cycle = d.cycle ∧
    (modQueue n f d).free = d.free ∧ (modQueue n f d).fe.runs = d.fe.runs ∧ (modQueue n f d).fe.summary = d.fe.summary ∧
    (modQueue n f d).fe.fences = d.fe.fences ∧ (modQueue n f d).fe.lastAdmitted = d.fe.lastAdmitted ∧
    (modQueue n f d).fe.pollList = d.fe.pollList ∧ (modQueue n f d).fe.tasks = d.fe.tasks ∧
    (modQueue n f d).fe.images = d.fe.images ∧ (modQueue n f d).fe.lastMove = d.fe.lastMove ∧
    (modQueue n f d).fe.running = d.fe.running := by
  simp only [modQueue, and_self]
/-- modQueue leaves every object of another kind. -/
@[simp] theorem modQueue_others (f : Queue → Queue) :
    (modQueue n f d).qrun = d.qrun ∧ (modQueue n f d).fence = d.fence ∧ (modQueue n f d).task = d.task ∧
    (modQueue n f d).image = d.image ∧ (modQueue n f d).core = d.core ∧ (modQueue n f d).slot = d.slot ∧
    (modQueue n f d).slotRun = d.slotRun ∧ (modQueue n f d).side = d.side ∧ (modQueue n f d).chan = d.chan ∧
    (modQueue n f d).ens = d.ens ∧ (modQueue n f d).sgroup = d.sgroup ∧ (modQueue n f d).session = d.session ∧
    (modQueue n f d).table = d.table ∧ (modQueue n f d).engine = d.engine ∧ (modQueue n f d).link = d.link ∧
    (modQueue n f d).group = d.group ∧ (modQueue n f d).port = d.port ∧ (modQueue n f d).serv = d.serv ∧
    (modQueue n f d).row = d.row ∧ (modQueue n f d).sensor = d.sensor ∧ (modQueue n f d).stash = d.stash ∧
    (modQueue n f d).counter = d.counter := by
  refine ⟨rfl, rfl, rfl, rfl, rfl, rfl, rfl, rfl, rfl, rfl, rfl, rfl, rfl, rfl, rfl, rfl, rfl, rfl, rfl, rfl, rfl, rfl⟩

theorem modRun_qrun (i : Nat) (f : QueueRun → QueueRun) : (modRun n f d).qrun i = if i = n then f (d.qrun n) else d.qrun i := look_upd _ _ _ _ _
@[simp] theorem modRun_qrun_same (f : QueueRun → QueueRun) : (modRun n f d).qrun n = f (d.qrun n) := look_upd_same _ _ _ _
theorem modRun_qrun_other (f : QueueRun → QueueRun) (i : Nat) (h : i ≠ n) : (modRun n f d).qrun i = d.qrun i := look_upd_other _ _ _ h
/-- modRun changes nothing else. -/
@[simp] theorem modRun_frame (f : QueueRun → QueueRun) :
    (modRun n f d).out = d.out ∧ (modRun n f d).time = d.time ∧ (modRun n f d).mode = d.mode ∧
    (modRun n f d).events = d.events ∧ (modRun n f d).power = d.power ∧ (modRun n f d).health = d.health ∧
    (modRun n f d).start = d.start ∧ (modRun n f d).ident = d.ident ∧ (modRun n f d).owl = d.owl ∧
    (modRun n f d).mesh = d.mesh ∧ (modRun n f d).streams = d.streams ∧ (modRun n f d).mem = d.mem ∧
    (modRun n f d).scoring = d.scoring ∧ (modRun n f d).sessions = d.sessions ∧ (modRun n f d).retries = d.retries ∧
    (modRun n f d).embed = d.embed ∧ (modRun n f d).fabric = d.fabric ∧ (modRun n f d).service = d.service ∧
    (modRun n f d).journal = d.journal ∧ (modRun n f d).counters = d.counters ∧ (modRun n f d).cycle = d.cycle ∧
    (modRun n f d).free = d.free ∧ (modRun n f d).fe.queues = d.fe.queues ∧ (modRun n f d).fe.summary = d.fe.summary ∧
    (modRun n f d).fe.fences = d.fe.fences ∧ (modRun n f d).fe.lastAdmitted = d.fe.lastAdmitted ∧
    (modRun n f d).fe.pollList = d.fe.pollList ∧ (modRun n f d).fe.tasks = d.fe.tasks ∧
    (modRun n f d).fe.images = d.fe.images ∧ (modRun n f d).fe.lastMove = d.fe.lastMove ∧
    (modRun n f d).fe.running = d.fe.running := by
  simp only [modRun, and_self]
/-- modRun leaves every object of another kind. -/
@[simp] theorem modRun_others (f : QueueRun → QueueRun) :
    (modRun n f d).queue = d.queue ∧ (modRun n f d).fence = d.fence ∧ (modRun n f d).task = d.task ∧
    (modRun n f d).image = d.image ∧ (modRun n f d).core = d.core ∧ (modRun n f d).slot = d.slot ∧
    (modRun n f d).slotRun = d.slotRun ∧ (modRun n f d).side = d.side ∧ (modRun n f d).chan = d.chan ∧
    (modRun n f d).ens = d.ens ∧ (modRun n f d).sgroup = d.sgroup ∧ (modRun n f d).session = d.session ∧
    (modRun n f d).table = d.table ∧ (modRun n f d).engine = d.engine ∧ (modRun n f d).link = d.link ∧
    (modRun n f d).group = d.group ∧ (modRun n f d).port = d.port ∧ (modRun n f d).serv = d.serv ∧
    (modRun n f d).row = d.row ∧ (modRun n f d).sensor = d.sensor ∧ (modRun n f d).stash = d.stash ∧
    (modRun n f d).counter = d.counter := by
  refine ⟨rfl, rfl, rfl, rfl, rfl, rfl, rfl, rfl, rfl, rfl, rfl, rfl, rfl, rfl, rfl, rfl, rfl, rfl, rfl, rfl, rfl, rfl⟩

theorem setFence_fence (i : Nat) (v : Fence) : (setFence n v d).fence i = if i = n then v else d.fence i := look_put _ _ _ _ _
@[simp] theorem setFence_fence_same (v : Fence) : (setFence n v d).fence n = v := look_put_same _ _ _ _
theorem setFence_fence_other (v : Fence) (i : Nat) (h : i ≠ n) : (setFence n v d).fence i = d.fence i := look_put_other _ _ _ h
/-- setFence changes nothing else. -/
@[simp] theorem setFence_frame (v : Fence) :
    (setFence n v d).out = d.out ∧ (setFence n v d).time = d.time ∧ (setFence n v d).mode = d.mode ∧
    (setFence n v d).events = d.events ∧ (setFence n v d).power = d.power ∧ (setFence n v d).health = d.health ∧
    (setFence n v d).start = d.start ∧ (setFence n v d).ident = d.ident ∧ (setFence n v d).owl = d.owl ∧
    (setFence n v d).mesh = d.mesh ∧ (setFence n v d).streams = d.streams ∧ (setFence n v d).mem = d.mem ∧
    (setFence n v d).scoring = d.scoring ∧ (setFence n v d).sessions = d.sessions ∧ (setFence n v d).retries = d.retries ∧
    (setFence n v d).embed = d.embed ∧ (setFence n v d).fabric = d.fabric ∧ (setFence n v d).service = d.service ∧
    (setFence n v d).journal = d.journal ∧ (setFence n v d).counters = d.counters ∧ (setFence n v d).cycle = d.cycle ∧
    (setFence n v d).free = d.free ∧ (setFence n v d).fe.queues = d.fe.queues ∧ (setFence n v d).fe.runs = d.fe.runs ∧
    (setFence n v d).fe.summary = d.fe.summary ∧ (setFence n v d).fe.lastAdmitted = d.fe.lastAdmitted ∧
    (setFence n v d).fe.pollList = d.fe.pollList ∧ (setFence n v d).fe.tasks = d.fe.tasks ∧
    (setFence n v d).fe.images = d.fe.images ∧ (setFence n v d).fe.lastMove = d.fe.lastMove ∧
    (setFence n v d).fe.running = d.fe.running := by
  simp only [setFence, and_self]
/-- setFence leaves every object of another kind. -/
@[simp] theorem setFence_others (v : Fence) :
    (setFence n v d).queue = d.queue ∧ (setFence n v d).qrun = d.qrun ∧ (setFence n v d).task = d.task ∧
    (setFence n v d).image = d.image ∧ (setFence n v d).core = d.core ∧ (setFence n v d).slot = d.slot ∧
    (setFence n v d).slotRun = d.slotRun ∧ (setFence n v d).side = d.side ∧ (setFence n v d).chan = d.chan ∧
    (setFence n v d).ens = d.ens ∧ (setFence n v d).sgroup = d.sgroup ∧ (setFence n v d).session = d.session ∧
    (setFence n v d).table = d.table ∧ (setFence n v d).engine = d.engine ∧ (setFence n v d).link = d.link ∧
    (setFence n v d).group = d.group ∧ (setFence n v d).port = d.port ∧ (setFence n v d).serv = d.serv ∧
    (setFence n v d).row = d.row ∧ (setFence n v d).sensor = d.sensor ∧ (setFence n v d).stash = d.stash ∧
    (setFence n v d).counter = d.counter := by
  refine ⟨rfl, rfl, rfl, rfl, rfl, rfl, rfl, rfl, rfl, rfl, rfl, rfl, rfl, rfl, rfl, rfl, rfl, rfl, rfl, rfl, rfl, rfl⟩

theorem modTask_task (i : Nat) (f : Task → Task) : (modTask n f d).task i = if i = n then f (d.task n) else d.task i := look_upd _ _ _ _ _
@[simp] theorem modTask_task_same (f : Task → Task) : (modTask n f d).task n = f (d.task n) := look_upd_same _ _ _ _
theorem modTask_task_other (f : Task → Task) (i : Nat) (h : i ≠ n) : (modTask n f d).task i = d.task i := look_upd_other _ _ _ h
/-- modTask changes nothing else. -/
@[simp] theorem modTask_frame (f : Task → Task) :
    (modTask n f d).out = d.out ∧ (modTask n f d).time = d.time ∧ (modTask n f d).mode = d.mode ∧
    (modTask n f d).events = d.events ∧ (modTask n f d).power = d.power ∧ (modTask n f d).health = d.health ∧
    (modTask n f d).start = d.start ∧ (modTask n f d).ident = d.ident ∧ (modTask n f d).owl = d.owl ∧
    (modTask n f d).mesh = d.mesh ∧ (modTask n f d).streams = d.streams ∧ (modTask n f d).mem = d.mem ∧
    (modTask n f d).scoring = d.scoring ∧ (modTask n f d).sessions = d.sessions ∧ (modTask n f d).retries = d.retries ∧
    (modTask n f d).embed = d.embed ∧ (modTask n f d).fabric = d.fabric ∧ (modTask n f d).service = d.service ∧
    (modTask n f d).journal = d.journal ∧ (modTask n f d).counters = d.counters ∧ (modTask n f d).cycle = d.cycle ∧
    (modTask n f d).free = d.free ∧ (modTask n f d).fe.queues = d.fe.queues ∧ (modTask n f d).fe.runs = d.fe.runs ∧
    (modTask n f d).fe.summary = d.fe.summary ∧ (modTask n f d).fe.fences = d.fe.fences ∧
    (modTask n f d).fe.lastAdmitted = d.fe.lastAdmitted ∧ (modTask n f d).fe.pollList = d.fe.pollList ∧
    (modTask n f d).fe.images = d.fe.images ∧ (modTask n f d).fe.lastMove = d.fe.lastMove ∧
    (modTask n f d).fe.running = d.fe.running := by
  simp only [modTask, and_self]
/-- modTask leaves every object of another kind. -/
@[simp] theorem modTask_others (f : Task → Task) :
    (modTask n f d).queue = d.queue ∧ (modTask n f d).qrun = d.qrun ∧ (modTask n f d).fence = d.fence ∧
    (modTask n f d).image = d.image ∧ (modTask n f d).core = d.core ∧ (modTask n f d).slot = d.slot ∧
    (modTask n f d).slotRun = d.slotRun ∧ (modTask n f d).side = d.side ∧ (modTask n f d).chan = d.chan ∧
    (modTask n f d).ens = d.ens ∧ (modTask n f d).sgroup = d.sgroup ∧ (modTask n f d).session = d.session ∧
    (modTask n f d).table = d.table ∧ (modTask n f d).engine = d.engine ∧ (modTask n f d).link = d.link ∧
    (modTask n f d).group = d.group ∧ (modTask n f d).port = d.port ∧ (modTask n f d).serv = d.serv ∧
    (modTask n f d).row = d.row ∧ (modTask n f d).sensor = d.sensor ∧ (modTask n f d).stash = d.stash ∧
    (modTask n f d).counter = d.counter := by
  refine ⟨rfl, rfl, rfl, rfl, rfl, rfl, rfl, rfl, rfl, rfl, rfl, rfl, rfl, rfl, rfl, rfl, rfl, rfl, rfl, rfl, rfl, rfl⟩

theorem modImage_image (i : Nat) (f : ImageObj → ImageObj) : (modImage n f d).image i = if i = n then f (d.image n) else d.image i := look_upd _ _ _ _ _
@[simp] theorem modImage_image_same (f : ImageObj → ImageObj) : (modImage n f d).image n = f (d.image n) := look_upd_same _ _ _ _
theorem modImage_image_other (f : ImageObj → ImageObj) (i : Nat) (h : i ≠ n) : (modImage n f d).image i = d.image i := look_upd_other _ _ _ h
/-- modImage changes nothing else. -/
@[simp] theorem modImage_frame (f : ImageObj → ImageObj) :
    (modImage n f d).out = d.out ∧ (modImage n f d).time = d.time ∧ (modImage n f d).mode = d.mode ∧
    (modImage n f d).events = d.events ∧ (modImage n f d).power = d.power ∧ (modImage n f d).health = d.health ∧
    (modImage n f d).start = d.start ∧ (modImage n f d).ident = d.ident ∧ (modImage n f d).owl = d.owl ∧
    (modImage n f d).mesh = d.mesh ∧ (modImage n f d).streams = d.streams ∧ (modImage n f d).mem = d.mem ∧
    (modImage n f d).scoring = d.scoring ∧ (modImage n f d).sessions = d.sessions ∧ (modImage n f d).retries = d.retries ∧
    (modImage n f d).embed = d.embed ∧ (modImage n f d).fabric = d.fabric ∧ (modImage n f d).service = d.service ∧
    (modImage n f d).journal = d.journal ∧ (modImage n f d).counters = d.counters ∧ (modImage n f d).cycle = d.cycle ∧
    (modImage n f d).free = d.free ∧ (modImage n f d).fe.queues = d.fe.queues ∧ (modImage n f d).fe.runs = d.fe.runs ∧
    (modImage n f d).fe.summary = d.fe.summary ∧ (modImage n f d).fe.fences = d.fe.fences ∧
    (modImage n f d).fe.lastAdmitted = d.fe.lastAdmitted ∧ (modImage n f d).fe.pollList = d.fe.pollList ∧
    (modImage n f d).fe.tasks = d.fe.tasks ∧ (modImage n f d).fe.lastMove = d.fe.lastMove ∧
    (modImage n f d).fe.running = d.fe.running := by
  simp only [modImage, and_self]
/-- modImage leaves every object of another kind. -/
@[simp] theorem modImage_others (f : ImageObj → ImageObj) :
    (modImage n f d).queue = d.queue ∧ (modImage n f d).qrun = d.qrun ∧ (modImage n f d).fence = d.fence ∧
    (modImage n f d).task = d.task ∧ (modImage n f d).core = d.core ∧ (modImage n f d).slot = d.slot ∧
    (modImage n f d).slotRun = d.slotRun ∧ (modImage n f d).side = d.side ∧ (modImage n f d).chan = d.chan ∧
    (modImage n f d).ens = d.ens ∧ (modImage n f d).sgroup = d.sgroup ∧ (modImage n f d).session = d.session ∧
    (modImage n f d).table = d.table ∧ (modImage n f d).engine = d.engine ∧ (modImage n f d).link = d.link ∧
    (modImage n f d).group = d.group ∧ (modImage n f d).port = d.port ∧ (modImage n f d).serv = d.serv ∧
    (modImage n f d).row = d.row ∧ (modImage n f d).sensor = d.sensor ∧ (modImage n f d).stash = d.stash ∧
    (modImage n f d).counter = d.counter := by
  refine ⟨rfl, rfl, rfl, rfl, rfl, rfl, rfl, rfl, rfl, rfl, rfl, rfl, rfl, rfl, rfl, rfl, rfl, rfl, rfl, rfl, rfl, rfl⟩

theorem modCore_core (i : Nat) (f : Core → Core) : (modCore n f d).core i = if i = n then f (d.core n) else d.core i := look_upd _ _ _ _ _
@[simp] theorem modCore_core_same (f : Core → Core) : (modCore n f d).core n = f (d.core n) := look_upd_same _ _ _ _
theorem modCore_core_other (f : Core → Core) (i : Nat) (h : i ≠ n) : (modCore n f d).core i = d.core i := look_upd_other _ _ _ h
/-- modCore changes nothing else. -/
@[simp] theorem modCore_frame (f : Core → Core) :
    (modCore n f d).out = d.out ∧ (modCore n f d).time = d.time ∧ (modCore n f d).mode = d.mode ∧
    (modCore n f d).events = d.events ∧ (modCore n f d).power = d.power ∧ (modCore n f d).health = d.health ∧
    (modCore n f d).start = d.start ∧ (modCore n f d).ident = d.ident ∧ (modCore n f d).owl = d.owl ∧
    (modCore n f d).fe = d.fe ∧ (modCore n f d).streams = d.streams ∧ (modCore n f d).mem = d.mem ∧
    (modCore n f d).scoring = d.scoring ∧ (modCore n f d).sessions = d.sessions ∧ (modCore n f d).retries = d.retries ∧
    (modCore n f d).embed = d.embed ∧ (modCore n f d).fabric = d.fabric ∧ (modCore n f d).service = d.service ∧
    (modCore n f d).journal = d.journal ∧ (modCore n f d).counters = d.counters ∧ (modCore n f d).cycle = d.cycle ∧
    (modCore n f d).free = d.free ∧ (modCore n f d).mesh.mapBuilt = d.mesh.mapBuilt ∧
    (modCore n f d).mesh.epoch = d.mesh.epoch ∧ (modCore n f d).mesh.jobs = d.mesh.jobs ∧
    (modCore n f d).mesh.stashes = d.mesh.stashes ∧ (modCore n f d).mesh.packets = d.mesh.packets ∧
    (modCore n f d).mesh.served = d.mesh.served := by
  simp only [modCore, and_self]
/-- modCore leaves every object of another kind. -/
@[simp] theorem modCore_others (f : Core → Core) :
    (modCore n f d).queue = d.queue ∧ (modCore n f d).qrun = d.qrun ∧ (modCore n f d).fence = d.fence ∧
    (modCore n f d).task = d.task ∧ (modCore n f d).image = d.image ∧ (modCore n f d).slot = d.slot ∧
    (modCore n f d).slotRun = d.slotRun ∧ (modCore n f d).side = d.side ∧ (modCore n f d).chan = d.chan ∧
    (modCore n f d).ens = d.ens ∧ (modCore n f d).sgroup = d.sgroup ∧ (modCore n f d).session = d.session ∧
    (modCore n f d).table = d.table ∧ (modCore n f d).engine = d.engine ∧ (modCore n f d).link = d.link ∧
    (modCore n f d).group = d.group ∧ (modCore n f d).port = d.port ∧ (modCore n f d).serv = d.serv ∧
    (modCore n f d).row = d.row ∧ (modCore n f d).sensor = d.sensor ∧ (modCore n f d).stash = d.stash ∧
    (modCore n f d).counter = d.counter := by
  refine ⟨rfl, rfl, rfl, rfl, rfl, rfl, rfl, rfl, rfl, rfl, rfl, rfl, rfl, rfl, rfl, rfl, rfl, rfl, rfl, rfl, rfl, rfl⟩

theorem modSlot_slot (i : Nat) (f : Slot → Slot) : (modSlot n f d).slot i = if i = n then f (d.slot n) else d.slot i := look_upd _ _ _ _ _
@[simp] theorem modSlot_slot_same (f : Slot → Slot) : (modSlot n f d).slot n = f (d.slot n) := look_upd_same _ _ _ _
theorem modSlot_slot_other (f : Slot → Slot) (i : Nat) (h : i ≠ n) : (modSlot n f d).slot i = d.slot i := look_upd_other _ _ _ h
/-- modSlot changes nothing else. -/
@[simp] theorem modSlot_frame (f : Slot → Slot) :
    (modSlot n f d).out = d.out ∧ (modSlot n f d).time = d.time ∧ (modSlot n f d).mode = d.mode ∧
    (modSlot n f d).events = d.events ∧ (modSlot n f d).power = d.power ∧ (modSlot n f d).health = d.health ∧
    (modSlot n f d).start = d.start ∧ (modSlot n f d).ident = d.ident ∧ (modSlot n f d).owl = d.owl ∧
    (modSlot n f d).fe = d.fe ∧ (modSlot n f d).mesh = d.mesh ∧ (modSlot n f d).mem = d.mem ∧
    (modSlot n f d).scoring = d.scoring ∧ (modSlot n f d).sessions = d.sessions ∧ (modSlot n f d).retries = d.retries ∧
    (modSlot n f d).embed = d.embed ∧ (modSlot n f d).fabric = d.fabric ∧ (modSlot n f d).service = d.service ∧
    (modSlot n f d).journal = d.journal ∧ (modSlot n f d).counters = d.counters ∧ (modSlot n f d).cycle = d.cycle ∧
    (modSlot n f d).free = d.free ∧ (modSlot n f d).streams.runs = d.streams.runs ∧
    (modSlot n f d).streams.sides = d.streams.sides ∧ (modSlot n f d).streams.spill = d.streams.spill := by
  simp only [modSlot, and_self]
/-- modSlot leaves every object of another kind. -/
@[simp] theorem modSlot_others (f : Slot → Slot) :
    (modSlot n f d).queue = d.queue ∧ (modSlot n f d).qrun = d.qrun ∧ (modSlot n f d).fence = d.fence ∧
    (modSlot n f d).task = d.task ∧ (modSlot n f d).image = d.image ∧ (modSlot n f d).core = d.core ∧
    (modSlot n f d).slotRun = d.slotRun ∧ (modSlot n f d).side = d.side ∧ (modSlot n f d).chan = d.chan ∧
    (modSlot n f d).ens = d.ens ∧ (modSlot n f d).sgroup = d.sgroup ∧ (modSlot n f d).session = d.session ∧
    (modSlot n f d).table = d.table ∧ (modSlot n f d).engine = d.engine ∧ (modSlot n f d).link = d.link ∧
    (modSlot n f d).group = d.group ∧ (modSlot n f d).port = d.port ∧ (modSlot n f d).serv = d.serv ∧
    (modSlot n f d).row = d.row ∧ (modSlot n f d).sensor = d.sensor ∧ (modSlot n f d).stash = d.stash ∧
    (modSlot n f d).counter = d.counter := by
  refine ⟨rfl, rfl, rfl, rfl, rfl, rfl, rfl, rfl, rfl, rfl, rfl, rfl, rfl, rfl, rfl, rfl, rfl, rfl, rfl, rfl, rfl, rfl⟩

theorem modSlotRun_slotRun (i : Nat) (f : SlotRun → SlotRun) : (modSlotRun n f d).slotRun i = if i = n then f (d.slotRun n) else d.slotRun i := look_upd _ _ _ _ _
@[simp] theorem modSlotRun_slotRun_same (f : SlotRun → SlotRun) : (modSlotRun n f d).slotRun n = f (d.slotRun n) := look_upd_same _ _ _ _
theorem modSlotRun_slotRun_other (f : SlotRun → SlotRun) (i : Nat) (h : i ≠ n) : (modSlotRun n f d).slotRun i = d.slotRun i := look_upd_other _ _ _ h
/-- modSlotRun changes nothing else. -/
@[simp] theorem modSlotRun_frame (f : SlotRun → SlotRun) :
    (modSlotRun n f d).out = d.out ∧ (modSlotRun n f d).time = d.time ∧ (modSlotRun n f d).mode = d.mode ∧
    (modSlotRun n f d).events = d.events ∧ (modSlotRun n f d).power = d.power ∧ (modSlotRun n f d).health = d.health ∧
    (modSlotRun n f d).start = d.start ∧ (modSlotRun n f d).ident = d.ident ∧ (modSlotRun n f d).owl = d.owl ∧
    (modSlotRun n f d).fe = d.fe ∧ (modSlotRun n f d).mesh = d.mesh ∧ (modSlotRun n f d).mem = d.mem ∧
    (modSlotRun n f d).scoring = d.scoring ∧ (modSlotRun n f d).sessions = d.sessions ∧
    (modSlotRun n f d).retries = d.retries ∧ (modSlotRun n f d).embed = d.embed ∧ (modSlotRun n f d).fabric = d.fabric ∧
    (modSlotRun n f d).service = d.service ∧ (modSlotRun n f d).journal = d.journal ∧
    (modSlotRun n f d).counters = d.counters ∧ (modSlotRun n f d).cycle = d.cycle ∧ (modSlotRun n f d).free = d.free ∧
    (modSlotRun n f d).streams.slots = d.streams.slots ∧ (modSlotRun n f d).streams.sides = d.streams.sides ∧
    (modSlotRun n f d).streams.spill = d.streams.spill := by
  simp only [modSlotRun, and_self]
/-- modSlotRun leaves every object of another kind. -/
@[simp] theorem modSlotRun_others (f : SlotRun → SlotRun) :
    (modSlotRun n f d).queue = d.queue ∧ (modSlotRun n f d).qrun = d.qrun ∧ (modSlotRun n f d).fence = d.fence ∧
    (modSlotRun n f d).task = d.task ∧ (modSlotRun n f d).image = d.image ∧ (modSlotRun n f d).core = d.core ∧
    (modSlotRun n f d).slot = d.slot ∧ (modSlotRun n f d).side = d.side ∧ (modSlotRun n f d).chan = d.chan ∧
    (modSlotRun n f d).ens = d.ens ∧ (modSlotRun n f d).sgroup = d.sgroup ∧ (modSlotRun n f d).session = d.session ∧
    (modSlotRun n f d).table = d.table ∧ (modSlotRun n f d).engine = d.engine ∧ (modSlotRun n f d).link = d.link ∧
    (modSlotRun n f d).group = d.group ∧ (modSlotRun n f d).port = d.port ∧ (modSlotRun n f d).serv = d.serv ∧
    (modSlotRun n f d).row = d.row ∧ (modSlotRun n f d).sensor = d.sensor ∧ (modSlotRun n f d).stash = d.stash ∧
    (modSlotRun n f d).counter = d.counter := by
  refine ⟨rfl, rfl, rfl, rfl, rfl, rfl, rfl, rfl, rfl, rfl, rfl, rfl, rfl, rfl, rfl, rfl, rfl, rfl, rfl, rfl, rfl, rfl⟩

theorem modSide_side (i : Nat) (f : Side → Side) : (modSide n f d).side i = if i = n then f (d.side n) else d.side i := look_upd _ _ _ _ _
@[simp] theorem modSide_side_same (f : Side → Side) : (modSide n f d).side n = f (d.side n) := look_upd_same _ _ _ _
theorem modSide_side_other (f : Side → Side) (i : Nat) (h : i ≠ n) : (modSide n f d).side i = d.side i := look_upd_other _ _ _ h
/-- modSide changes nothing else. -/
@[simp] theorem modSide_frame (f : Side → Side) :
    (modSide n f d).out = d.out ∧ (modSide n f d).time = d.time ∧ (modSide n f d).mode = d.mode ∧
    (modSide n f d).events = d.events ∧ (modSide n f d).power = d.power ∧ (modSide n f d).health = d.health ∧
    (modSide n f d).start = d.start ∧ (modSide n f d).ident = d.ident ∧ (modSide n f d).owl = d.owl ∧
    (modSide n f d).fe = d.fe ∧ (modSide n f d).mesh = d.mesh ∧ (modSide n f d).mem = d.mem ∧
    (modSide n f d).scoring = d.scoring ∧ (modSide n f d).sessions = d.sessions ∧ (modSide n f d).retries = d.retries ∧
    (modSide n f d).embed = d.embed ∧ (modSide n f d).fabric = d.fabric ∧ (modSide n f d).service = d.service ∧
    (modSide n f d).journal = d.journal ∧ (modSide n f d).counters = d.counters ∧ (modSide n f d).cycle = d.cycle ∧
    (modSide n f d).free = d.free ∧ (modSide n f d).streams.slots = d.streams.slots ∧
    (modSide n f d).streams.runs = d.streams.runs ∧ (modSide n f d).streams.spill = d.streams.spill := by
  simp only [modSide, and_self]
/-- modSide leaves every object of another kind. -/
@[simp] theorem modSide_others (f : Side → Side) :
    (modSide n f d).queue = d.queue ∧ (modSide n f d).qrun = d.qrun ∧ (modSide n f d).fence = d.fence ∧
    (modSide n f d).task = d.task ∧ (modSide n f d).image = d.image ∧ (modSide n f d).core = d.core ∧
    (modSide n f d).slot = d.slot ∧ (modSide n f d).slotRun = d.slotRun ∧ (modSide n f d).chan = d.chan ∧
    (modSide n f d).ens = d.ens ∧ (modSide n f d).sgroup = d.sgroup ∧ (modSide n f d).session = d.session ∧
    (modSide n f d).table = d.table ∧ (modSide n f d).engine = d.engine ∧ (modSide n f d).link = d.link ∧
    (modSide n f d).group = d.group ∧ (modSide n f d).port = d.port ∧ (modSide n f d).serv = d.serv ∧
    (modSide n f d).row = d.row ∧ (modSide n f d).sensor = d.sensor ∧ (modSide n f d).stash = d.stash ∧
    (modSide n f d).counter = d.counter := by
  refine ⟨rfl, rfl, rfl, rfl, rfl, rfl, rfl, rfl, rfl, rfl, rfl, rfl, rfl, rfl, rfl, rfl, rfl, rfl, rfl, rfl, rfl, rfl⟩

theorem modChan_chan (i : Nat) (f : Channel → Channel) : (modChan n f d).chan i = if i = n then f (d.chan n) else d.chan i := look_upd _ _ _ _ _
@[simp] theorem modChan_chan_same (f : Channel → Channel) : (modChan n f d).chan n = f (d.chan n) := look_upd_same _ _ _ _
theorem modChan_chan_other (f : Channel → Channel) (i : Nat) (h : i ≠ n) : (modChan n f d).chan i = d.chan i := look_upd_other _ _ _ h
/-- modChan changes nothing else. -/
@[simp] theorem modChan_frame (f : Channel → Channel) :
    (modChan n f d).out = d.out ∧ (modChan n f d).time = d.time ∧ (modChan n f d).mode = d.mode ∧
    (modChan n f d).events = d.events ∧ (modChan n f d).power = d.power ∧ (modChan n f d).health = d.health ∧
    (modChan n f d).start = d.start ∧ (modChan n f d).ident = d.ident ∧ (modChan n f d).owl = d.owl ∧
    (modChan n f d).fe = d.fe ∧ (modChan n f d).mesh = d.mesh ∧ (modChan n f d).streams = d.streams ∧
    (modChan n f d).scoring = d.scoring ∧ (modChan n f d).sessions = d.sessions ∧ (modChan n f d).retries = d.retries ∧
    (modChan n f d).embed = d.embed ∧ (modChan n f d).fabric = d.fabric ∧ (modChan n f d).service = d.service ∧
    (modChan n f d).journal = d.journal ∧ (modChan n f d).counters = d.counters ∧ (modChan n f d).cycle = d.cycle ∧
    (modChan n f d).free = d.free ∧ (modChan n f d).mem.cells = d.mem.cells ∧ (modChan n f d).mem.poison = d.mem.poison ∧
    (modChan n f d).mem.scrubFrame = d.mem.scrubFrame ∧ (modChan n f d).mem.scrubActive = d.mem.scrubActive ∧
    (modChan n f d).mem.selfRefresh = d.mem.selfRefresh ∧ (modChan n f d).mem.hot = d.mem.hot ∧
    (modChan n f d).mem.logNext = d.mem.logNext ∧ (modChan n f d).mem.logWrapped = d.mem.logWrapped ∧
    (modChan n f d).mem.logLost = d.mem.logLost ∧ (modChan n f d).mem.allocs = d.mem.allocs ∧
    (modChan n f d).mem.windows = d.mem.windows := by
  simp only [modChan, and_self]
/-- modChan leaves every object of another kind. -/
@[simp] theorem modChan_others (f : Channel → Channel) :
    (modChan n f d).queue = d.queue ∧ (modChan n f d).qrun = d.qrun ∧ (modChan n f d).fence = d.fence ∧
    (modChan n f d).task = d.task ∧ (modChan n f d).image = d.image ∧ (modChan n f d).core = d.core ∧
    (modChan n f d).slot = d.slot ∧ (modChan n f d).slotRun = d.slotRun ∧ (modChan n f d).side = d.side ∧
    (modChan n f d).ens = d.ens ∧ (modChan n f d).sgroup = d.sgroup ∧ (modChan n f d).session = d.session ∧
    (modChan n f d).table = d.table ∧ (modChan n f d).engine = d.engine ∧ (modChan n f d).link = d.link ∧
    (modChan n f d).group = d.group ∧ (modChan n f d).port = d.port ∧ (modChan n f d).serv = d.serv ∧
    (modChan n f d).row = d.row ∧ (modChan n f d).sensor = d.sensor ∧ (modChan n f d).stash = d.stash ∧
    (modChan n f d).counter = d.counter := by
  refine ⟨rfl, rfl, rfl, rfl, rfl, rfl, rfl, rfl, rfl, rfl, rfl, rfl, rfl, rfl, rfl, rfl, rfl, rfl, rfl, rfl, rfl, rfl⟩

theorem modEns_ens (i : Nat) (f : EnsObj → EnsObj) : (modEns n f d).ens i = if i = n then f (d.ens n) else d.ens i := look_upd _ _ _ _ _
@[simp] theorem modEns_ens_same (f : EnsObj → EnsObj) : (modEns n f d).ens n = f (d.ens n) := look_upd_same _ _ _ _
theorem modEns_ens_other (f : EnsObj → EnsObj) (i : Nat) (h : i ≠ n) : (modEns n f d).ens i = d.ens i := look_upd_other _ _ _ h
/-- modEns changes nothing else. -/
@[simp] theorem modEns_frame (f : EnsObj → EnsObj) :
    (modEns n f d).out = d.out ∧ (modEns n f d).time = d.time ∧ (modEns n f d).mode = d.mode ∧
    (modEns n f d).events = d.events ∧ (modEns n f d).power = d.power ∧ (modEns n f d).health = d.health ∧
    (modEns n f d).start = d.start ∧ (modEns n f d).ident = d.ident ∧ (modEns n f d).owl = d.owl ∧
    (modEns n f d).fe = d.fe ∧ (modEns n f d).mesh = d.mesh ∧ (modEns n f d).streams = d.streams ∧
    (modEns n f d).mem = d.mem ∧ (modEns n f d).sessions = d.sessions ∧ (modEns n f d).retries = d.retries ∧
    (modEns n f d).embed = d.embed ∧ (modEns n f d).fabric = d.fabric ∧ (modEns n f d).service = d.service ∧
    (modEns n f d).journal = d.journal ∧ (modEns n f d).counters = d.counters ∧ (modEns n f d).cycle = d.cycle ∧
    (modEns n f d).free = d.free ∧ (modEns n f d).scoring.groups = d.scoring.groups := by
  simp only [modEns, and_self]
/-- modEns leaves every object of another kind. -/
@[simp] theorem modEns_others (f : EnsObj → EnsObj) :
    (modEns n f d).queue = d.queue ∧ (modEns n f d).qrun = d.qrun ∧ (modEns n f d).fence = d.fence ∧
    (modEns n f d).task = d.task ∧ (modEns n f d).image = d.image ∧ (modEns n f d).core = d.core ∧
    (modEns n f d).slot = d.slot ∧ (modEns n f d).slotRun = d.slotRun ∧ (modEns n f d).side = d.side ∧
    (modEns n f d).chan = d.chan ∧ (modEns n f d).sgroup = d.sgroup ∧ (modEns n f d).session = d.session ∧
    (modEns n f d).table = d.table ∧ (modEns n f d).engine = d.engine ∧ (modEns n f d).link = d.link ∧
    (modEns n f d).group = d.group ∧ (modEns n f d).port = d.port ∧ (modEns n f d).serv = d.serv ∧
    (modEns n f d).row = d.row ∧ (modEns n f d).sensor = d.sensor ∧ (modEns n f d).stash = d.stash ∧
    (modEns n f d).counter = d.counter := by
  refine ⟨rfl, rfl, rfl, rfl, rfl, rfl, rfl, rfl, rfl, rfl, rfl, rfl, rfl, rfl, rfl, rfl, rfl, rfl, rfl, rfl, rfl, rfl⟩

theorem modSGroup_sgroup (i : Nat) (f : ScoreGroup → ScoreGroup) : (modSGroup n f d).sgroup i = if i = n then f (d.sgroup n) else d.sgroup i := look_upd _ _ _ _ _
@[simp] theorem modSGroup_sgroup_same (f : ScoreGroup → ScoreGroup) : (modSGroup n f d).sgroup n = f (d.sgroup n) := look_upd_same _ _ _ _
theorem modSGroup_sgroup_other (f : ScoreGroup → ScoreGroup) (i : Nat) (h : i ≠ n) : (modSGroup n f d).sgroup i = d.sgroup i := look_upd_other _ _ _ h
/-- modSGroup changes nothing else. -/
@[simp] theorem modSGroup_frame (f : ScoreGroup → ScoreGroup) :
    (modSGroup n f d).out = d.out ∧ (modSGroup n f d).time = d.time ∧ (modSGroup n f d).mode = d.mode ∧
    (modSGroup n f d).events = d.events ∧ (modSGroup n f d).power = d.power ∧ (modSGroup n f d).health = d.health ∧
    (modSGroup n f d).start = d.start ∧ (modSGroup n f d).ident = d.ident ∧ (modSGroup n f d).owl = d.owl ∧
    (modSGroup n f d).fe = d.fe ∧ (modSGroup n f d).mesh = d.mesh ∧ (modSGroup n f d).streams = d.streams ∧
    (modSGroup n f d).mem = d.mem ∧ (modSGroup n f d).sessions = d.sessions ∧ (modSGroup n f d).retries = d.retries ∧
    (modSGroup n f d).embed = d.embed ∧ (modSGroup n f d).fabric = d.fabric ∧ (modSGroup n f d).service = d.service ∧
    (modSGroup n f d).journal = d.journal ∧ (modSGroup n f d).counters = d.counters ∧ (modSGroup n f d).cycle = d.cycle ∧
    (modSGroup n f d).free = d.free ∧ (modSGroup n f d).scoring.ensembles = d.scoring.ensembles := by
  simp only [modSGroup, and_self]
/-- modSGroup leaves every object of another kind. -/
@[simp] theorem modSGroup_others (f : ScoreGroup → ScoreGroup) :
    (modSGroup n f d).queue = d.queue ∧ (modSGroup n f d).qrun = d.qrun ∧ (modSGroup n f d).fence = d.fence ∧
    (modSGroup n f d).task = d.task ∧ (modSGroup n f d).image = d.image ∧ (modSGroup n f d).core = d.core ∧
    (modSGroup n f d).slot = d.slot ∧ (modSGroup n f d).slotRun = d.slotRun ∧ (modSGroup n f d).side = d.side ∧
    (modSGroup n f d).chan = d.chan ∧ (modSGroup n f d).ens = d.ens ∧ (modSGroup n f d).session = d.session ∧
    (modSGroup n f d).table = d.table ∧ (modSGroup n f d).engine = d.engine ∧ (modSGroup n f d).link = d.link ∧
    (modSGroup n f d).group = d.group ∧ (modSGroup n f d).port = d.port ∧ (modSGroup n f d).serv = d.serv ∧
    (modSGroup n f d).row = d.row ∧ (modSGroup n f d).sensor = d.sensor ∧ (modSGroup n f d).stash = d.stash ∧
    (modSGroup n f d).counter = d.counter := by
  refine ⟨rfl, rfl, rfl, rfl, rfl, rfl, rfl, rfl, rfl, rfl, rfl, rfl, rfl, rfl, rfl, rfl, rfl, rfl, rfl, rfl, rfl, rfl⟩

theorem modSession_session (i : Nat) (f : Session → Session) : (modSession n f d).session i = if i = n then f (d.session n) else d.session i := look_upd _ _ _ _ _
@[simp] theorem modSession_session_same (f : Session → Session) : (modSession n f d).session n = f (d.session n) := look_upd_same _ _ _ _
theorem modSession_session_other (f : Session → Session) (i : Nat) (h : i ≠ n) : (modSession n f d).session i = d.session i := look_upd_other _ _ _ h
/-- modSession changes nothing else. -/
@[simp] theorem modSession_frame (f : Session → Session) :
    (modSession n f d).out = d.out ∧ (modSession n f d).time = d.time ∧ (modSession n f d).mode = d.mode ∧
    (modSession n f d).events = d.events ∧ (modSession n f d).power = d.power ∧ (modSession n f d).health = d.health ∧
    (modSession n f d).start = d.start ∧ (modSession n f d).ident = d.ident ∧ (modSession n f d).owl = d.owl ∧
    (modSession n f d).fe = d.fe ∧ (modSession n f d).mesh = d.mesh ∧ (modSession n f d).streams = d.streams ∧
    (modSession n f d).mem = d.mem ∧ (modSession n f d).scoring = d.scoring ∧ (modSession n f d).retries = d.retries ∧
    (modSession n f d).embed = d.embed ∧ (modSession n f d).fabric = d.fabric ∧ (modSession n f d).service = d.service ∧
    (modSession n f d).journal = d.journal ∧ (modSession n f d).counters = d.counters ∧
    (modSession n f d).cycle = d.cycle ∧ (modSession n f d).free = d.free := by
  simp only [modSession, and_self]
/-- modSession leaves every object of another kind. -/
@[simp] theorem modSession_others (f : Session → Session) :
    (modSession n f d).queue = d.queue ∧ (modSession n f d).qrun = d.qrun ∧ (modSession n f d).fence = d.fence ∧
    (modSession n f d).task = d.task ∧ (modSession n f d).image = d.image ∧ (modSession n f d).core = d.core ∧
    (modSession n f d).slot = d.slot ∧ (modSession n f d).slotRun = d.slotRun ∧ (modSession n f d).side = d.side ∧
    (modSession n f d).chan = d.chan ∧ (modSession n f d).ens = d.ens ∧ (modSession n f d).sgroup = d.sgroup ∧
    (modSession n f d).table = d.table ∧ (modSession n f d).engine = d.engine ∧ (modSession n f d).link = d.link ∧
    (modSession n f d).group = d.group ∧ (modSession n f d).port = d.port ∧ (modSession n f d).serv = d.serv ∧
    (modSession n f d).row = d.row ∧ (modSession n f d).sensor = d.sensor ∧ (modSession n f d).stash = d.stash ∧
    (modSession n f d).counter = d.counter := by
  refine ⟨rfl, rfl, rfl, rfl, rfl, rfl, rfl, rfl, rfl, rfl, rfl, rfl, rfl, rfl, rfl, rfl, rfl, rfl, rfl, rfl, rfl, rfl⟩

theorem modTable_table (i : Nat) (f : Table → Table) : (modTable n f d).table i = if i = n then f (d.table n) else d.table i := look_upd _ _ _ _ _
@[simp] theorem modTable_table_same (f : Table → Table) : (modTable n f d).table n = f (d.table n) := look_upd_same _ _ _ _
theorem modTable_table_other (f : Table → Table) (i : Nat) (h : i ≠ n) : (modTable n f d).table i = d.table i := look_upd_other _ _ _ h
/-- modTable changes nothing else. -/
@[simp] theorem modTable_frame (f : Table → Table) :
    (modTable n f d).out = d.out ∧ (modTable n f d).time = d.time ∧ (modTable n f d).mode = d.mode ∧
    (modTable n f d).events = d.events ∧ (modTable n f d).power = d.power ∧ (modTable n f d).health = d.health ∧
    (modTable n f d).start = d.start ∧ (modTable n f d).ident = d.ident ∧ (modTable n f d).owl = d.owl ∧
    (modTable n f d).fe = d.fe ∧ (modTable n f d).mesh = d.mesh ∧ (modTable n f d).streams = d.streams ∧
    (modTable n f d).mem = d.mem ∧ (modTable n f d).scoring = d.scoring ∧ (modTable n f d).sessions = d.sessions ∧
    (modTable n f d).retries = d.retries ∧ (modTable n f d).fabric = d.fabric ∧ (modTable n f d).service = d.service ∧
    (modTable n f d).journal = d.journal ∧ (modTable n f d).counters = d.counters ∧ (modTable n f d).cycle = d.cycle ∧
    (modTable n f d).free = d.free ∧ (modTable n f d).embed.engines = d.embed.engines ∧
    (modTable n f d).embed.placeRatio = d.embed.placeRatio ∧ (modTable n f d).embed.placeMoves = d.embed.placeMoves := by
  simp only [modTable, and_self]
/-- modTable leaves every object of another kind. -/
@[simp] theorem modTable_others (f : Table → Table) :
    (modTable n f d).queue = d.queue ∧ (modTable n f d).qrun = d.qrun ∧ (modTable n f d).fence = d.fence ∧
    (modTable n f d).task = d.task ∧ (modTable n f d).image = d.image ∧ (modTable n f d).core = d.core ∧
    (modTable n f d).slot = d.slot ∧ (modTable n f d).slotRun = d.slotRun ∧ (modTable n f d).side = d.side ∧
    (modTable n f d).chan = d.chan ∧ (modTable n f d).ens = d.ens ∧ (modTable n f d).sgroup = d.sgroup ∧
    (modTable n f d).session = d.session ∧ (modTable n f d).engine = d.engine ∧ (modTable n f d).link = d.link ∧
    (modTable n f d).group = d.group ∧ (modTable n f d).port = d.port ∧ (modTable n f d).serv = d.serv ∧
    (modTable n f d).row = d.row ∧ (modTable n f d).sensor = d.sensor ∧ (modTable n f d).stash = d.stash ∧
    (modTable n f d).counter = d.counter := by
  refine ⟨rfl, rfl, rfl, rfl, rfl, rfl, rfl, rfl, rfl, rfl, rfl, rfl, rfl, rfl, rfl, rfl, rfl, rfl, rfl, rfl, rfl, rfl⟩

theorem modEngine_engine (i : Nat) (f : Engine → Engine) : (modEngine n f d).engine i = if i = n then f (d.engine n) else d.engine i := look_upd _ _ _ _ _
@[simp] theorem modEngine_engine_same (f : Engine → Engine) : (modEngine n f d).engine n = f (d.engine n) := look_upd_same _ _ _ _
theorem modEngine_engine_other (f : Engine → Engine) (i : Nat) (h : i ≠ n) : (modEngine n f d).engine i = d.engine i := look_upd_other _ _ _ h
/-- modEngine changes nothing else. -/
@[simp] theorem modEngine_frame (f : Engine → Engine) :
    (modEngine n f d).out = d.out ∧ (modEngine n f d).time = d.time ∧ (modEngine n f d).mode = d.mode ∧
    (modEngine n f d).events = d.events ∧ (modEngine n f d).power = d.power ∧ (modEngine n f d).health = d.health ∧
    (modEngine n f d).start = d.start ∧ (modEngine n f d).ident = d.ident ∧ (modEngine n f d).owl = d.owl ∧
    (modEngine n f d).fe = d.fe ∧ (modEngine n f d).mesh = d.mesh ∧ (modEngine n f d).streams = d.streams ∧
    (modEngine n f d).mem = d.mem ∧ (modEngine n f d).scoring = d.scoring ∧ (modEngine n f d).sessions = d.sessions ∧
    (modEngine n f d).retries = d.retries ∧ (modEngine n f d).fabric = d.fabric ∧ (modEngine n f d).service = d.service ∧
    (modEngine n f d).journal = d.journal ∧ (modEngine n f d).counters = d.counters ∧ (modEngine n f d).cycle = d.cycle ∧
    (modEngine n f d).free = d.free ∧ (modEngine n f d).embed.tables = d.embed.tables ∧
    (modEngine n f d).embed.placeRatio = d.embed.placeRatio ∧ (modEngine n f d).embed.placeMoves = d.embed.placeMoves := by
  simp only [modEngine, and_self]
/-- modEngine leaves every object of another kind. -/
@[simp] theorem modEngine_others (f : Engine → Engine) :
    (modEngine n f d).queue = d.queue ∧ (modEngine n f d).qrun = d.qrun ∧ (modEngine n f d).fence = d.fence ∧
    (modEngine n f d).task = d.task ∧ (modEngine n f d).image = d.image ∧ (modEngine n f d).core = d.core ∧
    (modEngine n f d).slot = d.slot ∧ (modEngine n f d).slotRun = d.slotRun ∧ (modEngine n f d).side = d.side ∧
    (modEngine n f d).chan = d.chan ∧ (modEngine n f d).ens = d.ens ∧ (modEngine n f d).sgroup = d.sgroup ∧
    (modEngine n f d).session = d.session ∧ (modEngine n f d).table = d.table ∧ (modEngine n f d).link = d.link ∧
    (modEngine n f d).group = d.group ∧ (modEngine n f d).port = d.port ∧ (modEngine n f d).serv = d.serv ∧
    (modEngine n f d).row = d.row ∧ (modEngine n f d).sensor = d.sensor ∧ (modEngine n f d).stash = d.stash ∧
    (modEngine n f d).counter = d.counter := by
  refine ⟨rfl, rfl, rfl, rfl, rfl, rfl, rfl, rfl, rfl, rfl, rfl, rfl, rfl, rfl, rfl, rfl, rfl, rfl, rfl, rfl, rfl, rfl⟩

theorem modLink_link (i : Nat) (f : Link → Link) : (modLink n f d).link i = if i = n then f (d.link n) else d.link i := look_upd _ _ _ _ _
@[simp] theorem modLink_link_same (f : Link → Link) : (modLink n f d).link n = f (d.link n) := look_upd_same _ _ _ _
theorem modLink_link_other (f : Link → Link) (i : Nat) (h : i ≠ n) : (modLink n f d).link i = d.link i := look_upd_other _ _ _ h
/-- modLink changes nothing else. -/
@[simp] theorem modLink_frame (f : Link → Link) :
    (modLink n f d).out = d.out ∧ (modLink n f d).time = d.time ∧ (modLink n f d).mode = d.mode ∧
    (modLink n f d).events = d.events ∧ (modLink n f d).power = d.power ∧ (modLink n f d).health = d.health ∧
    (modLink n f d).start = d.start ∧ (modLink n f d).ident = d.ident ∧ (modLink n f d).owl = d.owl ∧
    (modLink n f d).fe = d.fe ∧ (modLink n f d).mesh = d.mesh ∧ (modLink n f d).streams = d.streams ∧
    (modLink n f d).mem = d.mem ∧ (modLink n f d).scoring = d.scoring ∧ (modLink n f d).sessions = d.sessions ∧
    (modLink n f d).retries = d.retries ∧ (modLink n f d).embed = d.embed ∧ (modLink n f d).service = d.service ∧
    (modLink n f d).journal = d.journal ∧ (modLink n f d).counters = d.counters ∧ (modLink n f d).cycle = d.cycle ∧
    (modLink n f d).free = d.free ∧ (modLink n f d).fabric.cfg = d.fabric.cfg ∧
    (modLink n f d).fabric.groups = d.fabric.groups ∧ (modLink n f d).fabric.parts = d.fabric.parts := by
  simp only [modLink, and_self]
/-- modLink leaves every object of another kind. -/
@[simp] theorem modLink_others (f : Link → Link) :
    (modLink n f d).queue = d.queue ∧ (modLink n f d).qrun = d.qrun ∧ (modLink n f d).fence = d.fence ∧
    (modLink n f d).task = d.task ∧ (modLink n f d).image = d.image ∧ (modLink n f d).core = d.core ∧
    (modLink n f d).slot = d.slot ∧ (modLink n f d).slotRun = d.slotRun ∧ (modLink n f d).side = d.side ∧
    (modLink n f d).chan = d.chan ∧ (modLink n f d).ens = d.ens ∧ (modLink n f d).sgroup = d.sgroup ∧
    (modLink n f d).session = d.session ∧ (modLink n f d).table = d.table ∧ (modLink n f d).engine = d.engine ∧
    (modLink n f d).group = d.group ∧ (modLink n f d).port = d.port ∧ (modLink n f d).serv = d.serv ∧
    (modLink n f d).row = d.row ∧ (modLink n f d).sensor = d.sensor ∧ (modLink n f d).stash = d.stash ∧
    (modLink n f d).counter = d.counter := by
  refine ⟨rfl, rfl, rfl, rfl, rfl, rfl, rfl, rfl, rfl, rfl, rfl, rfl, rfl, rfl, rfl, rfl, rfl, rfl, rfl, rfl, rfl, rfl⟩

theorem modGroup_group (i : Nat) (f : Group → Group) : (modGroup n f d).group i = if i = n then f (d.group n) else d.group i := look_upd _ _ _ _ _
@[simp] theorem modGroup_group_same (f : Group → Group) : (modGroup n f d).group n = f (d.group n) := look_upd_same _ _ _ _
theorem modGroup_group_other (f : Group → Group) (i : Nat) (h : i ≠ n) : (modGroup n f d).group i = d.group i := look_upd_other _ _ _ h
/-- modGroup changes nothing else. -/
@[simp] theorem modGroup_frame (f : Group → Group) :
    (modGroup n f d).out = d.out ∧ (modGroup n f d).time = d.time ∧ (modGroup n f d).mode = d.mode ∧
    (modGroup n f d).events = d.events ∧ (modGroup n f d).power = d.power ∧ (modGroup n f d).health = d.health ∧
    (modGroup n f d).start = d.start ∧ (modGroup n f d).ident = d.ident ∧ (modGroup n f d).owl = d.owl ∧
    (modGroup n f d).fe = d.fe ∧ (modGroup n f d).mesh = d.mesh ∧ (modGroup n f d).streams = d.streams ∧
    (modGroup n f d).mem = d.mem ∧ (modGroup n f d).scoring = d.scoring ∧ (modGroup n f d).sessions = d.sessions ∧
    (modGroup n f d).retries = d.retries ∧ (modGroup n f d).embed = d.embed ∧ (modGroup n f d).service = d.service ∧
    (modGroup n f d).journal = d.journal ∧ (modGroup n f d).counters = d.counters ∧ (modGroup n f d).cycle = d.cycle ∧
    (modGroup n f d).free = d.free ∧ (modGroup n f d).fabric.cfg = d.fabric.cfg ∧
    (modGroup n f d).fabric.links = d.fabric.links ∧ (modGroup n f d).fabric.parts = d.fabric.parts := by
  simp only [modGroup, and_self]
/-- modGroup leaves every object of another kind. -/
@[simp] theorem modGroup_others (f : Group → Group) :
    (modGroup n f d).queue = d.queue ∧ (modGroup n f d).qrun = d.qrun ∧ (modGroup n f d).fence = d.fence ∧
    (modGroup n f d).task = d.task ∧ (modGroup n f d).image = d.image ∧ (modGroup n f d).core = d.core ∧
    (modGroup n f d).slot = d.slot ∧ (modGroup n f d).slotRun = d.slotRun ∧ (modGroup n f d).side = d.side ∧
    (modGroup n f d).chan = d.chan ∧ (modGroup n f d).ens = d.ens ∧ (modGroup n f d).sgroup = d.sgroup ∧
    (modGroup n f d).session = d.session ∧ (modGroup n f d).table = d.table ∧ (modGroup n f d).engine = d.engine ∧
    (modGroup n f d).link = d.link ∧ (modGroup n f d).port = d.port ∧ (modGroup n f d).serv = d.serv ∧
    (modGroup n f d).row = d.row ∧ (modGroup n f d).sensor = d.sensor ∧ (modGroup n f d).stash = d.stash ∧
    (modGroup n f d).counter = d.counter := by
  refine ⟨rfl, rfl, rfl, rfl, rfl, rfl, rfl, rfl, rfl, rfl, rfl, rfl, rfl, rfl, rfl, rfl, rfl, rfl, rfl, rfl, rfl, rfl⟩

theorem modPort_port (i : Nat) (f : Port → Port) : (modPort n f d).port i = if i = n then f (d.port n) else d.port i := look_upd _ _ _ _ _
@[simp] theorem modPort_port_same (f : Port → Port) : (modPort n f d).port n = f (d.port n) := look_upd_same _ _ _ _
theorem modPort_port_other (f : Port → Port) (i : Nat) (h : i ≠ n) : (modPort n f d).port i = d.port i := look_upd_other _ _ _ h
/-- modPort changes nothing else. -/
@[simp] theorem modPort_frame (f : Port → Port) :
    (modPort n f d).out = d.out ∧ (modPort n f d).time = d.time ∧ (modPort n f d).mode = d.mode ∧
    (modPort n f d).events = d.events ∧ (modPort n f d).power = d.power ∧ (modPort n f d).health = d.health ∧
    (modPort n f d).start = d.start ∧ (modPort n f d).ident = d.ident ∧ (modPort n f d).owl = d.owl ∧
    (modPort n f d).fe = d.fe ∧ (modPort n f d).mesh = d.mesh ∧ (modPort n f d).streams = d.streams ∧
    (modPort n f d).mem = d.mem ∧ (modPort n f d).scoring = d.scoring ∧ (modPort n f d).sessions = d.sessions ∧
    (modPort n f d).retries = d.retries ∧ (modPort n f d).embed = d.embed ∧ (modPort n f d).fabric = d.fabric ∧
    (modPort n f d).journal = d.journal ∧ (modPort n f d).counters = d.counters ∧ (modPort n f d).cycle = d.cycle ∧
    (modPort n f d).free = d.free ∧ (modPort n f d).service.services = d.service.services := by
  simp only [modPort, and_self]
/-- modPort leaves every object of another kind. -/
@[simp] theorem modPort_others (f : Port → Port) :
    (modPort n f d).queue = d.queue ∧ (modPort n f d).qrun = d.qrun ∧ (modPort n f d).fence = d.fence ∧
    (modPort n f d).task = d.task ∧ (modPort n f d).image = d.image ∧ (modPort n f d).core = d.core ∧
    (modPort n f d).slot = d.slot ∧ (modPort n f d).slotRun = d.slotRun ∧ (modPort n f d).side = d.side ∧
    (modPort n f d).chan = d.chan ∧ (modPort n f d).ens = d.ens ∧ (modPort n f d).sgroup = d.sgroup ∧
    (modPort n f d).session = d.session ∧ (modPort n f d).table = d.table ∧ (modPort n f d).engine = d.engine ∧
    (modPort n f d).link = d.link ∧ (modPort n f d).group = d.group ∧ (modPort n f d).serv = d.serv ∧
    (modPort n f d).row = d.row ∧ (modPort n f d).sensor = d.sensor ∧ (modPort n f d).stash = d.stash ∧
    (modPort n f d).counter = d.counter := by
  refine ⟨rfl, rfl, rfl, rfl, rfl, rfl, rfl, rfl, rfl, rfl, rfl, rfl, rfl, rfl, rfl, rfl, rfl, rfl, rfl, rfl, rfl, rfl⟩

theorem modServ_serv (i : Nat) (f : Service → Service) : (modServ n f d).serv i = if i = n then f (d.serv n) else d.serv i := look_upd _ _ _ _ _
@[simp] theorem modServ_serv_same (f : Service → Service) : (modServ n f d).serv n = f (d.serv n) := look_upd_same _ _ _ _
theorem modServ_serv_other (f : Service → Service) (i : Nat) (h : i ≠ n) : (modServ n f d).serv i = d.serv i := look_upd_other _ _ _ h
/-- modServ changes nothing else. -/
@[simp] theorem modServ_frame (f : Service → Service) :
    (modServ n f d).out = d.out ∧ (modServ n f d).time = d.time ∧ (modServ n f d).mode = d.mode ∧
    (modServ n f d).events = d.events ∧ (modServ n f d).power = d.power ∧ (modServ n f d).health = d.health ∧
    (modServ n f d).start = d.start ∧ (modServ n f d).ident = d.ident ∧ (modServ n f d).owl = d.owl ∧
    (modServ n f d).fe = d.fe ∧ (modServ n f d).mesh = d.mesh ∧ (modServ n f d).streams = d.streams ∧
    (modServ n f d).mem = d.mem ∧ (modServ n f d).scoring = d.scoring ∧ (modServ n f d).sessions = d.sessions ∧
    (modServ n f d).retries = d.retries ∧ (modServ n f d).embed = d.embed ∧ (modServ n f d).fabric = d.fabric ∧
    (modServ n f d).journal = d.journal ∧ (modServ n f d).counters = d.counters ∧ (modServ n f d).cycle = d.cycle ∧
    (modServ n f d).free = d.free ∧ (modServ n f d).service.ports = d.service.ports := by
  simp only [modServ, and_self]
/-- modServ leaves every object of another kind. -/
@[simp] theorem modServ_others (f : Service → Service) :
    (modServ n f d).queue = d.queue ∧ (modServ n f d).qrun = d.qrun ∧ (modServ n f d).fence = d.fence ∧
    (modServ n f d).task = d.task ∧ (modServ n f d).image = d.image ∧ (modServ n f d).core = d.core ∧
    (modServ n f d).slot = d.slot ∧ (modServ n f d).slotRun = d.slotRun ∧ (modServ n f d).side = d.side ∧
    (modServ n f d).chan = d.chan ∧ (modServ n f d).ens = d.ens ∧ (modServ n f d).sgroup = d.sgroup ∧
    (modServ n f d).session = d.session ∧ (modServ n f d).table = d.table ∧ (modServ n f d).engine = d.engine ∧
    (modServ n f d).link = d.link ∧ (modServ n f d).group = d.group ∧ (modServ n f d).port = d.port ∧
    (modServ n f d).row = d.row ∧ (modServ n f d).sensor = d.sensor ∧ (modServ n f d).stash = d.stash ∧
    (modServ n f d).counter = d.counter := by
  refine ⟨rfl, rfl, rfl, rfl, rfl, rfl, rfl, rfl, rfl, rfl, rfl, rfl, rfl, rfl, rfl, rfl, rfl, rfl, rfl, rfl, rfl, rfl⟩

theorem modRow_row (i : Nat) (f : RowState → RowState) : (modRow n f d).row i = if i = n then f (d.row n) else d.row i := look_upd _ _ _ _ _
@[simp] theorem modRow_row_same (f : RowState → RowState) : (modRow n f d).row n = f (d.row n) := look_upd_same _ _ _ _
theorem modRow_row_other (f : RowState → RowState) (i : Nat) (h : i ≠ n) : (modRow n f d).row i = d.row i := look_upd_other _ _ _ h
/-- modRow changes nothing else. -/
@[simp] theorem modRow_frame (f : RowState → RowState) :
    (modRow n f d).out = d.out ∧ (modRow n f d).time = d.time ∧ (modRow n f d).mode = d.mode ∧
    (modRow n f d).events = d.events ∧ (modRow n f d).power = d.power ∧ (modRow n f d).start = d.start ∧
    (modRow n f d).ident = d.ident ∧ (modRow n f d).owl = d.owl ∧ (modRow n f d).fe = d.fe ∧ (modRow n f d).mesh = d.mesh ∧
    (modRow n f d).streams = d.streams ∧ (modRow n f d).mem = d.mem ∧ (modRow n f d).scoring = d.scoring ∧
    (modRow n f d).sessions = d.sessions ∧ (modRow n f d).retries = d.retries ∧ (modRow n f d).embed = d.embed ∧
    (modRow n f d).fabric = d.fabric ∧ (modRow n f d).service = d.service ∧ (modRow n f d).journal = d.journal ∧
    (modRow n f d).counters = d.counters ∧ (modRow n f d).cycle = d.cycle ∧ (modRow n f d).free = d.free ∧
    (modRow n f d).health.sensors = d.health.sensors ∧ (modRow n f d).health.smbusStuck = d.health.smbusStuck ∧
    (modRow n f d).health.i3cStuck = d.health.i3cStuck ∧ (modRow n f d).health.recovered = d.health.recovered ∧
    (modRow n f d).health.thermtrip = d.health.thermtrip := by
  simp only [modRow, and_self]
/-- modRow leaves every object of another kind. -/
@[simp] theorem modRow_others (f : RowState → RowState) :
    (modRow n f d).queue = d.queue ∧ (modRow n f d).qrun = d.qrun ∧ (modRow n f d).fence = d.fence ∧
    (modRow n f d).task = d.task ∧ (modRow n f d).image = d.image ∧ (modRow n f d).core = d.core ∧
    (modRow n f d).slot = d.slot ∧ (modRow n f d).slotRun = d.slotRun ∧ (modRow n f d).side = d.side ∧
    (modRow n f d).chan = d.chan ∧ (modRow n f d).ens = d.ens ∧ (modRow n f d).sgroup = d.sgroup ∧
    (modRow n f d).session = d.session ∧ (modRow n f d).table = d.table ∧ (modRow n f d).engine = d.engine ∧
    (modRow n f d).link = d.link ∧ (modRow n f d).group = d.group ∧ (modRow n f d).port = d.port ∧
    (modRow n f d).serv = d.serv ∧ (modRow n f d).sensor = d.sensor ∧ (modRow n f d).stash = d.stash ∧
    (modRow n f d).counter = d.counter := by
  refine ⟨rfl, rfl, rfl, rfl, rfl, rfl, rfl, rfl, rfl, rfl, rfl, rfl, rfl, rfl, rfl, rfl, rfl, rfl, rfl, rfl, rfl, rfl⟩

theorem setSensor_sensor (i : Nat) (v : Sensor) : (setSensor n v d).sensor i = if i = n then v else d.sensor i := look_put _ _ _ _ _
@[simp] theorem setSensor_sensor_same (v : Sensor) : (setSensor n v d).sensor n = v := look_put_same _ _ _ _
theorem setSensor_sensor_other (v : Sensor) (i : Nat) (h : i ≠ n) : (setSensor n v d).sensor i = d.sensor i := look_put_other _ _ _ h
/-- setSensor changes nothing else. -/
@[simp] theorem setSensor_frame (v : Sensor) :
    (setSensor n v d).out = d.out ∧ (setSensor n v d).time = d.time ∧ (setSensor n v d).mode = d.mode ∧
    (setSensor n v d).events = d.events ∧ (setSensor n v d).power = d.power ∧ (setSensor n v d).start = d.start ∧
    (setSensor n v d).ident = d.ident ∧ (setSensor n v d).owl = d.owl ∧ (setSensor n v d).fe = d.fe ∧
    (setSensor n v d).mesh = d.mesh ∧ (setSensor n v d).streams = d.streams ∧ (setSensor n v d).mem = d.mem ∧
    (setSensor n v d).scoring = d.scoring ∧ (setSensor n v d).sessions = d.sessions ∧
    (setSensor n v d).retries = d.retries ∧ (setSensor n v d).embed = d.embed ∧ (setSensor n v d).fabric = d.fabric ∧
    (setSensor n v d).service = d.service ∧ (setSensor n v d).journal = d.journal ∧
    (setSensor n v d).counters = d.counters ∧ (setSensor n v d).cycle = d.cycle ∧ (setSensor n v d).free = d.free ∧
    (setSensor n v d).health.rows = d.health.rows ∧ (setSensor n v d).health.smbusStuck = d.health.smbusStuck ∧
    (setSensor n v d).health.i3cStuck = d.health.i3cStuck ∧ (setSensor n v d).health.recovered = d.health.recovered ∧
    (setSensor n v d).health.thermtrip = d.health.thermtrip := by
  simp only [setSensor, and_self]
/-- setSensor leaves every object of another kind. -/
@[simp] theorem setSensor_others (v : Sensor) :
    (setSensor n v d).queue = d.queue ∧ (setSensor n v d).qrun = d.qrun ∧ (setSensor n v d).fence = d.fence ∧
    (setSensor n v d).task = d.task ∧ (setSensor n v d).image = d.image ∧ (setSensor n v d).core = d.core ∧
    (setSensor n v d).slot = d.slot ∧ (setSensor n v d).slotRun = d.slotRun ∧ (setSensor n v d).side = d.side ∧
    (setSensor n v d).chan = d.chan ∧ (setSensor n v d).ens = d.ens ∧ (setSensor n v d).sgroup = d.sgroup ∧
    (setSensor n v d).session = d.session ∧ (setSensor n v d).table = d.table ∧ (setSensor n v d).engine = d.engine ∧
    (setSensor n v d).link = d.link ∧ (setSensor n v d).group = d.group ∧ (setSensor n v d).port = d.port ∧
    (setSensor n v d).serv = d.serv ∧ (setSensor n v d).row = d.row ∧ (setSensor n v d).stash = d.stash ∧
    (setSensor n v d).counter = d.counter := by
  refine ⟨rfl, rfl, rfl, rfl, rfl, rfl, rfl, rfl, rfl, rfl, rfl, rfl, rfl, rfl, rfl, rfl, rfl, rfl, rfl, rfl, rfl, rfl⟩

theorem modStash_stash (i : Nat) (f : Stash → Stash) : (modStash n f d).stash i = if i = n then f (d.stash n) else d.stash i := look_upd _ _ _ _ _
@[simp] theorem modStash_stash_same (f : Stash → Stash) : (modStash n f d).stash n = f (d.stash n) := look_upd_same _ _ _ _
theorem modStash_stash_other (f : Stash → Stash) (i : Nat) (h : i ≠ n) : (modStash n f d).stash i = d.stash i := look_upd_other _ _ _ h
/-- modStash changes nothing else. -/
@[simp] theorem modStash_frame (f : Stash → Stash) :
    (modStash n f d).out = d.out ∧ (modStash n f d).time = d.time ∧ (modStash n f d).mode = d.mode ∧
    (modStash n f d).events = d.events ∧ (modStash n f d).power = d.power ∧ (modStash n f d).health = d.health ∧
    (modStash n f d).start = d.start ∧ (modStash n f d).ident = d.ident ∧ (modStash n f d).owl = d.owl ∧
    (modStash n f d).fe = d.fe ∧ (modStash n f d).streams = d.streams ∧ (modStash n f d).mem = d.mem ∧
    (modStash n f d).scoring = d.scoring ∧ (modStash n f d).sessions = d.sessions ∧ (modStash n f d).retries = d.retries ∧
    (modStash n f d).embed = d.embed ∧ (modStash n f d).fabric = d.fabric ∧ (modStash n f d).service = d.service ∧
    (modStash n f d).journal = d.journal ∧ (modStash n f d).counters = d.counters ∧ (modStash n f d).cycle = d.cycle ∧
    (modStash n f d).free = d.free ∧ (modStash n f d).mesh.cores = d.mesh.cores ∧
    (modStash n f d).mesh.mapBuilt = d.mesh.mapBuilt ∧ (modStash n f d).mesh.epoch = d.mesh.epoch ∧
    (modStash n f d).mesh.jobs = d.mesh.jobs ∧ (modStash n f d).mesh.packets = d.mesh.packets ∧
    (modStash n f d).mesh.served = d.mesh.served := by
  simp only [modStash, and_self]
/-- modStash leaves every object of another kind. -/
@[simp] theorem modStash_others (f : Stash → Stash) :
    (modStash n f d).queue = d.queue ∧ (modStash n f d).qrun = d.qrun ∧ (modStash n f d).fence = d.fence ∧
    (modStash n f d).task = d.task ∧ (modStash n f d).image = d.image ∧ (modStash n f d).core = d.core ∧
    (modStash n f d).slot = d.slot ∧ (modStash n f d).slotRun = d.slotRun ∧ (modStash n f d).side = d.side ∧
    (modStash n f d).chan = d.chan ∧ (modStash n f d).ens = d.ens ∧ (modStash n f d).sgroup = d.sgroup ∧
    (modStash n f d).session = d.session ∧ (modStash n f d).table = d.table ∧ (modStash n f d).engine = d.engine ∧
    (modStash n f d).link = d.link ∧ (modStash n f d).group = d.group ∧ (modStash n f d).port = d.port ∧
    (modStash n f d).serv = d.serv ∧ (modStash n f d).row = d.row ∧ (modStash n f d).sensor = d.sensor ∧
    (modStash n f d).counter = d.counter := by
  refine ⟨rfl, rfl, rfl, rfl, rfl, rfl, rfl, rfl, rfl, rfl, rfl, rfl, rfl, rfl, rfl, rfl, rfl, rfl, rfl, rfl, rfl, rfl⟩

end Sys2Proof.Machine
end

