-- ==== Sys2Proof/Laws/Ops.lean ====
section
/-! SUPPORT. What the shared operations leave unchanged: counters, events, host writes and device memory. -/

namespace Sys2Proof.Machine
open Sys2Proof

variable (d : Dev)

/-- What drawFree leaves unchanged. -/
@[simp] theorem drawFree_frame  :
    ((drawFree d).2).out = d.out ∧ ((drawFree d).2).time = d.time ∧ ((drawFree d).2).mode = d.mode ∧
    ((drawFree d).2).events = d.events ∧ ((drawFree d).2).power = d.power ∧ ((drawFree d).2).health = d.health ∧
    ((drawFree d).2).start = d.start ∧ ((drawFree d).2).ident = d.ident ∧ ((drawFree d).2).owl = d.owl ∧
    ((drawFree d).2).fe = d.fe ∧ ((drawFree d).2).mesh = d.mesh ∧ ((drawFree d).2).streams = d.streams ∧
    ((drawFree d).2).mem = d.mem ∧ ((drawFree d).2).scoring = d.scoring ∧ ((drawFree d).2).sessions = d.sessions ∧
    ((drawFree d).2).retries = d.retries ∧ ((drawFree d).2).embed = d.embed ∧ ((drawFree d).2).fabric = d.fabric ∧
    ((drawFree d).2).service = d.service ∧ ((drawFree d).2).journal = d.journal ∧ ((drawFree d).2).counters = d.counters ∧
    ((drawFree d).2).cycle = d.cycle := by
  simp only [drawFree, and_self]
/-- Objects that drawFree leaves unchanged. -/
@[simp] theorem drawFree_others  :
    ((drawFree d).2).queue = d.queue ∧ ((drawFree d).2).qrun = d.qrun ∧ ((drawFree d).2).fence = d.fence ∧
    ((drawFree d).2).task = d.task ∧ ((drawFree d).2).image = d.image ∧ ((drawFree d).2).core = d.core ∧
    ((drawFree d).2).slot = d.slot ∧ ((drawFree d).2).slotRun = d.slotRun ∧ ((drawFree d).2).side = d.side ∧
    ((drawFree d).2).chan = d.chan ∧ ((drawFree d).2).ens = d.ens ∧ ((drawFree d).2).sgroup = d.sgroup ∧
    ((drawFree d).2).session = d.session ∧ ((drawFree d).2).table = d.table ∧ ((drawFree d).2).engine = d.engine ∧
    ((drawFree d).2).link = d.link ∧ ((drawFree d).2).group = d.group ∧ ((drawFree d).2).port = d.port ∧
    ((drawFree d).2).serv = d.serv ∧ ((drawFree d).2).row = d.row ∧ ((drawFree d).2).sensor = d.sensor ∧
    ((drawFree d).2).stash = d.stash ∧ ((drawFree d).2).counter = d.counter := by
  have h := drawFree_frame d
  exact ⟨queue_congr (by simp only [h]), qrun_congr (by simp only [h]), fence_congr (by simp only [h]), task_congr (by simp only [h]), image_congr (by simp only [h]), core_congr (by simp only [h]), slot_congr (by simp only [h]), slotRun_congr (by simp only [h]), side_congr (by simp only [h]), chan_congr (by simp only [h]), ens_congr (by simp only [h]), sgroup_congr (by simp only [h]), session_congr (by simp only [h]), table_congr (by simp only [h]), engine_congr (by simp only [h]), link_congr (by simp only [h]), group_congr (by simp only [h]), port_congr (by simp only [h]), serv_congr (by simp only [h]), row_congr (by simp only [h]), sensor_congr (by simp only [h]), stash_congr (by simp only [h]), counter_congr (by simp only [h])⟩

/-- What setCounter leaves unchanged. -/
@[simp] theorem setCounter_frame (o v : Nat) :
    (setCounter o v d).out = d.out ∧ (setCounter o v d).time = d.time ∧ (setCounter o v d).mode = d.mode ∧
    (setCounter o v d).events = d.events ∧ (setCounter o v d).power = d.power ∧ (setCounter o v d).health = d.health ∧
    (setCounter o v d).start = d.start ∧ (setCounter o v d).ident = d.ident ∧ (setCounter o v d).owl = d.owl ∧
    (setCounter o v d).fe = d.fe ∧ (setCounter o v d).mesh = d.mesh ∧ (setCounter o v d).streams = d.streams ∧
    (setCounter o v d).mem = d.mem ∧ (setCounter o v d).scoring = d.scoring ∧ (setCounter o v d).sessions = d.sessions ∧
    (setCounter o v d).retries = d.retries ∧ (setCounter o v d).embed = d.embed ∧ (setCounter o v d).fabric = d.fabric ∧
    (setCounter o v d).service = d.service ∧ (setCounter o v d).journal = d.journal ∧ (setCounter o v d).cycle = d.cycle ∧
    (setCounter o v d).free = d.free := by
  simp only [setCounter, and_self]
/-- Objects that setCounter leaves unchanged. -/
@[simp] theorem setCounter_others (o v : Nat) :
    (setCounter o v d).queue = d.queue ∧ (setCounter o v d).qrun = d.qrun ∧ (setCounter o v d).fence = d.fence ∧
    (setCounter o v d).task = d.task ∧ (setCounter o v d).image = d.image ∧ (setCounter o v d).core = d.core ∧
    (setCounter o v d).slot = d.slot ∧ (setCounter o v d).slotRun = d.slotRun ∧ (setCounter o v d).side = d.side ∧
    (setCounter o v d).chan = d.chan ∧ (setCounter o v d).ens = d.ens ∧ (setCounter o v d).sgroup = d.sgroup ∧
    (setCounter o v d).session = d.session ∧ (setCounter o v d).table = d.table ∧ (setCounter o v d).engine = d.engine ∧
    (setCounter o v d).link = d.link ∧ (setCounter o v d).group = d.group ∧ (setCounter o v d).port = d.port ∧
    (setCounter o v d).serv = d.serv ∧ (setCounter o v d).row = d.row ∧ (setCounter o v d).sensor = d.sensor ∧
    (setCounter o v d).stash = d.stash := by
  have h := setCounter_frame d o v
  exact ⟨queue_congr (by simp only [h]), qrun_congr (by simp only [h]), fence_congr (by simp only [h]), task_congr (by simp only [h]), image_congr (by simp only [h]), core_congr (by simp only [h]), slot_congr (by simp only [h]), slotRun_congr (by simp only [h]), side_congr (by simp only [h]), chan_congr (by simp only [h]), ens_congr (by simp only [h]), sgroup_congr (by simp only [h]), session_congr (by simp only [h]), table_congr (by simp only [h]), engine_congr (by simp only [h]), link_congr (by simp only [h]), group_congr (by simp only [h]), port_congr (by simp only [h]), serv_congr (by simp only [h]), row_congr (by simp only [h]), sensor_congr (by simp only [h]), stash_congr (by simp only [h])⟩

/-- What msixBit leaves unchanged. -/
@[simp] theorem msixBit_frame (v : Nat) :
    (msixBit v d).out = d.out ∧ (msixBit v d).time = d.time ∧ (msixBit v d).events = d.events ∧
    (msixBit v d).power = d.power ∧ (msixBit v d).health = d.health ∧ (msixBit v d).start = d.start ∧
    (msixBit v d).ident = d.ident ∧ (msixBit v d).owl = d.owl ∧ (msixBit v d).fe = d.fe ∧ (msixBit v d).mesh = d.mesh ∧
    (msixBit v d).streams = d.streams ∧ (msixBit v d).mem = d.mem ∧ (msixBit v d).scoring = d.scoring ∧
    (msixBit v d).sessions = d.sessions ∧ (msixBit v d).retries = d.retries ∧ (msixBit v d).embed = d.embed ∧
    (msixBit v d).fabric = d.fabric ∧ (msixBit v d).service = d.service ∧ (msixBit v d).journal = d.journal ∧
    (msixBit v d).counters = d.counters ∧ (msixBit v d).cycle = d.cycle ∧ (msixBit v d).free = d.free ∧
    (msixBit v d).mode.det = d.mode.det ∧ (msixBit v d).mode.refused = d.mode.refused ∧
    (msixBit v d).mode.queueCtl = d.mode.queueCtl ∧ (msixBit v d).mode.queueSelect = d.mode.queueSelect ∧
    (msixBit v d).mode.traceCtl = d.mode.traceCtl ∧ (msixBit v d).mode.pairs = d.mode.pairs ∧
    (msixBit v d).mode.mismatch = d.mode.mismatch ∧ (msixBit v d).mode.lastOffset = d.mode.lastOffset ∧
    (msixBit v d).mode.bar4Base = d.mode.bar4Base ∧ (msixBit v d).mode.bar4Log2 = d.mode.bar4Log2 ∧
    (msixBit v d).mode.d3hot = d.mode.d3hot ∧ (msixBit v d).mode.msixTable = d.mode.msixTable ∧
    (msixBit v d).mode.msixPending = d.mode.msixPending := by
  simp only [msixBit, and_self]
/-- Objects that msixBit leaves unchanged. -/
@[simp] theorem msixBit_others (v : Nat) :
    (msixBit v d).queue = d.queue ∧ (msixBit v d).qrun = d.qrun ∧ (msixBit v d).fence = d.fence ∧
    (msixBit v d).task = d.task ∧ (msixBit v d).image = d.image ∧ (msixBit v d).core = d.core ∧
    (msixBit v d).slot = d.slot ∧ (msixBit v d).slotRun = d.slotRun ∧ (msixBit v d).side = d.side ∧
    (msixBit v d).chan = d.chan ∧ (msixBit v d).ens = d.ens ∧ (msixBit v d).sgroup = d.sgroup ∧
    (msixBit v d).session = d.session ∧ (msixBit v d).table = d.table ∧ (msixBit v d).engine = d.engine ∧
    (msixBit v d).link = d.link ∧ (msixBit v d).group = d.group ∧ (msixBit v d).port = d.port ∧
    (msixBit v d).serv = d.serv ∧ (msixBit v d).row = d.row ∧ (msixBit v d).sensor = d.sensor ∧
    (msixBit v d).stash = d.stash ∧ (msixBit v d).counter = d.counter := by
  have h := msixBit_frame d v
  exact ⟨queue_congr (by simp only [h]), qrun_congr (by simp only [h]), fence_congr (by simp only [h]), task_congr (by simp only [h]), image_congr (by simp only [h]), core_congr (by simp only [h]), slot_congr (by simp only [h]), slotRun_congr (by simp only [h]), side_congr (by simp only [h]), chan_congr (by simp only [h]), ens_congr (by simp only [h]), sgroup_congr (by simp only [h]), session_congr (by simp only [h]), table_congr (by simp only [h]), engine_congr (by simp only [h]), link_congr (by simp only [h]), group_congr (by simp only [h]), port_congr (by simp only [h]), serv_congr (by simp only [h]), row_congr (by simp only [h]), sensor_congr (by simp only [h]), stash_congr (by simp only [h]), counter_congr (by simp only [h])⟩

/-- What eventVectors leaves unchanged. -/
@[simp] theorem eventVectors_frame (code : Nat) :
    (eventVectors code d).out = d.out ∧ (eventVectors code d).time = d.time ∧ (eventVectors code d).events = d.events ∧
    (eventVectors code d).power = d.power ∧ (eventVectors code d).health = d.health ∧
    (eventVectors code d).start = d.start ∧ (eventVectors code d).ident = d.ident ∧ (eventVectors code d).owl = d.owl ∧
    (eventVectors code d).fe = d.fe ∧ (eventVectors code d).mesh = d.mesh ∧ (eventVectors code d).streams = d.streams ∧
    (eventVectors code d).mem = d.mem ∧ (eventVectors code d).scoring = d.scoring ∧
    (eventVectors code d).sessions = d.sessions ∧ (eventVectors code d).retries = d.retries ∧
    (eventVectors code d).embed = d.embed ∧ (eventVectors code d).fabric = d.fabric ∧
    (eventVectors code d).service = d.service ∧ (eventVectors code d).journal = d.journal ∧
    (eventVectors code d).counters = d.counters ∧ (eventVectors code d).cycle = d.cycle ∧
    (eventVectors code d).free = d.free ∧ (eventVectors code d).mode.det = d.mode.det ∧
    (eventVectors code d).mode.refused = d.mode.refused ∧ (eventVectors code d).mode.queueCtl = d.mode.queueCtl ∧
    (eventVectors code d).mode.queueSelect = d.mode.queueSelect ∧ (eventVectors code d).mode.traceCtl = d.mode.traceCtl ∧
    (eventVectors code d).mode.pairs = d.mode.pairs ∧ (eventVectors code d).mode.mismatch = d.mode.mismatch ∧
    (eventVectors code d).mode.lastOffset = d.mode.lastOffset ∧ (eventVectors code d).mode.bar4Base = d.mode.bar4Base ∧
    (eventVectors code d).mode.bar4Log2 = d.mode.bar4Log2 ∧ (eventVectors code d).mode.d3hot = d.mode.d3hot ∧
    (eventVectors code d).mode.msixTable = d.mode.msixTable ∧ (eventVectors code d).mode.msixPending = d.mode.msixPending := by
  unfold eventVectors
  split; · simp only [msixBit_frame, and_self]
  split; · simp only [msixBit_frame, and_self]
  split <;> simp only [msixBit_frame, and_self]
/-- Objects that eventVectors leaves unchanged. -/
@[simp] theorem eventVectors_others (code : Nat) :
    (eventVectors code d).queue = d.queue ∧ (eventVectors code d).qrun = d.qrun ∧ (eventVectors code d).fence = d.fence ∧
    (eventVectors code d).task = d.task ∧ (eventVectors code d).image = d.image ∧ (eventVectors code d).core = d.core ∧
    (eventVectors code d).slot = d.slot ∧ (eventVectors code d).slotRun = d.slotRun ∧ (eventVectors code d).side = d.side ∧
    (eventVectors code d).chan = d.chan ∧ (eventVectors code d).ens = d.ens ∧ (eventVectors code d).sgroup = d.sgroup ∧
    (eventVectors code d).session = d.session ∧ (eventVectors code d).table = d.table ∧
    (eventVectors code d).engine = d.engine ∧ (eventVectors code d).link = d.link ∧ (eventVectors code d).group = d.group ∧
    (eventVectors code d).port = d.port ∧ (eventVectors code d).serv = d.serv ∧ (eventVectors code d).row = d.row ∧
    (eventVectors code d).sensor = d.sensor ∧ (eventVectors code d).stash = d.stash ∧
    (eventVectors code d).counter = d.counter := by
  have h := eventVectors_frame d code
  exact ⟨queue_congr (by simp only [h]), qrun_congr (by simp only [h]), fence_congr (by simp only [h]), task_congr (by simp only [h]), image_congr (by simp only [h]), core_congr (by simp only [h]), slot_congr (by simp only [h]), slotRun_congr (by simp only [h]), side_congr (by simp only [h]), chan_congr (by simp only [h]), ens_congr (by simp only [h]), sgroup_congr (by simp only [h]), session_congr (by simp only [h]), table_congr (by simp only [h]), engine_congr (by simp only [h]), link_congr (by simp only [h]), group_congr (by simp only [h]), port_congr (by simp only [h]), serv_congr (by simp only [h]), row_congr (by simp only [h]), sensor_congr (by simp only [h]), stash_congr (by simp only [h]), counter_congr (by simp only [h])⟩

/-- What holdEvent leaves unchanged. -/
@[simp] theorem holdEvent_frame (code source : Nat) (detail : List Byte) :
    (holdEvent code source detail d).out = d.out ∧ (holdEvent code source detail d).time = d.time ∧
    (holdEvent code source detail d).mode = d.mode ∧ (holdEvent code source detail d).power = d.power ∧
    (holdEvent code source detail d).health = d.health ∧ (holdEvent code source detail d).start = d.start ∧
    (holdEvent code source detail d).ident = d.ident ∧ (holdEvent code source detail d).owl = d.owl ∧
    (holdEvent code source detail d).fe = d.fe ∧ (holdEvent code source detail d).mesh = d.mesh ∧
    (holdEvent code source detail d).streams = d.streams ∧ (holdEvent code source detail d).mem = d.mem ∧
    (holdEvent code source detail d).scoring = d.scoring ∧ (holdEvent code source detail d).sessions = d.sessions ∧
    (holdEvent code source detail d).retries = d.retries ∧ (holdEvent code source detail d).embed = d.embed ∧
    (holdEvent code source detail d).fabric = d.fabric ∧ (holdEvent code source detail d).service = d.service ∧
    (holdEvent code source detail d).journal = d.journal ∧ (holdEvent code source detail d).counters = d.counters ∧
    (holdEvent code source detail d).cycle = d.cycle ∧ (holdEvent code source detail d).free = d.free ∧
    (holdEvent code source detail d).events.base = d.events.base ∧
    (holdEvent code source detail d).events.enable = d.events.enable ∧
    (holdEvent code source detail d).events.log2 = d.events.log2 ∧
    (holdEvent code source detail d).events.classEn = d.events.classEn ∧
    (holdEvent code source detail d).events.producer = d.events.producer ∧
    (holdEvent code source detail d).events.consumer = d.events.consumer ∧
    (holdEvent code source detail d).events.overflow = d.events.overflow ∧
    (holdEvent code source detail d).events.badBase = d.events.badBase ∧
    (holdEvent code source detail d).events.badConsumer = d.events.badConsumer ∧
    (holdEvent code source detail d).events.lost = d.events.lost ∧
    (holdEvent code source detail d).events.lostFirst = d.events.lostFirst ∧
    (holdEvent code source detail d).events.lostLast = d.events.lostLast := by
  simp only [holdEvent, and_self]
/-- Objects that holdEvent leaves unchanged. -/
@[simp] theorem holdEvent_others (code source : Nat) (detail : List Byte) :
    (holdEvent code source detail d).queue = d.queue ∧ (holdEvent code source detail d).qrun = d.qrun ∧
    (holdEvent code source detail d).fence = d.fence ∧ (holdEvent code source detail d).task = d.task ∧
    (holdEvent code source detail d).image = d.image ∧ (holdEvent code source detail d).core = d.core ∧
    (holdEvent code source detail d).slot = d.slot ∧ (holdEvent code source detail d).slotRun = d.slotRun ∧
    (holdEvent code source detail d).side = d.side ∧ (holdEvent code source detail d).chan = d.chan ∧
    (holdEvent code source detail d).ens = d.ens ∧ (holdEvent code source detail d).sgroup = d.sgroup ∧
    (holdEvent code source detail d).session = d.session ∧ (holdEvent code source detail d).table = d.table ∧
    (holdEvent code source detail d).engine = d.engine ∧ (holdEvent code source detail d).link = d.link ∧
    (holdEvent code source detail d).group = d.group ∧ (holdEvent code source detail d).port = d.port ∧
    (holdEvent code source detail d).serv = d.serv ∧ (holdEvent code source detail d).row = d.row ∧
    (holdEvent code source detail d).sensor = d.sensor ∧ (holdEvent code source detail d).stash = d.stash ∧
    (holdEvent code source detail d).counter = d.counter := by
  have h := holdEvent_frame d code source detail
  exact ⟨queue_congr (by simp only [h]), qrun_congr (by simp only [h]), fence_congr (by simp only [h]), task_congr (by simp only [h]), image_congr (by simp only [h]), core_congr (by simp only [h]), slot_congr (by simp only [h]), slotRun_congr (by simp only [h]), side_congr (by simp only [h]), chan_congr (by simp only [h]), ens_congr (by simp only [h]), sgroup_congr (by simp only [h]), session_congr (by simp only [h]), table_congr (by simp only [h]), engine_congr (by simp only [h]), link_congr (by simp only [h]), group_congr (by simp only [h]), port_congr (by simp only [h]), serv_congr (by simp only [h]), row_congr (by simp only [h]), sensor_congr (by simp only [h]), stash_congr (by simp only [h]), counter_congr (by simp only [h])⟩

/-- What hwSet leaves unchanged. -/
@[simp] theorem hwSet_frame (o b : Nat) :
    (hwSet o b d).out = d.out ∧ (hwSet o b d).time = d.time ∧ (hwSet o b d).mode = d.mode ∧
    (hwSet o b d).events = d.events ∧ (hwSet o b d).power = d.power ∧ (hwSet o b d).health = d.health ∧
    (hwSet o b d).start = d.start ∧ (hwSet o b d).ident = d.ident ∧ (hwSet o b d).owl = d.owl ∧ (hwSet o b d).fe = d.fe ∧
    (hwSet o b d).mesh = d.mesh ∧ (hwSet o b d).streams = d.streams ∧ (hwSet o b d).mem = d.mem ∧
    (hwSet o b d).scoring = d.scoring ∧ (hwSet o b d).sessions = d.sessions ∧ (hwSet o b d).retries = d.retries ∧
    (hwSet o b d).embed = d.embed ∧ (hwSet o b d).fabric = d.fabric ∧ (hwSet o b d).service = d.service ∧
    (hwSet o b d).journal = d.journal ∧ (hwSet o b d).counters = d.counters ∧ (hwSet o b d).free = d.free ∧
    (hwSet o b d).cycle.zeroed = d.cycle.zeroed ∧ (hwSet o b d).cycle.wrapped = d.cycle.wrapped ∧
    (hwSet o b d).cycle.rows = d.cycle.rows := by
  simp only [hwSet, and_self]
/-- Objects that hwSet leaves unchanged. -/
@[simp] theorem hwSet_others (o b : Nat) :
    (hwSet o b d).queue = d.queue ∧ (hwSet o b d).qrun = d.qrun ∧ (hwSet o b d).fence = d.fence ∧
    (hwSet o b d).task = d.task ∧ (hwSet o b d).image = d.image ∧ (hwSet o b d).core = d.core ∧
    (hwSet o b d).slot = d.slot ∧ (hwSet o b d).slotRun = d.slotRun ∧ (hwSet o b d).side = d.side ∧
    (hwSet o b d).chan = d.chan ∧ (hwSet o b d).ens = d.ens ∧ (hwSet o b d).sgroup = d.sgroup ∧
    (hwSet o b d).session = d.session ∧ (hwSet o b d).table = d.table ∧ (hwSet o b d).engine = d.engine ∧
    (hwSet o b d).link = d.link ∧ (hwSet o b d).group = d.group ∧ (hwSet o b d).port = d.port ∧
    (hwSet o b d).serv = d.serv ∧ (hwSet o b d).row = d.row ∧ (hwSet o b d).sensor = d.sensor ∧
    (hwSet o b d).stash = d.stash ∧ (hwSet o b d).counter = d.counter := by
  have h := hwSet_frame d o b
  exact ⟨queue_congr (by simp only [h]), qrun_congr (by simp only [h]), fence_congr (by simp only [h]), task_congr (by simp only [h]), image_congr (by simp only [h]), core_congr (by simp only [h]), slot_congr (by simp only [h]), slotRun_congr (by simp only [h]), side_congr (by simp only [h]), chan_congr (by simp only [h]), ens_congr (by simp only [h]), sgroup_congr (by simp only [h]), session_congr (by simp only [h]), table_congr (by simp only [h]), engine_congr (by simp only [h]), link_congr (by simp only [h]), group_congr (by simp only [h]), port_congr (by simp only [h]), serv_congr (by simp only [h]), row_congr (by simp only [h]), sensor_congr (by simp only [h]), stash_congr (by simp only [h]), counter_congr (by simp only [h])⟩

/-- What noteLoss leaves unchanged. -/
@[simp] theorem noteLoss_frame  :
    (noteLoss d).out = d.out ∧ (noteLoss d).time = d.time ∧ (noteLoss d).power = d.power ∧ (noteLoss d).health = d.health ∧
    (noteLoss d).start = d.start ∧ (noteLoss d).ident = d.ident ∧ (noteLoss d).owl = d.owl ∧ (noteLoss d).fe = d.fe ∧
    (noteLoss d).mesh = d.mesh ∧ (noteLoss d).streams = d.streams ∧ (noteLoss d).mem = d.mem ∧
    (noteLoss d).scoring = d.scoring ∧ (noteLoss d).sessions = d.sessions ∧ (noteLoss d).retries = d.retries ∧
    (noteLoss d).embed = d.embed ∧ (noteLoss d).fabric = d.fabric ∧ (noteLoss d).service = d.service ∧
    (noteLoss d).journal = d.journal ∧ (noteLoss d).counters = d.counters ∧ (noteLoss d).free = d.free ∧
    (noteLoss d).cycle.zeroed = d.cycle.zeroed ∧ (noteLoss d).cycle.wrapped = d.cycle.wrapped ∧
    (noteLoss d).cycle.rows = d.cycle.rows ∧ (noteLoss d).mode.det = d.mode.det ∧
    (noteLoss d).mode.refused = d.mode.refused ∧ (noteLoss d).mode.queueCtl = d.mode.queueCtl ∧
    (noteLoss d).mode.queueSelect = d.mode.queueSelect ∧ (noteLoss d).mode.traceCtl = d.mode.traceCtl ∧
    (noteLoss d).mode.pairs = d.mode.pairs ∧ (noteLoss d).mode.mismatch = d.mode.mismatch ∧
    (noteLoss d).mode.lastOffset = d.mode.lastOffset ∧ (noteLoss d).mode.bar4Base = d.mode.bar4Base ∧
    (noteLoss d).mode.bar4Log2 = d.mode.bar4Log2 ∧ (noteLoss d).mode.d3hot = d.mode.d3hot ∧
    (noteLoss d).mode.msixTable = d.mode.msixTable ∧ (noteLoss d).mode.msixPending = d.mode.msixPending ∧
    (noteLoss d).events.base = d.events.base ∧ (noteLoss d).events.enable = d.events.enable ∧
    (noteLoss d).events.log2 = d.events.log2 ∧ (noteLoss d).events.classEn = d.events.classEn ∧
    (noteLoss d).events.producer = d.events.producer ∧ (noteLoss d).events.consumer = d.events.consumer ∧
    (noteLoss d).events.badBase = d.events.badBase ∧ (noteLoss d).events.badConsumer = d.events.badConsumer ∧
    (noteLoss d).events.held = d.events.held ∧ (noteLoss d).events.seq = d.events.seq := by
  unfold noteLoss
  dsimp only
  split <;> simp only [hwSet_frame, msixBit_frame, and_self]
/-- Objects that noteLoss leaves unchanged. -/
@[simp] theorem noteLoss_others  :
    (noteLoss d).queue = d.queue ∧ (noteLoss d).qrun = d.qrun ∧ (noteLoss d).fence = d.fence ∧ (noteLoss d).task = d.task ∧
    (noteLoss d).image = d.image ∧ (noteLoss d).core = d.core ∧ (noteLoss d).slot = d.slot ∧
    (noteLoss d).slotRun = d.slotRun ∧ (noteLoss d).side = d.side ∧ (noteLoss d).chan = d.chan ∧ (noteLoss d).ens = d.ens ∧
    (noteLoss d).sgroup = d.sgroup ∧ (noteLoss d).session = d.session ∧ (noteLoss d).table = d.table ∧
    (noteLoss d).engine = d.engine ∧ (noteLoss d).link = d.link ∧ (noteLoss d).group = d.group ∧
    (noteLoss d).port = d.port ∧ (noteLoss d).serv = d.serv ∧ (noteLoss d).row = d.row ∧ (noteLoss d).sensor = d.sensor ∧
    (noteLoss d).stash = d.stash ∧ (noteLoss d).counter = d.counter := by
  have h := noteLoss_frame d
  exact ⟨queue_congr (by simp only [h]), qrun_congr (by simp only [h]), fence_congr (by simp only [h]), task_congr (by simp only [h]), image_congr (by simp only [h]), core_congr (by simp only [h]), slot_congr (by simp only [h]), slotRun_congr (by simp only [h]), side_congr (by simp only [h]), chan_congr (by simp only [h]), ens_congr (by simp only [h]), sgroup_congr (by simp only [h]), session_congr (by simp only [h]), table_congr (by simp only [h]), engine_congr (by simp only [h]), link_congr (by simp only [h]), group_congr (by simp only [h]), port_congr (by simp only [h]), serv_congr (by simp only [h]), row_congr (by simp only [h]), sensor_congr (by simp only [h]), stash_congr (by simp only [h]), counter_congr (by simp only [h])⟩

/-- What loseEvent leaves unchanged. -/
@[simp] theorem loseEvent_frame  :
    (loseEvent d).out = d.out ∧ (loseEvent d).time = d.time ∧ (loseEvent d).power = d.power ∧
    (loseEvent d).health = d.health ∧ (loseEvent d).start = d.start ∧ (loseEvent d).ident = d.ident ∧
    (loseEvent d).owl = d.owl ∧ (loseEvent d).fe = d.fe ∧ (loseEvent d).mesh = d.mesh ∧ (loseEvent d).streams = d.streams ∧
    (loseEvent d).mem = d.mem ∧ (loseEvent d).scoring = d.scoring ∧ (loseEvent d).sessions = d.sessions ∧
    (loseEvent d).retries = d.retries ∧ (loseEvent d).embed = d.embed ∧ (loseEvent d).fabric = d.fabric ∧
    (loseEvent d).service = d.service ∧ (loseEvent d).journal = d.journal ∧ (loseEvent d).free = d.free ∧
    (loseEvent d).cycle.zeroed = d.cycle.zeroed ∧ (loseEvent d).cycle.wrapped = d.cycle.wrapped ∧
    (loseEvent d).cycle.rows = d.cycle.rows ∧ (loseEvent d).mode.det = d.mode.det ∧
    (loseEvent d).mode.refused = d.mode.refused ∧ (loseEvent d).mode.queueCtl = d.mode.queueCtl ∧
    (loseEvent d).mode.queueSelect = d.mode.queueSelect ∧ (loseEvent d).mode.traceCtl = d.mode.traceCtl ∧
    (loseEvent d).mode.pairs = d.mode.pairs ∧ (loseEvent d).mode.mismatch = d.mode.mismatch ∧
    (loseEvent d).mode.lastOffset = d.mode.lastOffset ∧ (loseEvent d).mode.bar4Base = d.mode.bar4Base ∧
    (loseEvent d).mode.bar4Log2 = d.mode.bar4Log2 ∧ (loseEvent d).mode.d3hot = d.mode.d3hot ∧
    (loseEvent d).mode.msixTable = d.mode.msixTable ∧ (loseEvent d).mode.msixPending = d.mode.msixPending ∧
    (loseEvent d).events.base = d.events.base ∧ (loseEvent d).events.enable = d.events.enable ∧
    (loseEvent d).events.log2 = d.events.log2 ∧ (loseEvent d).events.classEn = d.events.classEn ∧
    (loseEvent d).events.producer = d.events.producer ∧ (loseEvent d).events.consumer = d.events.consumer ∧
    (loseEvent d).events.badBase = d.events.badBase ∧ (loseEvent d).events.badConsumer = d.events.badConsumer ∧
    (loseEvent d).events.held = d.events.held ∧ (loseEvent d).events.seq = d.events.seq := by
  unfold loseEvent
  dsimp only
  split <;> simp only [setCounter_frame, noteLoss_frame, and_self]
/-- Objects that loseEvent leaves unchanged. -/
@[simp] theorem loseEvent_others  :
    (loseEvent d).queue = d.queue ∧ (loseEvent d).qrun = d.qrun ∧ (loseEvent d).fence = d.fence ∧
    (loseEvent d).task = d.task ∧ (loseEvent d).image = d.image ∧ (loseEvent d).core = d.core ∧
    (loseEvent d).slot = d.slot ∧ (loseEvent d).slotRun = d.slotRun ∧ (loseEvent d).side = d.side ∧
    (loseEvent d).chan = d.chan ∧ (loseEvent d).ens = d.ens ∧ (loseEvent d).sgroup = d.sgroup ∧
    (loseEvent d).session = d.session ∧ (loseEvent d).table = d.table ∧ (loseEvent d).engine = d.engine ∧
    (loseEvent d).link = d.link ∧ (loseEvent d).group = d.group ∧ (loseEvent d).port = d.port ∧
    (loseEvent d).serv = d.serv ∧ (loseEvent d).row = d.row ∧ (loseEvent d).sensor = d.sensor ∧
    (loseEvent d).stash = d.stash := by
  have h := loseEvent_frame d
  exact ⟨queue_congr (by simp only [h]), qrun_congr (by simp only [h]), fence_congr (by simp only [h]), task_congr (by simp only [h]), image_congr (by simp only [h]), core_congr (by simp only [h]), slot_congr (by simp only [h]), slotRun_congr (by simp only [h]), side_congr (by simp only [h]), chan_congr (by simp only [h]), ens_congr (by simp only [h]), sgroup_congr (by simp only [h]), session_congr (by simp only [h]), table_congr (by simp only [h]), engine_congr (by simp only [h]), link_congr (by simp only [h]), group_congr (by simp only [h]), port_congr (by simp only [h]), serv_congr (by simp only [h]), row_congr (by simp only [h]), sensor_congr (by simp only [h]), stash_congr (by simp only [h])⟩

/-- What takeLost leaves unchanged. -/
@[simp] theorem takeLost_frame  :
    (takeLost d).out = d.out ∧ (takeLost d).time = d.time ∧ (takeLost d).mode = d.mode ∧ (takeLost d).power = d.power ∧
    (takeLost d).health = d.health ∧ (takeLost d).start = d.start ∧ (takeLost d).ident = d.ident ∧
    (takeLost d).owl = d.owl ∧ (takeLost d).fe = d.fe ∧ (takeLost d).mesh = d.mesh ∧ (takeLost d).streams = d.streams ∧
    (takeLost d).mem = d.mem ∧ (takeLost d).scoring = d.scoring ∧ (takeLost d).sessions = d.sessions ∧
    (takeLost d).retries = d.retries ∧ (takeLost d).embed = d.embed ∧ (takeLost d).fabric = d.fabric ∧
    (takeLost d).service = d.service ∧ (takeLost d).journal = d.journal ∧ (takeLost d).counters = d.counters ∧
    (takeLost d).cycle = d.cycle ∧ (takeLost d).free = d.free ∧ (takeLost d).events.base = d.events.base ∧
    (takeLost d).events.enable = d.events.enable ∧ (takeLost d).events.log2 = d.events.log2 ∧
    (takeLost d).events.classEn = d.events.classEn ∧ (takeLost d).events.producer = d.events.producer ∧
    (takeLost d).events.consumer = d.events.consumer ∧ (takeLost d).events.badBase = d.events.badBase ∧
    (takeLost d).events.badConsumer = d.events.badConsumer := by
  unfold takeLost
  split <;> simp only [holdEvent_frame, and_self]
/-- Objects that takeLost leaves unchanged. -/
@[simp] theorem takeLost_others  :
    (takeLost d).queue = d.queue ∧ (takeLost d).qrun = d.qrun ∧ (takeLost d).fence = d.fence ∧ (takeLost d).task = d.task ∧
    (takeLost d).image = d.image ∧ (takeLost d).core = d.core ∧ (takeLost d).slot = d.slot ∧
    (takeLost d).slotRun = d.slotRun ∧ (takeLost d).side = d.side ∧ (takeLost d).chan = d.chan ∧ (takeLost d).ens = d.ens ∧
    (takeLost d).sgroup = d.sgroup ∧ (takeLost d).session = d.session ∧ (takeLost d).table = d.table ∧
    (takeLost d).engine = d.engine ∧ (takeLost d).link = d.link ∧ (takeLost d).group = d.group ∧
    (takeLost d).port = d.port ∧ (takeLost d).serv = d.serv ∧ (takeLost d).row = d.row ∧ (takeLost d).sensor = d.sensor ∧
    (takeLost d).stash = d.stash ∧ (takeLost d).counter = d.counter := by
  have h := takeLost_frame d
  exact ⟨queue_congr (by simp only [h]), qrun_congr (by simp only [h]), fence_congr (by simp only [h]), task_congr (by simp only [h]), image_congr (by simp only [h]), core_congr (by simp only [h]), slot_congr (by simp only [h]), slotRun_congr (by simp only [h]), side_congr (by simp only [h]), chan_congr (by simp only [h]), ens_congr (by simp only [h]), sgroup_congr (by simp only [h]), session_congr (by simp only [h]), table_congr (by simp only [h]), engine_congr (by simp only [h]), link_congr (by simp only [h]), group_congr (by simp only [h]), port_congr (by simp only [h]), serv_congr (by simp only [h]), row_congr (by simp only [h]), sensor_congr (by simp only [h]), stash_congr (by simp only [h]), counter_congr (by simp only [h])⟩

/-- What raiseEvent leaves unchanged. -/
@[simp] theorem raiseEvent_frame (code source : Nat) (detail : List Byte) :
    (raiseEvent code source detail d).out = d.out ∧ (raiseEvent code source detail d).time = d.time ∧
    (raiseEvent code source detail d).power = d.power ∧ (raiseEvent code source detail d).health = d.health ∧
    (raiseEvent code source detail d).start = d.start ∧ (raiseEvent code source detail d).ident = d.ident ∧
    (raiseEvent code source detail d).owl = d.owl ∧ (raiseEvent code source detail d).fe = d.fe ∧
    (raiseEvent code source detail d).mesh = d.mesh ∧ (raiseEvent code source detail d).streams = d.streams ∧
    (raiseEvent code source detail d).mem = d.mem ∧ (raiseEvent code source detail d).scoring = d.scoring ∧
    (raiseEvent code source detail d).sessions = d.sessions ∧ (raiseEvent code source detail d).retries = d.retries ∧
    (raiseEvent code source detail d).embed = d.embed ∧ (raiseEvent code source detail d).fabric = d.fabric ∧
    (raiseEvent code source detail d).service = d.service ∧ (raiseEvent code source detail d).journal = d.journal ∧
    (raiseEvent code source detail d).free = d.free ∧ (raiseEvent code source detail d).cycle.zeroed = d.cycle.zeroed ∧
    (raiseEvent code source detail d).cycle.rows = d.cycle.rows ∧ (raiseEvent code source detail d).mode.det = d.mode.det ∧
    (raiseEvent code source detail d).mode.refused = d.mode.refused ∧
    (raiseEvent code source detail d).mode.queueCtl = d.mode.queueCtl ∧
    (raiseEvent code source detail d).mode.queueSelect = d.mode.queueSelect ∧
    (raiseEvent code source detail d).mode.traceCtl = d.mode.traceCtl ∧
    (raiseEvent code source detail d).mode.pairs = d.mode.pairs ∧
    (raiseEvent code source detail d).mode.mismatch = d.mode.mismatch ∧
    (raiseEvent code source detail d).mode.lastOffset = d.mode.lastOffset ∧
    (raiseEvent code source detail d).mode.bar4Base = d.mode.bar4Base ∧
    (raiseEvent code source detail d).mode.bar4Log2 = d.mode.bar4Log2 ∧
    (raiseEvent code source detail d).mode.d3hot = d.mode.d3hot ∧
    (raiseEvent code source detail d).mode.msixTable = d.mode.msixTable ∧
    (raiseEvent code source detail d).mode.msixPending = d.mode.msixPending ∧
    (raiseEvent code source detail d).events.base = d.events.base ∧
    (raiseEvent code source detail d).events.enable = d.events.enable ∧
    (raiseEvent code source detail d).events.log2 = d.events.log2 ∧
    (raiseEvent code source detail d).events.classEn = d.events.classEn ∧
    (raiseEvent code source detail d).events.producer = d.events.producer ∧
    (raiseEvent code source detail d).events.consumer = d.events.consumer ∧
    (raiseEvent code source detail d).events.badBase = d.events.badBase ∧
    (raiseEvent code source detail d).events.badConsumer = d.events.badConsumer := by
  unfold raiseEvent
  dsimp only
  split
  · split <;> simp only [holdEvent_frame, loseEvent_frame, takeLost_frame, eventVectors_frame, and_self]
  · simp only [eventVectors_frame, and_self]
/-- Objects that raiseEvent leaves unchanged. -/
@[simp] theorem raiseEvent_others (code source : Nat) (detail : List Byte) :
    (raiseEvent code source detail d).queue = d.queue ∧ (raiseEvent code source detail d).qrun = d.qrun ∧
    (raiseEvent code source detail d).fence = d.fence ∧ (raiseEvent code source detail d).task = d.task ∧
    (raiseEvent code source detail d).image = d.image ∧ (raiseEvent code source detail d).core = d.core ∧
    (raiseEvent code source detail d).slot = d.slot ∧ (raiseEvent code source detail d).slotRun = d.slotRun ∧
    (raiseEvent code source detail d).side = d.side ∧ (raiseEvent code source detail d).chan = d.chan ∧
    (raiseEvent code source detail d).ens = d.ens ∧ (raiseEvent code source detail d).sgroup = d.sgroup ∧
    (raiseEvent code source detail d).session = d.session ∧ (raiseEvent code source detail d).table = d.table ∧
    (raiseEvent code source detail d).engine = d.engine ∧ (raiseEvent code source detail d).link = d.link ∧
    (raiseEvent code source detail d).group = d.group ∧ (raiseEvent code source detail d).port = d.port ∧
    (raiseEvent code source detail d).serv = d.serv ∧ (raiseEvent code source detail d).row = d.row ∧
    (raiseEvent code source detail d).sensor = d.sensor ∧ (raiseEvent code source detail d).stash = d.stash := by
  have h := raiseEvent_frame d code source detail
  exact ⟨queue_congr (by simp only [h]), qrun_congr (by simp only [h]), fence_congr (by simp only [h]), task_congr (by simp only [h]), image_congr (by simp only [h]), core_congr (by simp only [h]), slot_congr (by simp only [h]), slotRun_congr (by simp only [h]), side_congr (by simp only [h]), chan_congr (by simp only [h]), ens_congr (by simp only [h]), sgroup_congr (by simp only [h]), session_congr (by simp only [h]), table_congr (by simp only [h]), engine_congr (by simp only [h]), link_congr (by simp only [h]), group_congr (by simp only [h]), port_congr (by simp only [h]), serv_congr (by simp only [h]), row_congr (by simp only [h]), sensor_congr (by simp only [h]), stash_congr (by simp only [h])⟩

/-- What noteWrap leaves unchanged. -/
@[simp] theorem noteWrap_frame (o n : Nat) :
    (noteWrap o n d).out = d.out ∧ (noteWrap o n d).time = d.time ∧ (noteWrap o n d).mode = d.mode ∧
    (noteWrap o n d).events = d.events ∧ (noteWrap o n d).power = d.power ∧ (noteWrap o n d).health = d.health ∧
    (noteWrap o n d).start = d.start ∧ (noteWrap o n d).ident = d.ident ∧ (noteWrap o n d).owl = d.owl ∧
    (noteWrap o n d).fe = d.fe ∧ (noteWrap o n d).mesh = d.mesh ∧ (noteWrap o n d).streams = d.streams ∧
    (noteWrap o n d).mem = d.mem ∧ (noteWrap o n d).scoring = d.scoring ∧ (noteWrap o n d).sessions = d.sessions ∧
    (noteWrap o n d).retries = d.retries ∧ (noteWrap o n d).embed = d.embed ∧ (noteWrap o n d).fabric = d.fabric ∧
    (noteWrap o n d).service = d.service ∧ (noteWrap o n d).journal = d.journal ∧ (noteWrap o n d).counters = d.counters ∧
    (noteWrap o n d).free = d.free ∧ (noteWrap o n d).cycle.zeroed = d.cycle.zeroed ∧
    (noteWrap o n d).cycle.rows = d.cycle.rows ∧ (noteWrap o n d).cycle.sets = d.cycle.sets := by
  unfold noteWrap
  split <;> simp only [and_self]
/-- Objects that noteWrap leaves unchanged. -/
@[simp] theorem noteWrap_others (o n : Nat) :
    (noteWrap o n d).queue = d.queue ∧ (noteWrap o n d).qrun = d.qrun ∧ (noteWrap o n d).fence = d.fence ∧
    (noteWrap o n d).task = d.task ∧ (noteWrap o n d).image = d.image ∧ (noteWrap o n d).core = d.core ∧
    (noteWrap o n d).slot = d.slot ∧ (noteWrap o n d).slotRun = d.slotRun ∧ (noteWrap o n d).side = d.side ∧
    (noteWrap o n d).chan = d.chan ∧ (noteWrap o n d).ens = d.ens ∧ (noteWrap o n d).sgroup = d.sgroup ∧
    (noteWrap o n d).session = d.session ∧ (noteWrap o n d).table = d.table ∧ (noteWrap o n d).engine = d.engine ∧
    (noteWrap o n d).link = d.link ∧ (noteWrap o n d).group = d.group ∧ (noteWrap o n d).port = d.port ∧
    (noteWrap o n d).serv = d.serv ∧ (noteWrap o n d).row = d.row ∧ (noteWrap o n d).sensor = d.sensor ∧
    (noteWrap o n d).stash = d.stash ∧ (noteWrap o n d).counter = d.counter := by
  have h := noteWrap_frame d o n
  exact ⟨queue_congr (by simp only [h]), qrun_congr (by simp only [h]), fence_congr (by simp only [h]), task_congr (by simp only [h]), image_congr (by simp only [h]), core_congr (by simp only [h]), slot_congr (by simp only [h]), slotRun_congr (by simp only [h]), side_congr (by simp only [h]), chan_congr (by simp only [h]), ens_congr (by simp only [h]), sgroup_congr (by simp only [h]), session_congr (by simp only [h]), table_congr (by simp only [h]), engine_congr (by simp only [h]), link_congr (by simp only [h]), group_congr (by simp only [h]), port_congr (by simp only [h]), serv_congr (by simp only [h]), row_congr (by simp only [h]), sensor_congr (by simp only [h]), stash_congr (by simp only [h]), counter_congr (by simp only [h])⟩

/-- What bump leaves unchanged. -/
@[simp] theorem bump_frame (o n : Nat) :
    (bump o n d).out = d.out ∧ (bump o n d).time = d.time ∧ (bump o n d).power = d.power ∧ (bump o n d).health = d.health ∧
    (bump o n d).start = d.start ∧ (bump o n d).ident = d.ident ∧ (bump o n d).owl = d.owl ∧ (bump o n d).fe = d.fe ∧
    (bump o n d).mesh = d.mesh ∧ (bump o n d).streams = d.streams ∧ (bump o n d).mem = d.mem ∧
    (bump o n d).scoring = d.scoring ∧ (bump o n d).sessions = d.sessions ∧ (bump o n d).retries = d.retries ∧
    (bump o n d).embed = d.embed ∧ (bump o n d).fabric = d.fabric ∧ (bump o n d).service = d.service ∧
    (bump o n d).journal = d.journal ∧ (bump o n d).free = d.free ∧ (bump o n d).cycle.zeroed = d.cycle.zeroed ∧
    (bump o n d).cycle.rows = d.cycle.rows ∧ (bump o n d).mode.det = d.mode.det ∧
    (bump o n d).mode.refused = d.mode.refused ∧ (bump o n d).mode.queueCtl = d.mode.queueCtl ∧
    (bump o n d).mode.queueSelect = d.mode.queueSelect ∧ (bump o n d).mode.traceCtl = d.mode.traceCtl ∧
    (bump o n d).mode.pairs = d.mode.pairs ∧ (bump o n d).mode.mismatch = d.mode.mismatch ∧
    (bump o n d).mode.lastOffset = d.mode.lastOffset ∧ (bump o n d).mode.bar4Base = d.mode.bar4Base ∧
    (bump o n d).mode.bar4Log2 = d.mode.bar4Log2 ∧ (bump o n d).mode.d3hot = d.mode.d3hot ∧
    (bump o n d).mode.msixTable = d.mode.msixTable ∧ (bump o n d).mode.msixPending = d.mode.msixPending ∧
    (bump o n d).events.base = d.events.base ∧ (bump o n d).events.enable = d.events.enable ∧
    (bump o n d).events.log2 = d.events.log2 ∧ (bump o n d).events.classEn = d.events.classEn ∧
    (bump o n d).events.producer = d.events.producer ∧ (bump o n d).events.consumer = d.events.consumer ∧
    (bump o n d).events.badBase = d.events.badBase ∧ (bump o n d).events.badConsumer = d.events.badConsumer := by
  unfold bump
  dsimp only
  split <;> simp only [raiseEvent_frame, setCounter_frame, noteWrap_frame, and_self]
/-- Objects that bump leaves unchanged. -/
@[simp] theorem bump_others (o n : Nat) :
    (bump o n d).queue = d.queue ∧ (bump o n d).qrun = d.qrun ∧ (bump o n d).fence = d.fence ∧ (bump o n d).task = d.task ∧
    (bump o n d).image = d.image ∧ (bump o n d).core = d.core ∧ (bump o n d).slot = d.slot ∧
    (bump o n d).slotRun = d.slotRun ∧ (bump o n d).side = d.side ∧ (bump o n d).chan = d.chan ∧ (bump o n d).ens = d.ens ∧
    (bump o n d).sgroup = d.sgroup ∧ (bump o n d).session = d.session ∧ (bump o n d).table = d.table ∧
    (bump o n d).engine = d.engine ∧ (bump o n d).link = d.link ∧ (bump o n d).group = d.group ∧
    (bump o n d).port = d.port ∧ (bump o n d).serv = d.serv ∧ (bump o n d).row = d.row ∧ (bump o n d).sensor = d.sensor ∧
    (bump o n d).stash = d.stash := by
  have h := bump_frame d o n
  exact ⟨queue_congr (by simp only [h]), qrun_congr (by simp only [h]), fence_congr (by simp only [h]), task_congr (by simp only [h]), image_congr (by simp only [h]), core_congr (by simp only [h]), slot_congr (by simp only [h]), slotRun_congr (by simp only [h]), side_congr (by simp only [h]), chan_congr (by simp only [h]), ens_congr (by simp only [h]), sgroup_congr (by simp only [h]), session_congr (by simp only [h]), table_congr (by simp only [h]), engine_congr (by simp only [h]), link_congr (by simp only [h]), group_congr (by simp only [h]), port_congr (by simp only [h]), serv_congr (by simp only [h]), row_congr (by simp only [h]), sensor_congr (by simp only [h]), stash_congr (by simp only [h])⟩

/-- What writeCounter leaves unchanged. -/
@[simp] theorem writeCounter_frame (o v : Nat) :
    (writeCounter o v d).out = d.out ∧ (writeCounter o v d).time = d.time ∧ (writeCounter o v d).mode = d.mode ∧
    (writeCounter o v d).events = d.events ∧ (writeCounter o v d).power = d.power ∧
    (writeCounter o v d).health = d.health ∧ (writeCounter o v d).start = d.start ∧ (writeCounter o v d).ident = d.ident ∧
    (writeCounter o v d).owl = d.owl ∧ (writeCounter o v d).fe = d.fe ∧ (writeCounter o v d).mesh = d.mesh ∧
    (writeCounter o v d).streams = d.streams ∧ (writeCounter o v d).mem = d.mem ∧
    (writeCounter o v d).scoring = d.scoring ∧ (writeCounter o v d).sessions = d.sessions ∧
    (writeCounter o v d).retries = d.retries ∧ (writeCounter o v d).embed = d.embed ∧
    (writeCounter o v d).fabric = d.fabric ∧ (writeCounter o v d).service = d.service ∧
    (writeCounter o v d).journal = d.journal ∧ (writeCounter o v d).free = d.free ∧
    (writeCounter o v d).cycle.wrapped = d.cycle.wrapped ∧ (writeCounter o v d).cycle.rows = d.cycle.rows ∧
    (writeCounter o v d).cycle.sets = d.cycle.sets := by
  unfold writeCounter
  split
  · split <;> simp only [setCounter_frame, and_self]
  · dsimp only; simp only [setCounter_frame, and_self]
  · simp only [and_self]
/-- Objects that writeCounter leaves unchanged. -/
@[simp] theorem writeCounter_others (o v : Nat) :
    (writeCounter o v d).queue = d.queue ∧ (writeCounter o v d).qrun = d.qrun ∧ (writeCounter o v d).fence = d.fence ∧
    (writeCounter o v d).task = d.task ∧ (writeCounter o v d).image = d.image ∧ (writeCounter o v d).core = d.core ∧
    (writeCounter o v d).slot = d.slot ∧ (writeCounter o v d).slotRun = d.slotRun ∧ (writeCounter o v d).side = d.side ∧
    (writeCounter o v d).chan = d.chan ∧ (writeCounter o v d).ens = d.ens ∧ (writeCounter o v d).sgroup = d.sgroup ∧
    (writeCounter o v d).session = d.session ∧ (writeCounter o v d).table = d.table ∧
    (writeCounter o v d).engine = d.engine ∧ (writeCounter o v d).link = d.link ∧ (writeCounter o v d).group = d.group ∧
    (writeCounter o v d).port = d.port ∧ (writeCounter o v d).serv = d.serv ∧ (writeCounter o v d).row = d.row ∧
    (writeCounter o v d).sensor = d.sensor ∧ (writeCounter o v d).stash = d.stash := by
  have h := writeCounter_frame d o v
  exact ⟨queue_congr (by simp only [h]), qrun_congr (by simp only [h]), fence_congr (by simp only [h]), task_congr (by simp only [h]), image_congr (by simp only [h]), core_congr (by simp only [h]), slot_congr (by simp only [h]), slotRun_congr (by simp only [h]), side_congr (by simp only [h]), chan_congr (by simp only [h]), ens_congr (by simp only [h]), sgroup_congr (by simp only [h]), session_congr (by simp only [h]), table_congr (by simp only [h]), engine_congr (by simp only [h]), link_congr (by simp only [h]), group_congr (by simp only [h]), port_congr (by simp only [h]), serv_congr (by simp only [h]), row_congr (by simp only [h]), sensor_congr (by simp only [h]), stash_congr (by simp only [h])⟩

/-- What hostWrite leaves unchanged. -/
@[simp] theorem hostWrite_frame (a : Nat) (bytes : List Byte) (p : Bool) :
    (hostWrite a bytes p d).time = d.time ∧ (hostWrite a bytes p d).mode = d.mode ∧
    (hostWrite a bytes p d).events = d.events ∧ (hostWrite a bytes p d).power = d.power ∧
    (hostWrite a bytes p d).health = d.health ∧ (hostWrite a bytes p d).start = d.start ∧
    (hostWrite a bytes p d).ident = d.ident ∧ (hostWrite a bytes p d).owl = d.owl ∧ (hostWrite a bytes p d).fe = d.fe ∧
    (hostWrite a bytes p d).mesh = d.mesh ∧ (hostWrite a bytes p d).streams = d.streams ∧
    (hostWrite a bytes p d).mem = d.mem ∧ (hostWrite a bytes p d).scoring = d.scoring ∧
    (hostWrite a bytes p d).sessions = d.sessions ∧ (hostWrite a bytes p d).retries = d.retries ∧
    (hostWrite a bytes p d).embed = d.embed ∧ (hostWrite a bytes p d).fabric = d.fabric ∧
    (hostWrite a bytes p d).service = d.service ∧ (hostWrite a bytes p d).journal = d.journal ∧
    (hostWrite a bytes p d).counters = d.counters ∧ (hostWrite a bytes p d).cycle = d.cycle ∧
    (hostWrite a bytes p d).free = d.free ∧ (hostWrite a bytes p d).out.completions = d.out.completions ∧
    (hostWrite a bytes p d).out.frames = d.out.frames ∧ (hostWrite a bytes p d).out.flits = d.out.flits ∧
    (hostWrite a bytes p d).out.controls = d.out.controls ∧ (hostWrite a bytes p d).out.msix = d.out.msix ∧
    (hostWrite a bytes p d).out.mgmt = d.out.mgmt ∧ (hostWrite a bytes p d).out.hostReads = d.out.hostReads ∧
    (hostWrite a bytes p d).out.aer = d.out.aer := by
  unfold hostWrite
  dsimp only
  split; · simp only [and_self]
  split <;> simp only [and_self]
/-- Objects that hostWrite leaves unchanged. -/
@[simp] theorem hostWrite_others (a : Nat) (bytes : List Byte) (p : Bool) :
    (hostWrite a bytes p d).queue = d.queue ∧ (hostWrite a bytes p d).qrun = d.qrun ∧
    (hostWrite a bytes p d).fence = d.fence ∧ (hostWrite a bytes p d).task = d.task ∧
    (hostWrite a bytes p d).image = d.image ∧ (hostWrite a bytes p d).core = d.core ∧
    (hostWrite a bytes p d).slot = d.slot ∧ (hostWrite a bytes p d).slotRun = d.slotRun ∧
    (hostWrite a bytes p d).side = d.side ∧ (hostWrite a bytes p d).chan = d.chan ∧ (hostWrite a bytes p d).ens = d.ens ∧
    (hostWrite a bytes p d).sgroup = d.sgroup ∧ (hostWrite a bytes p d).session = d.session ∧
    (hostWrite a bytes p d).table = d.table ∧ (hostWrite a bytes p d).engine = d.engine ∧
    (hostWrite a bytes p d).link = d.link ∧ (hostWrite a bytes p d).group = d.group ∧
    (hostWrite a bytes p d).port = d.port ∧ (hostWrite a bytes p d).serv = d.serv ∧ (hostWrite a bytes p d).row = d.row ∧
    (hostWrite a bytes p d).sensor = d.sensor ∧ (hostWrite a bytes p d).stash = d.stash ∧
    (hostWrite a bytes p d).counter = d.counter := by
  have h := hostWrite_frame d a bytes p
  exact ⟨queue_congr (by simp only [h]), qrun_congr (by simp only [h]), fence_congr (by simp only [h]), task_congr (by simp only [h]), image_congr (by simp only [h]), core_congr (by simp only [h]), slot_congr (by simp only [h]), slotRun_congr (by simp only [h]), side_congr (by simp only [h]), chan_congr (by simp only [h]), ens_congr (by simp only [h]), sgroup_congr (by simp only [h]), session_congr (by simp only [h]), table_congr (by simp only [h]), engine_congr (by simp only [h]), link_congr (by simp only [h]), group_congr (by simp only [h]), port_congr (by simp only [h]), serv_congr (by simp only [h]), row_congr (by simp only [h]), sensor_congr (by simp only [h]), stash_congr (by simp only [h]), counter_congr (by simp only [h])⟩

/-- What hostRead leaves unchanged. -/
@[simp] theorem hostRead_frame (tag a n : Nat) :
    (hostRead tag a n d).time = d.time ∧ (hostRead tag a n d).mode = d.mode ∧ (hostRead tag a n d).events = d.events ∧
    (hostRead tag a n d).power = d.power ∧ (hostRead tag a n d).health = d.health ∧ (hostRead tag a n d).start = d.start ∧
    (hostRead tag a n d).ident = d.ident ∧ (hostRead tag a n d).owl = d.owl ∧ (hostRead tag a n d).fe = d.fe ∧
    (hostRead tag a n d).mesh = d.mesh ∧ (hostRead tag a n d).streams = d.streams ∧ (hostRead tag a n d).mem = d.mem ∧
    (hostRead tag a n d).scoring = d.scoring ∧ (hostRead tag a n d).sessions = d.sessions ∧
    (hostRead tag a n d).retries = d.retries ∧ (hostRead tag a n d).embed = d.embed ∧
    (hostRead tag a n d).fabric = d.fabric ∧ (hostRead tag a n d).service = d.service ∧
    (hostRead tag a n d).journal = d.journal ∧ (hostRead tag a n d).counters = d.counters ∧
    (hostRead tag a n d).cycle = d.cycle ∧ (hostRead tag a n d).free = d.free ∧
    (hostRead tag a n d).out.hostWrites = d.out.hostWrites ∧ (hostRead tag a n d).out.waiting = d.out.waiting ∧
    (hostRead tag a n d).out.completions = d.out.completions ∧ (hostRead tag a n d).out.frames = d.out.frames ∧
    (hostRead tag a n d).out.flits = d.out.flits ∧ (hostRead tag a n d).out.controls = d.out.controls ∧
    (hostRead tag a n d).out.msix = d.out.msix ∧ (hostRead tag a n d).out.mgmt = d.out.mgmt ∧
    (hostRead tag a n d).out.aer = d.out.aer := by
  simp only [hostRead, and_self]
/-- Objects that hostRead leaves unchanged. -/
@[simp] theorem hostRead_others (tag a n : Nat) :
    (hostRead tag a n d).queue = d.queue ∧ (hostRead tag a n d).qrun = d.qrun ∧ (hostRead tag a n d).fence = d.fence ∧
    (hostRead tag a n d).task = d.task ∧ (hostRead tag a n d).image = d.image ∧ (hostRead tag a n d).core = d.core ∧
    (hostRead tag a n d).slot = d.slot ∧ (hostRead tag a n d).slotRun = d.slotRun ∧ (hostRead tag a n d).side = d.side ∧
    (hostRead tag a n d).chan = d.chan ∧ (hostRead tag a n d).ens = d.ens ∧ (hostRead tag a n d).sgroup = d.sgroup ∧
    (hostRead tag a n d).session = d.session ∧ (hostRead tag a n d).table = d.table ∧
    (hostRead tag a n d).engine = d.engine ∧ (hostRead tag a n d).link = d.link ∧ (hostRead tag a n d).group = d.group ∧
    (hostRead tag a n d).port = d.port ∧ (hostRead tag a n d).serv = d.serv ∧ (hostRead tag a n d).row = d.row ∧
    (hostRead tag a n d).sensor = d.sensor ∧ (hostRead tag a n d).stash = d.stash ∧ (hostRead tag a n d).counter = d.counter := by
  have h := hostRead_frame d tag a n
  exact ⟨queue_congr (by simp only [h]), qrun_congr (by simp only [h]), fence_congr (by simp only [h]), task_congr (by simp only [h]), image_congr (by simp only [h]), core_congr (by simp only [h]), slot_congr (by simp only [h]), slotRun_congr (by simp only [h]), side_congr (by simp only [h]), chan_congr (by simp only [h]), ens_congr (by simp only [h]), sgroup_congr (by simp only [h]), session_congr (by simp only [h]), table_congr (by simp only [h]), engine_congr (by simp only [h]), link_congr (by simp only [h]), group_congr (by simp only [h]), port_congr (by simp only [h]), serv_congr (by simp only [h]), row_congr (by simp only [h]), sensor_congr (by simp only [h]), stash_congr (by simp only [h]), counter_congr (by simp only [h])⟩

/-- What aerReport leaves unchanged. -/
@[simp] theorem aerReport_frame (n : Nat) :
    (aerReport n d).time = d.time ∧ (aerReport n d).mode = d.mode ∧ (aerReport n d).events = d.events ∧
    (aerReport n d).power = d.power ∧ (aerReport n d).health = d.health ∧ (aerReport n d).start = d.start ∧
    (aerReport n d).ident = d.ident ∧ (aerReport n d).owl = d.owl ∧ (aerReport n d).fe = d.fe ∧
    (aerReport n d).mesh = d.mesh ∧ (aerReport n d).streams = d.streams ∧ (aerReport n d).mem = d.mem ∧
    (aerReport n d).scoring = d.scoring ∧ (aerReport n d).sessions = d.sessions ∧ (aerReport n d).retries = d.retries ∧
    (aerReport n d).embed = d.embed ∧ (aerReport n d).fabric = d.fabric ∧ (aerReport n d).service = d.service ∧
    (aerReport n d).journal = d.journal ∧ (aerReport n d).counters = d.counters ∧ (aerReport n d).cycle = d.cycle ∧
    (aerReport n d).free = d.free ∧ (aerReport n d).out.hostWrites = d.out.hostWrites ∧
    (aerReport n d).out.waiting = d.out.waiting ∧ (aerReport n d).out.completions = d.out.completions ∧
    (aerReport n d).out.frames = d.out.frames ∧ (aerReport n d).out.flits = d.out.flits ∧
    (aerReport n d).out.controls = d.out.controls ∧ (aerReport n d).out.msix = d.out.msix ∧
    (aerReport n d).out.mgmt = d.out.mgmt ∧ (aerReport n d).out.hostReads = d.out.hostReads := by
  simp only [aerReport, and_self]
/-- Objects that aerReport leaves unchanged. -/
@[simp] theorem aerReport_others (n : Nat) :
    (aerReport n d).queue = d.queue ∧ (aerReport n d).qrun = d.qrun ∧ (aerReport n d).fence = d.fence ∧
    (aerReport n d).task = d.task ∧ (aerReport n d).image = d.image ∧ (aerReport n d).core = d.core ∧
    (aerReport n d).slot = d.slot ∧ (aerReport n d).slotRun = d.slotRun ∧ (aerReport n d).side = d.side ∧
    (aerReport n d).chan = d.chan ∧ (aerReport n d).ens = d.ens ∧ (aerReport n d).sgroup = d.sgroup ∧
    (aerReport n d).session = d.session ∧ (aerReport n d).table = d.table ∧ (aerReport n d).engine = d.engine ∧
    (aerReport n d).link = d.link ∧ (aerReport n d).group = d.group ∧ (aerReport n d).port = d.port ∧
    (aerReport n d).serv = d.serv ∧ (aerReport n d).row = d.row ∧ (aerReport n d).sensor = d.sensor ∧
    (aerReport n d).stash = d.stash ∧ (aerReport n d).counter = d.counter := by
  have h := aerReport_frame d n
  exact ⟨queue_congr (by simp only [h]), qrun_congr (by simp only [h]), fence_congr (by simp only [h]), task_congr (by simp only [h]), image_congr (by simp only [h]), core_congr (by simp only [h]), slot_congr (by simp only [h]), slotRun_congr (by simp only [h]), side_congr (by simp only [h]), chan_congr (by simp only [h]), ens_congr (by simp only [h]), sgroup_congr (by simp only [h]), session_congr (by simp only [h]), table_congr (by simp only [h]), engine_congr (by simp only [h]), link_congr (by simp only [h]), group_congr (by simp only [h]), port_congr (by simp only [h]), serv_congr (by simp only [h]), row_congr (by simp only [h]), sensor_congr (by simp only [h]), stash_congr (by simp only [h]), counter_congr (by simp only [h])⟩

/-- What setCells leaves unchanged. -/
@[simp] theorem setCells_frame (a : Nat) (bytes : List Byte) :
    (setCells a bytes d).out = d.out ∧ (setCells a bytes d).time = d.time ∧ (setCells a bytes d).mode = d.mode ∧
    (setCells a bytes d).events = d.events ∧ (setCells a bytes d).power = d.power ∧
    (setCells a bytes d).health = d.health ∧ (setCells a bytes d).start = d.start ∧ (setCells a bytes d).ident = d.ident ∧
    (setCells a bytes d).owl = d.owl ∧ (setCells a bytes d).fe = d.fe ∧ (setCells a bytes d).mesh = d.mesh ∧
    (setCells a bytes d).streams = d.streams ∧ (setCells a bytes d).scoring = d.scoring ∧
    (setCells a bytes d).sessions = d.sessions ∧ (setCells a bytes d).retries = d.retries ∧
    (setCells a bytes d).embed = d.embed ∧ (setCells a bytes d).fabric = d.fabric ∧
    (setCells a bytes d).service = d.service ∧ (setCells a bytes d).journal = d.journal ∧
    (setCells a bytes d).counters = d.counters ∧ (setCells a bytes d).cycle = d.cycle ∧
    (setCells a bytes d).free = d.free ∧ (setCells a bytes d).mem.poison = d.mem.poison ∧
    (setCells a bytes d).mem.channels = d.mem.channels ∧ (setCells a bytes d).mem.scrubFrame = d.mem.scrubFrame ∧
    (setCells a bytes d).mem.scrubActive = d.mem.scrubActive ∧ (setCells a bytes d).mem.selfRefresh = d.mem.selfRefresh ∧
    (setCells a bytes d).mem.hot = d.mem.hot ∧ (setCells a bytes d).mem.logNext = d.mem.logNext ∧
    (setCells a bytes d).mem.logWrapped = d.mem.logWrapped ∧ (setCells a bytes d).mem.logLost = d.mem.logLost ∧
    (setCells a bytes d).mem.allocs = d.mem.allocs ∧ (setCells a bytes d).mem.windows = d.mem.windows := by
  simp only [setCells, and_self]
/-- Objects that setCells leaves unchanged. -/
@[simp] theorem setCells_others (a : Nat) (bytes : List Byte) :
    (setCells a bytes d).queue = d.queue ∧ (setCells a bytes d).qrun = d.qrun ∧ (setCells a bytes d).fence = d.fence ∧
    (setCells a bytes d).task = d.task ∧ (setCells a bytes d).image = d.image ∧ (setCells a bytes d).core = d.core ∧
    (setCells a bytes d).slot = d.slot ∧ (setCells a bytes d).slotRun = d.slotRun ∧ (setCells a bytes d).side = d.side ∧
    (setCells a bytes d).chan = d.chan ∧ (setCells a bytes d).ens = d.ens ∧ (setCells a bytes d).sgroup = d.sgroup ∧
    (setCells a bytes d).session = d.session ∧ (setCells a bytes d).table = d.table ∧
    (setCells a bytes d).engine = d.engine ∧ (setCells a bytes d).link = d.link ∧ (setCells a bytes d).group = d.group ∧
    (setCells a bytes d).port = d.port ∧ (setCells a bytes d).serv = d.serv ∧ (setCells a bytes d).row = d.row ∧
    (setCells a bytes d).sensor = d.sensor ∧ (setCells a bytes d).stash = d.stash ∧ (setCells a bytes d).counter = d.counter := by
  have h := setCells_frame d a bytes
  exact ⟨queue_congr (by simp only [h]), qrun_congr (by simp only [h]), fence_congr (by simp only [h]), task_congr (by simp only [h]), image_congr (by simp only [h]), core_congr (by simp only [h]), slot_congr (by simp only [h]), slotRun_congr (by simp only [h]), side_congr (by simp only [h]), chan_congr (by simp only [h]), ens_congr (by simp only [h]), sgroup_congr (by simp only [h]), session_congr (by simp only [h]), table_congr (by simp only [h]), engine_congr (by simp only [h]), link_congr (by simp only [h]), group_congr (by simp only [h]), port_congr (by simp only [h]), serv_congr (by simp only [h]), row_congr (by simp only [h]), sensor_congr (by simp only [h]), stash_congr (by simp only [h]), counter_congr (by simp only [h])⟩

/-- What setPoison leaves unchanged. -/
@[simp] theorem setPoison_frame (g : Nat) (v : Bool) :
    (setPoison g v d).out = d.out ∧ (setPoison g v d).time = d.time ∧ (setPoison g v d).mode = d.mode ∧
    (setPoison g v d).events = d.events ∧ (setPoison g v d).power = d.power ∧ (setPoison g v d).health = d.health ∧
    (setPoison g v d).start = d.start ∧ (setPoison g v d).ident = d.ident ∧ (setPoison g v d).owl = d.owl ∧
    (setPoison g v d).fe = d.fe ∧ (setPoison g v d).mesh = d.mesh ∧ (setPoison g v d).streams = d.streams ∧
    (setPoison g v d).scoring = d.scoring ∧ (setPoison g v d).sessions = d.sessions ∧
    (setPoison g v d).retries = d.retries ∧ (setPoison g v d).embed = d.embed ∧ (setPoison g v d).fabric = d.fabric ∧
    (setPoison g v d).service = d.service ∧ (setPoison g v d).journal = d.journal ∧
    (setPoison g v d).counters = d.counters ∧ (setPoison g v d).cycle = d.cycle ∧ (setPoison g v d).free = d.free ∧
    (setPoison g v d).mem.cells = d.mem.cells ∧ (setPoison g v d).mem.channels = d.mem.channels ∧
    (setPoison g v d).mem.scrubFrame = d.mem.scrubFrame ∧ (setPoison g v d).mem.scrubActive = d.mem.scrubActive ∧
    (setPoison g v d).mem.selfRefresh = d.mem.selfRefresh ∧ (setPoison g v d).mem.hot = d.mem.hot ∧
    (setPoison g v d).mem.logNext = d.mem.logNext ∧ (setPoison g v d).mem.logWrapped = d.mem.logWrapped ∧
    (setPoison g v d).mem.logLost = d.mem.logLost ∧ (setPoison g v d).mem.allocs = d.mem.allocs ∧
    (setPoison g v d).mem.windows = d.mem.windows := by
  simp only [setPoison, and_self]
/-- Objects that setPoison leaves unchanged. -/
@[simp] theorem setPoison_others (g : Nat) (v : Bool) :
    (setPoison g v d).queue = d.queue ∧ (setPoison g v d).qrun = d.qrun ∧ (setPoison g v d).fence = d.fence ∧
    (setPoison g v d).task = d.task ∧ (setPoison g v d).image = d.image ∧ (setPoison g v d).core = d.core ∧
    (setPoison g v d).slot = d.slot ∧ (setPoison g v d).slotRun = d.slotRun ∧ (setPoison g v d).side = d.side ∧
    (setPoison g v d).chan = d.chan ∧ (setPoison g v d).ens = d.ens ∧ (setPoison g v d).sgroup = d.sgroup ∧
    (setPoison g v d).session = d.session ∧ (setPoison g v d).table = d.table ∧ (setPoison g v d).engine = d.engine ∧
    (setPoison g v d).link = d.link ∧ (setPoison g v d).group = d.group ∧ (setPoison g v d).port = d.port ∧
    (setPoison g v d).serv = d.serv ∧ (setPoison g v d).row = d.row ∧ (setPoison g v d).sensor = d.sensor ∧
    (setPoison g v d).stash = d.stash ∧ (setPoison g v d).counter = d.counter := by
  have h := setPoison_frame d g v
  exact ⟨queue_congr (by simp only [h]), qrun_congr (by simp only [h]), fence_congr (by simp only [h]), task_congr (by simp only [h]), image_congr (by simp only [h]), core_congr (by simp only [h]), slot_congr (by simp only [h]), slotRun_congr (by simp only [h]), side_congr (by simp only [h]), chan_congr (by simp only [h]), ens_congr (by simp only [h]), sgroup_congr (by simp only [h]), session_congr (by simp only [h]), table_congr (by simp only [h]), engine_congr (by simp only [h]), link_congr (by simp only [h]), group_congr (by simp only [h]), port_congr (by simp only [h]), serv_congr (by simp only [h]), row_congr (by simp only [h]), sensor_congr (by simp only [h]), stash_congr (by simp only [h]), counter_congr (by simp only [h])⟩

/-- What storeRecord leaves unchanged. -/
@[simp] theorem storeRecord_frame (r : MemRecord) :
    (storeRecord r d).out = d.out ∧ (storeRecord r d).time = d.time ∧ (storeRecord r d).mode = d.mode ∧
    (storeRecord r d).events = d.events ∧ (storeRecord r d).power = d.power ∧ (storeRecord r d).health = d.health ∧
    (storeRecord r d).start = d.start ∧ (storeRecord r d).ident = d.ident ∧ (storeRecord r d).owl = d.owl ∧
    (storeRecord r d).fe = d.fe ∧ (storeRecord r d).mesh = d.mesh ∧ (storeRecord r d).streams = d.streams ∧
    (storeRecord r d).scoring = d.scoring ∧ (storeRecord r d).sessions = d.sessions ∧
    (storeRecord r d).retries = d.retries ∧ (storeRecord r d).embed = d.embed ∧ (storeRecord r d).fabric = d.fabric ∧
    (storeRecord r d).service = d.service ∧ (storeRecord r d).journal = d.journal ∧
    (storeRecord r d).counters = d.counters ∧ (storeRecord r d).cycle = d.cycle ∧ (storeRecord r d).free = d.free ∧
    (storeRecord r d).mem.poison = d.mem.poison ∧ (storeRecord r d).mem.channels = d.mem.channels ∧
    (storeRecord r d).mem.scrubFrame = d.mem.scrubFrame ∧ (storeRecord r d).mem.scrubActive = d.mem.scrubActive ∧
    (storeRecord r d).mem.selfRefresh = d.mem.selfRefresh ∧ (storeRecord r d).mem.hot = d.mem.hot ∧
    (storeRecord r d).mem.allocs = d.mem.allocs ∧ (storeRecord r d).mem.windows = d.mem.windows := by
  simp only [storeRecord, setCells_frame, and_self]
/-- Objects that storeRecord leaves unchanged. -/
@[simp] theorem storeRecord_others (r : MemRecord) :
    (storeRecord r d).queue = d.queue ∧ (storeRecord r d).qrun = d.qrun ∧ (storeRecord r d).fence = d.fence ∧
    (storeRecord r d).task = d.task ∧ (storeRecord r d).image = d.image ∧ (storeRecord r d).core = d.core ∧
    (storeRecord r d).slot = d.slot ∧ (storeRecord r d).slotRun = d.slotRun ∧ (storeRecord r d).side = d.side ∧
    (storeRecord r d).chan = d.chan ∧ (storeRecord r d).ens = d.ens ∧ (storeRecord r d).sgroup = d.sgroup ∧
    (storeRecord r d).session = d.session ∧ (storeRecord r d).table = d.table ∧ (storeRecord r d).engine = d.engine ∧
    (storeRecord r d).link = d.link ∧ (storeRecord r d).group = d.group ∧ (storeRecord r d).port = d.port ∧
    (storeRecord r d).serv = d.serv ∧ (storeRecord r d).row = d.row ∧ (storeRecord r d).sensor = d.sensor ∧
    (storeRecord r d).stash = d.stash ∧ (storeRecord r d).counter = d.counter := by
  have h := storeRecord_frame d r
  exact ⟨queue_congr (by simp only [h]), qrun_congr (by simp only [h]), fence_congr (by simp only [h]), task_congr (by simp only [h]), image_congr (by simp only [h]), core_congr (by simp only [h]), slot_congr (by simp only [h]), slotRun_congr (by simp only [h]), side_congr (by simp only [h]), chan_congr (by simp only [h]), ens_congr (by simp only [h]), sgroup_congr (by simp only [h]), session_congr (by simp only [h]), table_congr (by simp only [h]), engine_congr (by simp only [h]), link_congr (by simp only [h]), group_congr (by simp only [h]), port_congr (by simp only [h]), serv_congr (by simp only [h]), row_congr (by simp only [h]), sensor_congr (by simp only [h]), stash_congr (by simp only [h]), counter_congr (by simp only [h])⟩

/-- What captureRecord leaves unchanged. -/
@[simp] theorem captureRecord_frame (r : MemRecord) :
    (captureRecord r d).out = d.out ∧ (captureRecord r d).time = d.time ∧ (captureRecord r d).mode = d.mode ∧
    (captureRecord r d).events = d.events ∧ (captureRecord r d).power = d.power ∧ (captureRecord r d).health = d.health ∧
    (captureRecord r d).start = d.start ∧ (captureRecord r d).ident = d.ident ∧ (captureRecord r d).owl = d.owl ∧
    (captureRecord r d).fe = d.fe ∧ (captureRecord r d).mesh = d.mesh ∧ (captureRecord r d).streams = d.streams ∧
    (captureRecord r d).scoring = d.scoring ∧ (captureRecord r d).sessions = d.sessions ∧
    (captureRecord r d).retries = d.retries ∧ (captureRecord r d).embed = d.embed ∧ (captureRecord r d).fabric = d.fabric ∧
    (captureRecord r d).service = d.service ∧ (captureRecord r d).journal = d.journal ∧
    (captureRecord r d).counters = d.counters ∧ (captureRecord r d).free = d.free ∧
    (captureRecord r d).cycle.zeroed = d.cycle.zeroed ∧ (captureRecord r d).cycle.wrapped = d.cycle.wrapped ∧
    (captureRecord r d).cycle.rows = d.cycle.rows ∧ (captureRecord r d).mem.cells = d.mem.cells ∧
    (captureRecord r d).mem.poison = d.mem.poison ∧ (captureRecord r d).mem.scrubFrame = d.mem.scrubFrame ∧
    (captureRecord r d).mem.scrubActive = d.mem.scrubActive ∧ (captureRecord r d).mem.selfRefresh = d.mem.selfRefresh ∧
    (captureRecord r d).mem.hot = d.mem.hot ∧ (captureRecord r d).mem.logNext = d.mem.logNext ∧
    (captureRecord r d).mem.logWrapped = d.mem.logWrapped ∧ (captureRecord r d).mem.logLost = d.mem.logLost ∧
    (captureRecord r d).mem.allocs = d.mem.allocs ∧ (captureRecord r d).mem.windows = d.mem.windows := by
  unfold captureRecord
  dsimp only
  split <;> simp only [hwSet_frame, modChan_frame, and_self]
/-- Objects that captureRecord leaves unchanged. -/
@[simp] theorem captureRecord_others (r : MemRecord) :
    (captureRecord r d).queue = d.queue ∧ (captureRecord r d).qrun = d.qrun ∧ (captureRecord r d).fence = d.fence ∧
    (captureRecord r d).task = d.task ∧ (captureRecord r d).image = d.image ∧ (captureRecord r d).core = d.core ∧
    (captureRecord r d).slot = d.slot ∧ (captureRecord r d).slotRun = d.slotRun ∧ (captureRecord r d).side = d.side ∧
    (captureRecord r d).ens = d.ens ∧ (captureRecord r d).sgroup = d.sgroup ∧ (captureRecord r d).session = d.session ∧
    (captureRecord r d).table = d.table ∧ (captureRecord r d).engine = d.engine ∧ (captureRecord r d).link = d.link ∧
    (captureRecord r d).group = d.group ∧ (captureRecord r d).port = d.port ∧ (captureRecord r d).serv = d.serv ∧
    (captureRecord r d).row = d.row ∧ (captureRecord r d).sensor = d.sensor ∧ (captureRecord r d).stash = d.stash ∧
    (captureRecord r d).counter = d.counter := by
  have h := captureRecord_frame d r
  exact ⟨queue_congr (by simp only [h]), qrun_congr (by simp only [h]), fence_congr (by simp only [h]), task_congr (by simp only [h]), image_congr (by simp only [h]), core_congr (by simp only [h]), slot_congr (by simp only [h]), slotRun_congr (by simp only [h]), side_congr (by simp only [h]), ens_congr (by simp only [h]), sgroup_congr (by simp only [h]), session_congr (by simp only [h]), table_congr (by simp only [h]), engine_congr (by simp only [h]), link_congr (by simp only [h]), group_congr (by simp only [h]), port_congr (by simp only [h]), serv_congr (by simp only [h]), row_congr (by simp only [h]), sensor_congr (by simp only [h]), stash_congr (by simp only [h]), counter_congr (by simp only [h])⟩

/-- What logRecord leaves unchanged. -/
@[simp] theorem logRecord_frame (r : MemRecord) :
    (logRecord r d).out = d.out ∧ (logRecord r d).time = d.time ∧ (logRecord r d).mode = d.mode ∧
    (logRecord r d).events = d.events ∧ (logRecord r d).power = d.power ∧ (logRecord r d).health = d.health ∧
    (logRecord r d).start = d.start ∧ (logRecord r d).ident = d.ident ∧ (logRecord r d).owl = d.owl ∧
    (logRecord r d).fe = d.fe ∧ (logRecord r d).mesh = d.mesh ∧ (logRecord r d).streams = d.streams ∧
    (logRecord r d).scoring = d.scoring ∧ (logRecord r d).sessions = d.sessions ∧ (logRecord r d).retries = d.retries ∧
    (logRecord r d).embed = d.embed ∧ (logRecord r d).fabric = d.fabric ∧ (logRecord r d).service = d.service ∧
    (logRecord r d).journal = d.journal ∧ (logRecord r d).counters = d.counters ∧ (logRecord r d).free = d.free ∧
    (logRecord r d).cycle.zeroed = d.cycle.zeroed ∧ (logRecord r d).cycle.wrapped = d.cycle.wrapped ∧
    (logRecord r d).cycle.rows = d.cycle.rows ∧ (logRecord r d).mem.poison = d.mem.poison ∧
    (logRecord r d).mem.scrubFrame = d.mem.scrubFrame ∧ (logRecord r d).mem.scrubActive = d.mem.scrubActive ∧
    (logRecord r d).mem.selfRefresh = d.mem.selfRefresh ∧ (logRecord r d).mem.hot = d.mem.hot ∧
    (logRecord r d).mem.allocs = d.mem.allocs ∧ (logRecord r d).mem.windows = d.mem.windows := by
  simp only [logRecord, captureRecord_frame, storeRecord_frame, and_self]
/-- Objects that logRecord leaves unchanged. -/
@[simp] theorem logRecord_others (r : MemRecord) :
    (logRecord r d).queue = d.queue ∧ (logRecord r d).qrun = d.qrun ∧ (logRecord r d).fence = d.fence ∧
    (logRecord r d).task = d.task ∧ (logRecord r d).image = d.image ∧ (logRecord r d).core = d.core ∧
    (logRecord r d).slot = d.slot ∧ (logRecord r d).slotRun = d.slotRun ∧ (logRecord r d).side = d.side ∧
    (logRecord r d).ens = d.ens ∧ (logRecord r d).sgroup = d.sgroup ∧ (logRecord r d).session = d.session ∧
    (logRecord r d).table = d.table ∧ (logRecord r d).engine = d.engine ∧ (logRecord r d).link = d.link ∧
    (logRecord r d).group = d.group ∧ (logRecord r d).port = d.port ∧ (logRecord r d).serv = d.serv ∧
    (logRecord r d).row = d.row ∧ (logRecord r d).sensor = d.sensor ∧ (logRecord r d).stash = d.stash ∧
    (logRecord r d).counter = d.counter := by
  have h := logRecord_frame d r
  exact ⟨queue_congr (by simp only [h]), qrun_congr (by simp only [h]), fence_congr (by simp only [h]), task_congr (by simp only [h]), image_congr (by simp only [h]), core_congr (by simp only [h]), slot_congr (by simp only [h]), slotRun_congr (by simp only [h]), side_congr (by simp only [h]), ens_congr (by simp only [h]), sgroup_congr (by simp only [h]), session_congr (by simp only [h]), table_congr (by simp only [h]), engine_congr (by simp only [h]), link_congr (by simp only [h]), group_congr (by simp only [h]), port_congr (by simp only [h]), serv_congr (by simp only [h]), row_congr (by simp only [h]), sensor_congr (by simp only [h]), stash_congr (by simp only [h]), counter_congr (by simp only [h])⟩

/-- What poisonGranule leaves unchanged. -/
@[simp] theorem poisonGranule_frame (src : Byte) (g : Nat) :
    (poisonGranule src g d).out = d.out ∧ (poisonGranule src g d).time = d.time ∧ (poisonGranule src g d).power = d.power ∧
    (poisonGranule src g d).health = d.health ∧ (poisonGranule src g d).start = d.start ∧
    (poisonGranule src g d).ident = d.ident ∧ (poisonGranule src g d).owl = d.owl ∧ (poisonGranule src g d).fe = d.fe ∧
    (poisonGranule src g d).mesh = d.mesh ∧ (poisonGranule src g d).streams = d.streams ∧
    (poisonGranule src g d).scoring = d.scoring ∧ (poisonGranule src g d).sessions = d.sessions ∧
    (poisonGranule src g d).retries = d.retries ∧ (poisonGranule src g d).embed = d.embed ∧
    (poisonGranule src g d).fabric = d.fabric ∧ (poisonGranule src g d).service = d.service ∧
    (poisonGranule src g d).journal = d.journal ∧ (poisonGranule src g d).free = d.free ∧
    (poisonGranule src g d).cycle.zeroed = d.cycle.zeroed ∧ (poisonGranule src g d).cycle.rows = d.cycle.rows ∧
    (poisonGranule src g d).mode.det = d.mode.det ∧ (poisonGranule src g d).mode.refused = d.mode.refused ∧
    (poisonGranule src g d).mode.queueCtl = d.mode.queueCtl ∧
    (poisonGranule src g d).mode.queueSelect = d.mode.queueSelect ∧
    (poisonGranule src g d).mode.traceCtl = d.mode.traceCtl ∧ (poisonGranule src g d).mode.pairs = d.mode.pairs ∧
    (poisonGranule src g d).mode.mismatch = d.mode.mismatch ∧ (poisonGranule src g d).mode.lastOffset = d.mode.lastOffset ∧
    (poisonGranule src g d).mode.bar4Base = d.mode.bar4Base ∧ (poisonGranule src g d).mode.bar4Log2 = d.mode.bar4Log2 ∧
    (poisonGranule src g d).mode.d3hot = d.mode.d3hot ∧ (poisonGranule src g d).mode.msixTable = d.mode.msixTable ∧
    (poisonGranule src g d).mode.msixPending = d.mode.msixPending ∧ (poisonGranule src g d).events.base = d.events.base ∧
    (poisonGranule src g d).events.enable = d.events.enable ∧ (poisonGranule src g d).events.log2 = d.events.log2 ∧
    (poisonGranule src g d).events.classEn = d.events.classEn ∧
    (poisonGranule src g d).events.producer = d.events.producer ∧
    (poisonGranule src g d).events.consumer = d.events.consumer ∧
    (poisonGranule src g d).events.badBase = d.events.badBase ∧
    (poisonGranule src g d).events.badConsumer = d.events.badConsumer ∧
    (poisonGranule src g d).mem.scrubFrame = d.mem.scrubFrame ∧
    (poisonGranule src g d).mem.scrubActive = d.mem.scrubActive ∧
    (poisonGranule src g d).mem.selfRefresh = d.mem.selfRefresh ∧ (poisonGranule src g d).mem.hot = d.mem.hot ∧
    (poisonGranule src g d).mem.allocs = d.mem.allocs ∧ (poisonGranule src g d).mem.windows = d.mem.windows := by
  unfold poisonGranule
  dsimp only
  split <;> simp only [logRecord_frame, modChan_frame, bump_frame, setPoison_frame, and_self]
/-- Objects that poisonGranule leaves unchanged. -/
@[simp] theorem poisonGranule_others (src : Byte) (g : Nat) :
    (poisonGranule src g d).queue = d.queue ∧ (poisonGranule src g d).qrun = d.qrun ∧
    (poisonGranule src g d).fence = d.fence ∧ (poisonGranule src g d).task = d.task ∧
    (poisonGranule src g d).image = d.image ∧ (poisonGranule src g d).core = d.core ∧
    (poisonGranule src g d).slot = d.slot ∧ (poisonGranule src g d).slotRun = d.slotRun ∧
    (poisonGranule src g d).side = d.side ∧ (poisonGranule src g d).ens = d.ens ∧
    (poisonGranule src g d).sgroup = d.sgroup ∧ (poisonGranule src g d).session = d.session ∧
    (poisonGranule src g d).table = d.table ∧ (poisonGranule src g d).engine = d.engine ∧
    (poisonGranule src g d).link = d.link ∧ (poisonGranule src g d).group = d.group ∧
    (poisonGranule src g d).port = d.port ∧ (poisonGranule src g d).serv = d.serv ∧ (poisonGranule src g d).row = d.row ∧
    (poisonGranule src g d).sensor = d.sensor ∧ (poisonGranule src g d).stash = d.stash := by
  have h := poisonGranule_frame d src g
  exact ⟨queue_congr (by simp only [h]), qrun_congr (by simp only [h]), fence_congr (by simp only [h]), task_congr (by simp only [h]), image_congr (by simp only [h]), core_congr (by simp only [h]), slot_congr (by simp only [h]), slotRun_congr (by simp only [h]), side_congr (by simp only [h]), ens_congr (by simp only [h]), sgroup_congr (by simp only [h]), session_congr (by simp only [h]), table_congr (by simp only [h]), engine_congr (by simp only [h]), link_congr (by simp only [h]), group_congr (by simp only [h]), port_congr (by simp only [h]), serv_congr (by simp only [h]), row_congr (by simp only [h]), sensor_congr (by simp only [h]), stash_congr (by simp only [h])⟩

/-- What writeGranulePoison leaves unchanged. -/
@[simp] theorem writeGranulePoison_frame (src : Byte) (a n : Nat) (m : Bool) (g : Nat) :
    (writeGranulePoison src a n m g d).out = d.out ∧ (writeGranulePoison src a n m g d).time = d.time ∧
    (writeGranulePoison src a n m g d).power = d.power ∧ (writeGranulePoison src a n m g d).health = d.health ∧
    (writeGranulePoison src a n m g d).start = d.start ∧ (writeGranulePoison src a n m g d).ident = d.ident ∧
    (writeGranulePoison src a n m g d).owl = d.owl ∧ (writeGranulePoison src a n m g d).fe = d.fe ∧
    (writeGranulePoison src a n m g d).mesh = d.mesh ∧ (writeGranulePoison src a n m g d).streams = d.streams ∧
    (writeGranulePoison src a n m g d).scoring = d.scoring ∧ (writeGranulePoison src a n m g d).sessions = d.sessions ∧
    (writeGranulePoison src a n m g d).retries = d.retries ∧ (writeGranulePoison src a n m g d).embed = d.embed ∧
    (writeGranulePoison src a n m g d).fabric = d.fabric ∧ (writeGranulePoison src a n m g d).service = d.service ∧
    (writeGranulePoison src a n m g d).journal = d.journal ∧ (writeGranulePoison src a n m g d).free = d.free ∧
    (writeGranulePoison src a n m g d).cycle.zeroed = d.cycle.zeroed ∧
    (writeGranulePoison src a n m g d).cycle.rows = d.cycle.rows ∧
    (writeGranulePoison src a n m g d).mode.det = d.mode.det ∧
    (writeGranulePoison src a n m g d).mode.refused = d.mode.refused ∧
    (writeGranulePoison src a n m g d).mode.queueCtl = d.mode.queueCtl ∧
    (writeGranulePoison src a n m g d).mode.queueSelect = d.mode.queueSelect ∧
    (writeGranulePoison src a n m g d).mode.traceCtl = d.mode.traceCtl ∧
    (writeGranulePoison src a n m g d).mode.pairs = d.mode.pairs ∧
    (writeGranulePoison src a n m g d).mode.mismatch = d.mode.mismatch ∧
    (writeGranulePoison src a n m g d).mode.lastOffset = d.mode.lastOffset ∧
    (writeGranulePoison src a n m g d).mode.bar4Base = d.mode.bar4Base ∧
    (writeGranulePoison src a n m g d).mode.bar4Log2 = d.mode.bar4Log2 ∧
    (writeGranulePoison src a n m g d).mode.d3hot = d.mode.d3hot ∧
    (writeGranulePoison src a n m g d).mode.msixTable = d.mode.msixTable ∧
    (writeGranulePoison src a n m g d).mode.msixPending = d.mode.msixPending ∧
    (writeGranulePoison src a n m g d).events.base = d.events.base ∧
    (writeGranulePoison src a n m g d).events.enable = d.events.enable ∧
    (writeGranulePoison src a n m g d).events.log2 = d.events.log2 ∧
    (writeGranulePoison src a n m g d).events.classEn = d.events.classEn ∧
    (writeGranulePoison src a n m g d).events.producer = d.events.producer ∧
    (writeGranulePoison src a n m g d).events.consumer = d.events.consumer ∧
    (writeGranulePoison src a n m g d).events.badBase = d.events.badBase ∧
    (writeGranulePoison src a n m g d).events.badConsumer = d.events.badConsumer ∧
    (writeGranulePoison src a n m g d).mem.scrubFrame = d.mem.scrubFrame ∧
    (writeGranulePoison src a n m g d).mem.scrubActive = d.mem.scrubActive ∧
    (writeGranulePoison src a n m g d).mem.selfRefresh = d.mem.selfRefresh ∧
    (writeGranulePoison src a n m g d).mem.hot = d.mem.hot ∧ (writeGranulePoison src a n m g d).mem.allocs = d.mem.allocs ∧
    (writeGranulePoison src a n m g d).mem.windows = d.mem.windows := by
  unfold writeGranulePoison
  dsimp only
  split; · simp only [poisonGranule_frame, and_self]
  split; · simp only [setPoison_frame, and_self]
  split <;> simp only [bump_frame, and_self]
/-- Objects that writeGranulePoison leaves unchanged. -/
@[simp] theorem writeGranulePoison_others (src : Byte) (a n : Nat) (m : Bool) (g : Nat) :
    (writeGranulePoison src a n m g d).queue = d.queue ∧ (writeGranulePoison src a n m g d).qrun = d.qrun ∧
    (writeGranulePoison src a n m g d).fence = d.fence ∧ (writeGranulePoison src a n m g d).task = d.task ∧
    (writeGranulePoison src a n m g d).image = d.image ∧ (writeGranulePoison src a n m g d).core = d.core ∧
    (writeGranulePoison src a n m g d).slot = d.slot ∧ (writeGranulePoison src a n m g d).slotRun = d.slotRun ∧
    (writeGranulePoison src a n m g d).side = d.side ∧ (writeGranulePoison src a n m g d).ens = d.ens ∧
    (writeGranulePoison src a n m g d).sgroup = d.sgroup ∧ (writeGranulePoison src a n m g d).session = d.session ∧
    (writeGranulePoison src a n m g d).table = d.table ∧ (writeGranulePoison src a n m g d).engine = d.engine ∧
    (writeGranulePoison src a n m g d).link = d.link ∧ (writeGranulePoison src a n m g d).group = d.group ∧
    (writeGranulePoison src a n m g d).port = d.port ∧ (writeGranulePoison src a n m g d).serv = d.serv ∧
    (writeGranulePoison src a n m g d).row = d.row ∧ (writeGranulePoison src a n m g d).sensor = d.sensor ∧
    (writeGranulePoison src a n m g d).stash = d.stash := by
  have h := writeGranulePoison_frame d src a n m g
  exact ⟨queue_congr (by simp only [h]), qrun_congr (by simp only [h]), fence_congr (by simp only [h]), task_congr (by simp only [h]), image_congr (by simp only [h]), core_congr (by simp only [h]), slot_congr (by simp only [h]), slotRun_congr (by simp only [h]), side_congr (by simp only [h]), ens_congr (by simp only [h]), sgroup_congr (by simp only [h]), session_congr (by simp only [h]), table_congr (by simp only [h]), engine_congr (by simp only [h]), link_congr (by simp only [h]), group_congr (by simp only [h]), port_congr (by simp only [h]), serv_congr (by simp only [h]), row_congr (by simp only [h]), sensor_congr (by simp only [h]), stash_congr (by simp only [h])⟩

/-- What memStore leaves unchanged. -/
@[simp] theorem memStore_frame (src : Byte) (a : Nat) (bytes : List Byte) (m : Bool) :
    (memStore src a bytes m d).out = d.out ∧ (memStore src a bytes m d).time = d.time ∧
    (memStore src a bytes m d).power = d.power ∧ (memStore src a bytes m d).health = d.health ∧
    (memStore src a bytes m d).start = d.start ∧ (memStore src a bytes m d).ident = d.ident ∧
    (memStore src a bytes m d).owl = d.owl ∧ (memStore src a bytes m d).fe = d.fe ∧
    (memStore src a bytes m d).mesh = d.mesh ∧ (memStore src a bytes m d).streams = d.streams ∧
    (memStore src a bytes m d).scoring = d.scoring ∧ (memStore src a bytes m d).sessions = d.sessions ∧
    (memStore src a bytes m d).retries = d.retries ∧ (memStore src a bytes m d).embed = d.embed ∧
    (memStore src a bytes m d).fabric = d.fabric ∧ (memStore src a bytes m d).service = d.service ∧
    (memStore src a bytes m d).journal = d.journal ∧ (memStore src a bytes m d).free = d.free ∧
    (memStore src a bytes m d).cycle.zeroed = d.cycle.zeroed ∧ (memStore src a bytes m d).cycle.rows = d.cycle.rows ∧
    (memStore src a bytes m d).mode.det = d.mode.det ∧ (memStore src a bytes m d).mode.refused = d.mode.refused ∧
    (memStore src a bytes m d).mode.queueCtl = d.mode.queueCtl ∧
    (memStore src a bytes m d).mode.queueSelect = d.mode.queueSelect ∧
    (memStore src a bytes m d).mode.traceCtl = d.mode.traceCtl ∧ (memStore src a bytes m d).mode.pairs = d.mode.pairs ∧
    (memStore src a bytes m d).mode.mismatch = d.mode.mismatch ∧
    (memStore src a bytes m d).mode.lastOffset = d.mode.lastOffset ∧
    (memStore src a bytes m d).mode.bar4Base = d.mode.bar4Base ∧
    (memStore src a bytes m d).mode.bar4Log2 = d.mode.bar4Log2 ∧ (memStore src a bytes m d).mode.d3hot = d.mode.d3hot ∧
    (memStore src a bytes m d).mode.msixTable = d.mode.msixTable ∧
    (memStore src a bytes m d).mode.msixPending = d.mode.msixPending ∧
    (memStore src a bytes m d).events.base = d.events.base ∧ (memStore src a bytes m d).events.enable = d.events.enable ∧
    (memStore src a bytes m d).events.log2 = d.events.log2 ∧ (memStore src a bytes m d).events.classEn = d.events.classEn ∧
    (memStore src a bytes m d).events.producer = d.events.producer ∧
    (memStore src a bytes m d).events.consumer = d.events.consumer ∧
    (memStore src a bytes m d).events.badBase = d.events.badBase ∧
    (memStore src a bytes m d).events.badConsumer = d.events.badConsumer ∧
    (memStore src a bytes m d).mem.scrubFrame = d.mem.scrubFrame ∧
    (memStore src a bytes m d).mem.scrubActive = d.mem.scrubActive ∧
    (memStore src a bytes m d).mem.selfRefresh = d.mem.selfRefresh ∧ (memStore src a bytes m d).mem.hot = d.mem.hot ∧
    (memStore src a bytes m d).mem.allocs = d.mem.allocs ∧ (memStore src a bytes m d).mem.windows = d.mem.windows := by
  unfold memStore
  refine ⟨(forEach_same (g := fun e => e.out) (fun _ e => by simp only [writeGranulePoison_frame]) _ _).trans (by simp only [setCells_frame]), (forEach_same (g := fun e => e.time) (fun _ e => by simp only [writeGranulePoison_frame]) _ _).trans (by simp only [setCells_frame]), (forEach_same (g := fun e => e.power) (fun _ e => by simp only [writeGranulePoison_frame]) _ _).trans (by simp only [setCells_frame]), (forEach_same (g := fun e => e.health) (fun _ e => by simp only [writeGranulePoison_frame]) _ _).trans (by simp only [setCells_frame]), (forEach_same (g := fun e => e.start) (fun _ e => by simp only [writeGranulePoison_frame]) _ _).trans (by simp only [setCells_frame]), (forEach_same (g := fun e => e.ident) (fun _ e => by simp only [writeGranulePoison_frame]) _ _).trans (by simp only [setCells_frame]), (forEach_same (g := fun e => e.owl) (fun _ e => by simp only [writeGranulePoison_frame]) _ _).trans (by simp only [setCells_frame]), (forEach_same (g := fun e => e.fe) (fun _ e => by simp only [writeGranulePoison_frame]) _ _).trans (by simp only [setCells_frame]), (forEach_same (g := fun e => e.mesh) (fun _ e => by simp only [writeGranulePoison_frame]) _ _).trans (by simp only [setCells_frame]), (forEach_same (g := fun e => e.streams) (fun _ e => by simp only [writeGranulePoison_frame]) _ _).trans (by simp only [setCells_frame]), (forEach_same (g := fun e => e.scoring) (fun _ e => by simp only [writeGranulePoison_frame]) _ _).trans (by simp only [setCells_frame]), (forEach_same (g := fun e => e.sessions) (fun _ e => by simp only [writeGranulePoison_frame]) _ _).trans (by simp only [setCells_frame]), (forEach_same (g := fun e => e.retries) (fun _ e => by simp only [writeGranulePoison_frame]) _ _).trans (by simp only [setCells_frame]), (forEach_same (g := fun e => e.embed) (fun _ e => by simp only [writeGranulePoison_frame]) _ _).trans (by simp only [setCells_frame]), (forEach_same (g := fun e => e.fabric) (fun _ e => by simp only [writeGranulePoison_frame]) _ _).trans (by simp only [setCells_frame]), (forEach_same (g := fun e => e.service) (fun _ e => by simp only [writeGranulePoison_frame]) _ _).trans (by simp only [setCells_frame]), (forEach_same (g := fun e => e.journal) (fun _ e => by simp only [writeGranulePoison_frame]) _ _).trans (by simp only [setCells_frame]), (forEach_same (g := fun e => e.free) (fun _ e => by simp only [writeGranulePoison_frame]) _ _).trans (by simp only [setCells_frame]), (forEach_same (g := fun e => e.cycle.zeroed) (fun _ e => by simp only [writeGranulePoison_frame]) _ _).trans (by simp only [setCells_frame]), (forEach_same (g := fun e => e.cycle.rows) (fun _ e => by simp only [writeGranulePoison_frame]) _ _).trans (by simp only [setCells_frame]), (forEach_same (g := fun e => e.mode.det) (fun _ e => by simp only [writeGranulePoison_frame]) _ _).trans (by simp only [setCells_frame]), (forEach_same (g := fun e => e.mode.refused) (fun _ e => by simp only [writeGranulePoison_frame]) _ _).trans (by simp only [setCells_frame]), (forEach_same (g := fun e => e.mode.queueCtl) (fun _ e => by simp only [writeGranulePoison_frame]) _ _).trans (by simp only [setCells_frame]), (forEach_same (g := fun e => e.mode.queueSelect) (fun _ e => by simp only [writeGranulePoison_frame]) _ _).trans (by simp only [setCells_frame]), (forEach_same (g := fun e => e.mode.traceCtl) (fun _ e => by simp only [writeGranulePoison_frame]) _ _).trans (by simp only [setCells_frame]), (forEach_same (g := fun e => e.mode.pairs) (fun _ e => by simp only [writeGranulePoison_frame]) _ _).trans (by simp only [setCells_frame]), (forEach_same (g := fun e => e.mode.mismatch) (fun _ e => by simp only [writeGranulePoison_frame]) _ _).trans (by simp only [setCells_frame]), (forEach_same (g := fun e => e.mode.lastOffset) (fun _ e => by simp only [writeGranulePoison_frame]) _ _).trans (by simp only [setCells_frame]), (forEach_same (g := fun e => e.mode.bar4Base) (fun _ e => by simp only [writeGranulePoison_frame]) _ _).trans (by simp only [setCells_frame]), (forEach_same (g := fun e => e.mode.bar4Log2) (fun _ e => by simp only [writeGranulePoison_frame]) _ _).trans (by simp only [setCells_frame]), (forEach_same (g := fun e => e.mode.d3hot) (fun _ e => by simp only [writeGranulePoison_frame]) _ _).trans (by simp only [setCells_frame]), (forEach_same (g := fun e => e.mode.msixTable) (fun _ e => by simp only [writeGranulePoison_frame]) _ _).trans (by simp only [setCells_frame]), (forEach_same (g := fun e => e.mode.msixPending) (fun _ e => by simp only [writeGranulePoison_frame]) _ _).trans (by simp only [setCells_frame]), (forEach_same (g := fun e => e.events.base) (fun _ e => by simp only [writeGranulePoison_frame]) _ _).trans (by simp only [setCells_frame]), (forEach_same (g := fun e => e.events.enable) (fun _ e => by simp only [writeGranulePoison_frame]) _ _).trans (by simp only [setCells_frame]), (forEach_same (g := fun e => e.events.log2) (fun _ e => by simp only [writeGranulePoison_frame]) _ _).trans (by simp only [setCells_frame]), (forEach_same (g := fun e => e.events.classEn) (fun _ e => by simp only [writeGranulePoison_frame]) _ _).trans (by simp only [setCells_frame]), (forEach_same (g := fun e => e.events.producer) (fun _ e => by simp only [writeGranulePoison_frame]) _ _).trans (by simp only [setCells_frame]), (forEach_same (g := fun e => e.events.consumer) (fun _ e => by simp only [writeGranulePoison_frame]) _ _).trans (by simp only [setCells_frame]), (forEach_same (g := fun e => e.events.badBase) (fun _ e => by simp only [writeGranulePoison_frame]) _ _).trans (by simp only [setCells_frame]), (forEach_same (g := fun e => e.events.badConsumer) (fun _ e => by simp only [writeGranulePoison_frame]) _ _).trans (by simp only [setCells_frame]), (forEach_same (g := fun e => e.mem.scrubFrame) (fun _ e => by simp only [writeGranulePoison_frame]) _ _).trans (by simp only [setCells_frame]), (forEach_same (g := fun e => e.mem.scrubActive) (fun _ e => by simp only [writeGranulePoison_frame]) _ _).trans (by simp only [setCells_frame]), (forEach_same (g := fun e => e.mem.selfRefresh) (fun _ e => by simp only [writeGranulePoison_frame]) _ _).trans (by simp only [setCells_frame]), (forEach_same (g := fun e => e.mem.hot) (fun _ e => by simp only [writeGranulePoison_frame]) _ _).trans (by simp only [setCells_frame]), (forEach_same (g := fun e => e.mem.allocs) (fun _ e => by simp only [writeGranulePoison_frame]) _ _).trans (by simp only [setCells_frame]), (forEach_same (g := fun e => e.mem.windows) (fun _ e => by simp only [writeGranulePoison_frame]) _ _).trans (by simp only [setCells_frame])⟩
/-- Objects that memStore leaves unchanged. -/
@[simp] theorem memStore_others (src : Byte) (a : Nat) (bytes : List Byte) (m : Bool) :
    (memStore src a bytes m d).queue = d.queue ∧ (memStore src a bytes m d).qrun = d.qrun ∧
    (memStore src a bytes m d).fence = d.fence ∧ (memStore src a bytes m d).task = d.task ∧
    (memStore src a bytes m d).image = d.image ∧ (memStore src a bytes m d).core = d.core ∧
    (memStore src a bytes m d).slot = d.slot ∧ (memStore src a bytes m d).slotRun = d.slotRun ∧
    (memStore src a bytes m d).side = d.side ∧ (memStore src a bytes m d).ens = d.ens ∧
    (memStore src a bytes m d).sgroup = d.sgroup ∧ (memStore src a bytes m d).session = d.session ∧
    (memStore src a bytes m d).table = d.table ∧ (memStore src a bytes m d).engine = d.engine ∧
    (memStore src a bytes m d).link = d.link ∧ (memStore src a bytes m d).group = d.group ∧
    (memStore src a bytes m d).port = d.port ∧ (memStore src a bytes m d).serv = d.serv ∧
    (memStore src a bytes m d).row = d.row ∧ (memStore src a bytes m d).sensor = d.sensor ∧
    (memStore src a bytes m d).stash = d.stash := by
  have h := memStore_frame d src a bytes m
  exact ⟨queue_congr (by simp only [h]), qrun_congr (by simp only [h]), fence_congr (by simp only [h]), task_congr (by simp only [h]), image_congr (by simp only [h]), core_congr (by simp only [h]), slot_congr (by simp only [h]), slotRun_congr (by simp only [h]), side_congr (by simp only [h]), ens_congr (by simp only [h]), sgroup_congr (by simp only [h]), session_congr (by simp only [h]), table_congr (by simp only [h]), engine_congr (by simp only [h]), link_congr (by simp only [h]), group_congr (by simp only [h]), port_congr (by simp only [h]), serv_congr (by simp only [h]), row_congr (by simp only [h]), sensor_congr (by simp only [h]), stash_congr (by simp only [h])⟩

/-- What countAccess leaves unchanged. -/
@[simp] theorem countAccess_frame (src : Byte) (w : Bool) (a n : Nat) :
    (countAccess src w a n d).out = d.out ∧ (countAccess src w a n d).time = d.time ∧
    (countAccess src w a n d).power = d.power ∧ (countAccess src w a n d).health = d.health ∧
    (countAccess src w a n d).start = d.start ∧ (countAccess src w a n d).ident = d.ident ∧
    (countAccess src w a n d).owl = d.owl ∧ (countAccess src w a n d).fe = d.fe ∧ (countAccess src w a n d).mesh = d.mesh ∧
    (countAccess src w a n d).streams = d.streams ∧ (countAccess src w a n d).mem = d.mem ∧
    (countAccess src w a n d).scoring = d.scoring ∧ (countAccess src w a n d).sessions = d.sessions ∧
    (countAccess src w a n d).retries = d.retries ∧ (countAccess src w a n d).embed = d.embed ∧
    (countAccess src w a n d).fabric = d.fabric ∧ (countAccess src w a n d).service = d.service ∧
    (countAccess src w a n d).journal = d.journal ∧ (countAccess src w a n d).free = d.free ∧
    (countAccess src w a n d).cycle.zeroed = d.cycle.zeroed ∧ (countAccess src w a n d).cycle.rows = d.cycle.rows ∧
    (countAccess src w a n d).mode.det = d.mode.det ∧ (countAccess src w a n d).mode.refused = d.mode.refused ∧
    (countAccess src w a n d).mode.queueCtl = d.mode.queueCtl ∧
    (countAccess src w a n d).mode.queueSelect = d.mode.queueSelect ∧
    (countAccess src w a n d).mode.traceCtl = d.mode.traceCtl ∧ (countAccess src w a n d).mode.pairs = d.mode.pairs ∧
    (countAccess src w a n d).mode.mismatch = d.mode.mismatch ∧
    (countAccess src w a n d).mode.lastOffset = d.mode.lastOffset ∧
    (countAccess src w a n d).mode.bar4Base = d.mode.bar4Base ∧ (countAccess src w a n d).mode.bar4Log2 = d.mode.bar4Log2 ∧
    (countAccess src w a n d).mode.d3hot = d.mode.d3hot ∧ (countAccess src w a n d).mode.msixTable = d.mode.msixTable ∧
    (countAccess src w a n d).mode.msixPending = d.mode.msixPending ∧
    (countAccess src w a n d).events.base = d.events.base ∧ (countAccess src w a n d).events.enable = d.events.enable ∧
    (countAccess src w a n d).events.log2 = d.events.log2 ∧ (countAccess src w a n d).events.classEn = d.events.classEn ∧
    (countAccess src w a n d).events.producer = d.events.producer ∧
    (countAccess src w a n d).events.consumer = d.events.consumer ∧
    (countAccess src w a n d).events.badBase = d.events.badBase ∧
    (countAccess src w a n d).events.badConsumer = d.events.badConsumer := by
  unfold countAccess
  refine ⟨forEach_same (g := fun e => e.out) (fun _ e => by simp only [bump_frame]) _ _, forEach_same (g := fun e => e.time) (fun _ e => by simp only [bump_frame]) _ _, forEach_same (g := fun e => e.power) (fun _ e => by simp only [bump_frame]) _ _, forEach_same (g := fun e => e.health) (fun _ e => by simp only [bump_frame]) _ _, forEach_same (g := fun e => e.start) (fun _ e => by simp only [bump_frame]) _ _, forEach_same (g := fun e => e.ident) (fun _ e => by simp only [bump_frame]) _ _, forEach_same (g := fun e => e.owl) (fun _ e => by simp only [bump_frame]) _ _, forEach_same (g := fun e => e.fe) (fun _ e => by simp only [bump_frame]) _ _, forEach_same (g := fun e => e.mesh) (fun _ e => by simp only [bump_frame]) _ _, forEach_same (g := fun e => e.streams) (fun _ e => by simp only [bump_frame]) _ _, forEach_same (g := fun e => e.mem) (fun _ e => by simp only [bump_frame]) _ _, forEach_same (g := fun e => e.scoring) (fun _ e => by simp only [bump_frame]) _ _, forEach_same (g := fun e => e.sessions) (fun _ e => by simp only [bump_frame]) _ _, forEach_same (g := fun e => e.retries) (fun _ e => by simp only [bump_frame]) _ _, forEach_same (g := fun e => e.embed) (fun _ e => by simp only [bump_frame]) _ _, forEach_same (g := fun e => e.fabric) (fun _ e => by simp only [bump_frame]) _ _, forEach_same (g := fun e => e.service) (fun _ e => by simp only [bump_frame]) _ _, forEach_same (g := fun e => e.journal) (fun _ e => by simp only [bump_frame]) _ _, forEach_same (g := fun e => e.free) (fun _ e => by simp only [bump_frame]) _ _, forEach_same (g := fun e => e.cycle.zeroed) (fun _ e => by simp only [bump_frame]) _ _, forEach_same (g := fun e => e.cycle.rows) (fun _ e => by simp only [bump_frame]) _ _, forEach_same (g := fun e => e.mode.det) (fun _ e => by simp only [bump_frame]) _ _, forEach_same (g := fun e => e.mode.refused) (fun _ e => by simp only [bump_frame]) _ _, forEach_same (g := fun e => e.mode.queueCtl) (fun _ e => by simp only [bump_frame]) _ _, forEach_same (g := fun e => e.mode.queueSelect) (fun _ e => by simp only [bump_frame]) _ _, forEach_same (g := fun e => e.mode.traceCtl) (fun _ e => by simp only [bump_frame]) _ _, forEach_same (g := fun e => e.mode.pairs) (fun _ e => by simp only [bump_frame]) _ _, forEach_same (g := fun e => e.mode.mismatch) (fun _ e => by simp only [bump_frame]) _ _, forEach_same (g := fun e => e.mode.lastOffset) (fun _ e => by simp only [bump_frame]) _ _, forEach_same (g := fun e => e.mode.bar4Base) (fun _ e => by simp only [bump_frame]) _ _, forEach_same (g := fun e => e.mode.bar4Log2) (fun _ e => by simp only [bump_frame]) _ _, forEach_same (g := fun e => e.mode.d3hot) (fun _ e => by simp only [bump_frame]) _ _, forEach_same (g := fun e => e.mode.msixTable) (fun _ e => by simp only [bump_frame]) _ _, forEach_same (g := fun e => e.mode.msixPending) (fun _ e => by simp only [bump_frame]) _ _, forEach_same (g := fun e => e.events.base) (fun _ e => by simp only [bump_frame]) _ _, forEach_same (g := fun e => e.events.enable) (fun _ e => by simp only [bump_frame]) _ _, forEach_same (g := fun e => e.events.log2) (fun _ e => by simp only [bump_frame]) _ _, forEach_same (g := fun e => e.events.classEn) (fun _ e => by simp only [bump_frame]) _ _, forEach_same (g := fun e => e.events.producer) (fun _ e => by simp only [bump_frame]) _ _, forEach_same (g := fun e => e.events.consumer) (fun _ e => by simp only [bump_frame]) _ _, forEach_same (g := fun e => e.events.badBase) (fun _ e => by simp only [bump_frame]) _ _, forEach_same (g := fun e => e.events.badConsumer) (fun _ e => by simp only [bump_frame]) _ _⟩
/-- Objects that countAccess leaves unchanged. -/
@[simp] theorem countAccess_others (src : Byte) (w : Bool) (a n : Nat) :
    (countAccess src w a n d).queue = d.queue ∧ (countAccess src w a n d).qrun = d.qrun ∧
    (countAccess src w a n d).fence = d.fence ∧ (countAccess src w a n d).task = d.task ∧
    (countAccess src w a n d).image = d.image ∧ (countAccess src w a n d).core = d.core ∧
    (countAccess src w a n d).slot = d.slot ∧ (countAccess src w a n d).slotRun = d.slotRun ∧
    (countAccess src w a n d).side = d.side ∧ (countAccess src w a n d).chan = d.chan ∧
    (countAccess src w a n d).ens = d.ens ∧ (countAccess src w a n d).sgroup = d.sgroup ∧
    (countAccess src w a n d).session = d.session ∧ (countAccess src w a n d).table = d.table ∧
    (countAccess src w a n d).engine = d.engine ∧ (countAccess src w a n d).link = d.link ∧
    (countAccess src w a n d).group = d.group ∧ (countAccess src w a n d).port = d.port ∧
    (countAccess src w a n d).serv = d.serv ∧ (countAccess src w a n d).row = d.row ∧
    (countAccess src w a n d).sensor = d.sensor ∧ (countAccess src w a n d).stash = d.stash := by
  have h := countAccess_frame d src w a n
  exact ⟨queue_congr (by simp only [h]), qrun_congr (by simp only [h]), fence_congr (by simp only [h]), task_congr (by simp only [h]), image_congr (by simp only [h]), core_congr (by simp only [h]), slot_congr (by simp only [h]), slotRun_congr (by simp only [h]), side_congr (by simp only [h]), chan_congr (by simp only [h]), ens_congr (by simp only [h]), sgroup_congr (by simp only [h]), session_congr (by simp only [h]), table_congr (by simp only [h]), engine_congr (by simp only [h]), link_congr (by simp only [h]), group_congr (by simp only [h]), port_congr (by simp only [h]), serv_congr (by simp only [h]), row_congr (by simp only [h]), sensor_congr (by simp only [h]), stash_congr (by simp only [h])⟩

/-- What memWrite leaves unchanged. -/
@[simp] theorem memWrite_frame (src : Byte) (a : Nat) (bytes : List Byte) (m : Bool) :
    (memWrite src a bytes m d).out = d.out ∧ (memWrite src a bytes m d).time = d.time ∧
    (memWrite src a bytes m d).power = d.power ∧ (memWrite src a bytes m d).health = d.health ∧
    (memWrite src a bytes m d).start = d.start ∧ (memWrite src a bytes m d).ident = d.ident ∧
    (memWrite src a bytes m d).owl = d.owl ∧ (memWrite src a bytes m d).fe = d.fe ∧
    (memWrite src a bytes m d).mesh = d.mesh ∧ (memWrite src a bytes m d).streams = d.streams ∧
    (memWrite src a bytes m d).scoring = d.scoring ∧ (memWrite src a bytes m d).sessions = d.sessions ∧
    (memWrite src a bytes m d).retries = d.retries ∧ (memWrite src a bytes m d).embed = d.embed ∧
    (memWrite src a bytes m d).fabric = d.fabric ∧ (memWrite src a bytes m d).service = d.service ∧
    (memWrite src a bytes m d).journal = d.journal ∧ (memWrite src a bytes m d).free = d.free ∧
    (memWrite src a bytes m d).cycle.zeroed = d.cycle.zeroed ∧ (memWrite src a bytes m d).cycle.rows = d.cycle.rows ∧
    (memWrite src a bytes m d).mode.det = d.mode.det ∧ (memWrite src a bytes m d).mode.refused = d.mode.refused ∧
    (memWrite src a bytes m d).mode.queueCtl = d.mode.queueCtl ∧
    (memWrite src a bytes m d).mode.queueSelect = d.mode.queueSelect ∧
    (memWrite src a bytes m d).mode.traceCtl = d.mode.traceCtl ∧ (memWrite src a bytes m d).mode.pairs = d.mode.pairs ∧
    (memWrite src a bytes m d).mode.mismatch = d.mode.mismatch ∧
    (memWrite src a bytes m d).mode.lastOffset = d.mode.lastOffset ∧
    (memWrite src a bytes m d).mode.bar4Base = d.mode.bar4Base ∧
    (memWrite src a bytes m d).mode.bar4Log2 = d.mode.bar4Log2 ∧ (memWrite src a bytes m d).mode.d3hot = d.mode.d3hot ∧
    (memWrite src a bytes m d).mode.msixTable = d.mode.msixTable ∧
    (memWrite src a bytes m d).mode.msixPending = d.mode.msixPending ∧
    (memWrite src a bytes m d).events.base = d.events.base ∧ (memWrite src a bytes m d).events.enable = d.events.enable ∧
    (memWrite src a bytes m d).events.log2 = d.events.log2 ∧ (memWrite src a bytes m d).events.classEn = d.events.classEn ∧
    (memWrite src a bytes m d).events.producer = d.events.producer ∧
    (memWrite src a bytes m d).events.consumer = d.events.consumer ∧
    (memWrite src a bytes m d).events.badBase = d.events.badBase ∧
    (memWrite src a bytes m d).events.badConsumer = d.events.badConsumer ∧
    (memWrite src a bytes m d).mem.scrubFrame = d.mem.scrubFrame ∧
    (memWrite src a bytes m d).mem.scrubActive = d.mem.scrubActive ∧
    (memWrite src a bytes m d).mem.selfRefresh = d.mem.selfRefresh ∧ (memWrite src a bytes m d).mem.hot = d.mem.hot ∧
    (memWrite src a bytes m d).mem.allocs = d.mem.allocs ∧ (memWrite src a bytes m d).mem.windows = d.mem.windows := by
  simp only [memWrite, countAccess_frame, memStore_frame, and_self]
/-- Objects that memWrite leaves unchanged. -/
@[simp] theorem memWrite_others (src : Byte) (a : Nat) (bytes : List Byte) (m : Bool) :
    (memWrite src a bytes m d).queue = d.queue ∧ (memWrite src a bytes m d).qrun = d.qrun ∧
    (memWrite src a bytes m d).fence = d.fence ∧ (memWrite src a bytes m d).task = d.task ∧
    (memWrite src a bytes m d).image = d.image ∧ (memWrite src a bytes m d).core = d.core ∧
    (memWrite src a bytes m d).slot = d.slot ∧ (memWrite src a bytes m d).slotRun = d.slotRun ∧
    (memWrite src a bytes m d).side = d.side ∧ (memWrite src a bytes m d).ens = d.ens ∧
    (memWrite src a bytes m d).sgroup = d.sgroup ∧ (memWrite src a bytes m d).session = d.session ∧
    (memWrite src a bytes m d).table = d.table ∧ (memWrite src a bytes m d).engine = d.engine ∧
    (memWrite src a bytes m d).link = d.link ∧ (memWrite src a bytes m d).group = d.group ∧
    (memWrite src a bytes m d).port = d.port ∧ (memWrite src a bytes m d).serv = d.serv ∧
    (memWrite src a bytes m d).row = d.row ∧ (memWrite src a bytes m d).sensor = d.sensor ∧
    (memWrite src a bytes m d).stash = d.stash := by
  have h := memWrite_frame d src a bytes m
  exact ⟨queue_congr (by simp only [h]), qrun_congr (by simp only [h]), fence_congr (by simp only [h]), task_congr (by simp only [h]), image_congr (by simp only [h]), core_congr (by simp only [h]), slot_congr (by simp only [h]), slotRun_congr (by simp only [h]), side_congr (by simp only [h]), ens_congr (by simp only [h]), sgroup_congr (by simp only [h]), session_congr (by simp only [h]), table_congr (by simp only [h]), engine_congr (by simp only [h]), link_congr (by simp only [h]), group_congr (by simp only [h]), port_congr (by simp only [h]), serv_congr (by simp only [h]), row_congr (by simp only [h]), sensor_congr (by simp only [h]), stash_congr (by simp only [h])⟩

/-- What wakeModule leaves unchanged. -/
@[simp] theorem wakeModule_frame  :
    (wakeModule d).out = d.out ∧ (wakeModule d).time = d.time ∧ (wakeModule d).mode = d.mode ∧
    (wakeModule d).events = d.events ∧ (wakeModule d).health = d.health ∧ (wakeModule d).start = d.start ∧
    (wakeModule d).ident = d.ident ∧ (wakeModule d).owl = d.owl ∧ (wakeModule d).fe = d.fe ∧ (wakeModule d).mesh = d.mesh ∧
    (wakeModule d).streams = d.streams ∧ (wakeModule d).scoring = d.scoring ∧ (wakeModule d).sessions = d.sessions ∧
    (wakeModule d).retries = d.retries ∧ (wakeModule d).embed = d.embed ∧ (wakeModule d).fabric = d.fabric ∧
    (wakeModule d).service = d.service ∧ (wakeModule d).journal = d.journal ∧ (wakeModule d).counters = d.counters ∧
    (wakeModule d).cycle = d.cycle ∧ (wakeModule d).free = d.free ∧
    (wakeModule d).power.regulators54 = d.power.regulators54 ∧ (wakeModule d).power.step = d.power.step ∧
    (wakeModule d).power.p1 = d.power.p1 ∧ (wakeModule d).power.history = d.power.history ∧
    (wakeModule d).power.p10 = d.power.p10 ∧ (wakeModule d).power.cause = d.power.cause ∧
    (wakeModule d).power.causesNow = d.power.causesNow ∧ (wakeModule d).power.overrides = d.power.overrides ∧
    (wakeModule d).power.throttleRun = d.power.throttleRun ∧ (wakeModule d).power.inputMv = d.power.inputMv ∧
    (wakeModule d).power.inputCa = d.power.inputCa ∧ (wakeModule d).power.inputFlags = d.power.inputFlags ∧
    (wakeModule d).mem.cells = d.mem.cells ∧ (wakeModule d).mem.poison = d.mem.poison ∧
    (wakeModule d).mem.channels = d.mem.channels ∧ (wakeModule d).mem.scrubFrame = d.mem.scrubFrame ∧
    (wakeModule d).mem.scrubActive = d.mem.scrubActive ∧ (wakeModule d).mem.hot = d.mem.hot ∧
    (wakeModule d).mem.logNext = d.mem.logNext ∧ (wakeModule d).mem.logWrapped = d.mem.logWrapped ∧
    (wakeModule d).mem.logLost = d.mem.logLost ∧ (wakeModule d).mem.allocs = d.mem.allocs ∧
    (wakeModule d).mem.windows = d.mem.windows := by
  unfold wakeModule
  split <;> simp only [and_self]
/-- Objects that wakeModule leaves unchanged. -/
@[simp] theorem wakeModule_others  :
    (wakeModule d).queue = d.queue ∧ (wakeModule d).qrun = d.qrun ∧ (wakeModule d).fence = d.fence ∧
    (wakeModule d).task = d.task ∧ (wakeModule d).image = d.image ∧ (wakeModule d).core = d.core ∧
    (wakeModule d).slot = d.slot ∧ (wakeModule d).slotRun = d.slotRun ∧ (wakeModule d).side = d.side ∧
    (wakeModule d).chan = d.chan ∧ (wakeModule d).ens = d.ens ∧ (wakeModule d).sgroup = d.sgroup ∧
    (wakeModule d).session = d.session ∧ (wakeModule d).table = d.table ∧ (wakeModule d).engine = d.engine ∧
    (wakeModule d).link = d.link ∧ (wakeModule d).group = d.group ∧ (wakeModule d).port = d.port ∧
    (wakeModule d).serv = d.serv ∧ (wakeModule d).row = d.row ∧ (wakeModule d).sensor = d.sensor ∧
    (wakeModule d).stash = d.stash ∧ (wakeModule d).counter = d.counter := by
  have h := wakeModule_frame d
  exact ⟨queue_congr (by simp only [h]), qrun_congr (by simp only [h]), fence_congr (by simp only [h]), task_congr (by simp only [h]), image_congr (by simp only [h]), core_congr (by simp only [h]), slot_congr (by simp only [h]), slotRun_congr (by simp only [h]), side_congr (by simp only [h]), chan_congr (by simp only [h]), ens_congr (by simp only [h]), sgroup_congr (by simp only [h]), session_congr (by simp only [h]), table_congr (by simp only [h]), engine_congr (by simp only [h]), link_congr (by simp only [h]), group_congr (by simp only [h]), port_congr (by simp only [h]), serv_congr (by simp only [h]), row_congr (by simp only [h]), sensor_congr (by simp only [h]), stash_congr (by simp only [h]), counter_congr (by simp only [h])⟩

/-- What wakeRow leaves unchanged. -/
@[simp] theorem wakeRow_frame (r : Nat) :
    (wakeRow r d).out = d.out ∧ (wakeRow r d).time = d.time ∧ (wakeRow r d).power = d.power ∧
    (wakeRow r d).start = d.start ∧ (wakeRow r d).ident = d.ident ∧ (wakeRow r d).owl = d.owl ∧ (wakeRow r d).fe = d.fe ∧
    (wakeRow r d).mesh = d.mesh ∧ (wakeRow r d).streams = d.streams ∧ (wakeRow r d).mem = d.mem ∧
    (wakeRow r d).scoring = d.scoring ∧ (wakeRow r d).sessions = d.sessions ∧ (wakeRow r d).retries = d.retries ∧
    (wakeRow r d).embed = d.embed ∧ (wakeRow r d).fabric = d.fabric ∧ (wakeRow r d).service = d.service ∧
    (wakeRow r d).journal = d.journal ∧ (wakeRow r d).free = d.free ∧ (wakeRow r d).cycle.zeroed = d.cycle.zeroed ∧
    (wakeRow r d).cycle.rows = d.cycle.rows ∧ (wakeRow r d).mode.det = d.mode.det ∧
    (wakeRow r d).mode.refused = d.mode.refused ∧ (wakeRow r d).mode.queueCtl = d.mode.queueCtl ∧
    (wakeRow r d).mode.queueSelect = d.mode.queueSelect ∧ (wakeRow r d).mode.traceCtl = d.mode.traceCtl ∧
    (wakeRow r d).mode.pairs = d.mode.pairs ∧ (wakeRow r d).mode.mismatch = d.mode.mismatch ∧
    (wakeRow r d).mode.lastOffset = d.mode.lastOffset ∧ (wakeRow r d).mode.bar4Base = d.mode.bar4Base ∧
    (wakeRow r d).mode.bar4Log2 = d.mode.bar4Log2 ∧ (wakeRow r d).mode.d3hot = d.mode.d3hot ∧
    (wakeRow r d).mode.msixTable = d.mode.msixTable ∧ (wakeRow r d).mode.msixPending = d.mode.msixPending ∧
    (wakeRow r d).events.base = d.events.base ∧ (wakeRow r d).events.enable = d.events.enable ∧
    (wakeRow r d).events.log2 = d.events.log2 ∧ (wakeRow r d).events.classEn = d.events.classEn ∧
    (wakeRow r d).events.producer = d.events.producer ∧ (wakeRow r d).events.consumer = d.events.consumer ∧
    (wakeRow r d).events.badBase = d.events.badBase ∧ (wakeRow r d).events.badConsumer = d.events.badConsumer ∧
    (wakeRow r d).health.sensors = d.health.sensors ∧ (wakeRow r d).health.smbusStuck = d.health.smbusStuck ∧
    (wakeRow r d).health.i3cStuck = d.health.i3cStuck ∧ (wakeRow r d).health.recovered = d.health.recovered ∧
    (wakeRow r d).health.thermtrip = d.health.thermtrip := by
  unfold wakeRow
  split <;> simp only [bump_frame, modRow_frame, and_self]
/-- Objects that wakeRow leaves unchanged. -/
@[simp] theorem wakeRow_others (r : Nat) :
    (wakeRow r d).queue = d.queue ∧ (wakeRow r d).qrun = d.qrun ∧ (wakeRow r d).fence = d.fence ∧
    (wakeRow r d).task = d.task ∧ (wakeRow r d).image = d.image ∧ (wakeRow r d).core = d.core ∧
    (wakeRow r d).slot = d.slot ∧ (wakeRow r d).slotRun = d.slotRun ∧ (wakeRow r d).side = d.side ∧
    (wakeRow r d).chan = d.chan ∧ (wakeRow r d).ens = d.ens ∧ (wakeRow r d).sgroup = d.sgroup ∧
    (wakeRow r d).session = d.session ∧ (wakeRow r d).table = d.table ∧ (wakeRow r d).engine = d.engine ∧
    (wakeRow r d).link = d.link ∧ (wakeRow r d).group = d.group ∧ (wakeRow r d).port = d.port ∧
    (wakeRow r d).serv = d.serv ∧ (wakeRow r d).sensor = d.sensor ∧ (wakeRow r d).stash = d.stash := by
  have h := wakeRow_frame d r
  exact ⟨queue_congr (by simp only [h]), qrun_congr (by simp only [h]), fence_congr (by simp only [h]), task_congr (by simp only [h]), image_congr (by simp only [h]), core_congr (by simp only [h]), slot_congr (by simp only [h]), slotRun_congr (by simp only [h]), side_congr (by simp only [h]), chan_congr (by simp only [h]), ens_congr (by simp only [h]), sgroup_congr (by simp only [h]), session_congr (by simp only [h]), table_congr (by simp only [h]), engine_congr (by simp only [h]), link_congr (by simp only [h]), group_congr (by simp only [h]), port_congr (by simp only [h]), serv_congr (by simp only [h]), sensor_congr (by simp only [h]), stash_congr (by simp only [h])⟩

end Sys2Proof.Machine
end

