-- ==== Sys2Proof/Laws/Counters.lean ====
section
/-! SUPPORT. Laws of counters and events: what a count leaves in its slot, and what an event leaves in the holding queue. -/

namespace Sys2Proof.Machine
open Sys2Proof

variable (d : Dev)

theorem setCounter_counter (o v i : Nat) : (setCounter o v d).counter i = if i = o then v % 2 ^ 64 else d.counter i := by
  unfold Dev.counter setCounter
  simp only [look_put]
  split <;> simp

theorem msixBit_counter (v : Nat) : (msixBit v d).counter = d.counter := rfl

theorem eventVectors_counter (code : Nat) : (eventVectors code d).counter = d.counter := by simp

theorem holdEvent_counter (code source : Nat) (detail : List Byte) : (holdEvent code source detail d).counter = d.counter := rfl

theorem noteLoss_counter : (noteLoss d).counter = d.counter := by simp

theorem noteWrap_counter (o n : Nat) : (noteWrap o n d).counter = d.counter := by simp

/-- A lost event counts in EVENTS_LOST alone. -/
theorem loseEvent_counter (i : Nat) (h : i ≠ cOwl 14) : (loseEvent d).counter i = d.counter i := by
  unfold loseEvent
  dsimp only
  split <;> simp only [noteLoss_counter, setCounter_counter, if_neg h]

/-- Raising an event changes no counter but EVENTS_LOST. -/
theorem raiseEvent_counter (code source : Nat) (detail : List Byte) (i : Nat) (h : i ≠ cOwl 14) :
    (raiseEvent code source detail d).counter i = d.counter i := by
  unfold raiseEvent
  dsimp only
  split
  · split
    · simp
    · rw [loseEvent_counter _ _ h]; simp
  · simp

/-- The value after n happenings, where no write of zero has met the counter in the Den cycle (R9, R10). -/
theorem counted_eq (o n : Nat) (hz : o ∉ d.cycle.zeroed) : d.counted o n = countTo (counterClass o) (d.counter o) n := by
  unfold Dev.counted
  rw [if_neg (by simpa using hz)]

/-- What a count leaves in its own slot. -/
theorem bump_counter (o n : Nat) (h : o ≠ cOwl 14) (hz : o ∉ d.cycle.zeroed) :
    (bump o n d).counter o = countTo (counterClass o) (d.counter o) n % 2 ^ 64 := by
  unfold bump
  dsimp only
  rw [counted_eq d o n hz]
  split
  · rw [raiseEvent_counter _ _ _ _ _ h, setCounter_counter, if_pos rfl]
  · rw [setCounter_counter, if_pos rfl]

/-- A count leaves every other slot but EVENTS_LOST. -/
theorem bump_counter_other (o n i : Nat) (h : i ≠ o) (h' : i ≠ cOwl 14) : (bump o n d).counter i = d.counter i := by
  unfold bump
  dsimp only
  split
  · rw [raiseEvent_counter _ _ _ _ _ h', setCounter_counter, if_neg h, noteWrap_counter]
  · rw [setCounter_counter, if_neg h, noteWrap_counter]

/-- A count in an S32 counter sticks at its largest value. -/
theorem bump_counter_s32 (o n : Nat) (h : o ≠ cOwl 14) (hz : o ∉ d.cycle.zeroed) (hc : counterClass o = 2) :
    (bump o n d).counter o = min (d.counter o + n) 0xFFFFFFFF := by
  rw [bump_counter d o n h hz, hc]
  simp only [countTo]
  omega

/-- An event of an enabled class that finds a place free is held last, behind an EVENTS_LOST event where one is due. -/
theorem raiseEvent_held (code source : Nat) (detail : List Byte) (hc : bitOf d.events.classEn.toNat (code / 0x1000 - 1) = true)
    (hl : d.events.lost = 0) (hh : d.events.held.length < 1024) :
    (raiseEvent code source detail d).events.held =
      d.events.held ++ [⟨d.time.ft, BitVec.ofNat 16 code, BitVec.ofNat 16 source, d.events.seq, detail⟩] := by
  have e1 : (eventVectors code d).events = d.events := by simp
  have e2 : (eventVectors code d).time = d.time := by simp
  unfold raiseEvent
  dsimp only
  have ht : takeLost (eventVectors code d) = eventVectors code d := by
    unfold takeLost; rw [e1]; simp [hl]
  rw [e1, if_pos hc, ht, e1, if_pos hh]
  simp only [holdEvent, e1, e2]

end Sys2Proof.Machine
end

