-- ==== Sys2Proof/Laws/Memory.lean ====
section
/-! SUPPORT. Laws of device and local memory: the canonical form is kept, a write reads back, other bytes stay. -/

namespace Sys2Proof.Machine
open Sys2Proof

variable (d : Dev)

theorem memory_wf_iff (m : Memory) : m.wf = true ↔ Sparse.wf 0 m.cells = true ∧ Sparse.wf false m.poison = true := by
  simp [Memory.wf]

/-- An operation that leaves the contents as they were keeps the canonical form. -/
theorem wf_of_same {d e : Dev} (h1 : e.mem.cells = d.mem.cells) (h2 : e.mem.poison = d.mem.poison) (h : d.mem.wf = true) :
    e.mem.wf = true := by
  rw [memory_wf_iff] at *; rw [h1, h2]; exact h

theorem setCells_wf (a : Nat) (bytes : List Byte) (h : d.mem.wf = true) : (setCells a bytes d).mem.wf = true := by
  rw [memory_wf_iff] at *; exact ⟨putAll_wf _ _ _ _ h.1, h.2⟩

theorem setPoison_wf (g : Nat) (v : Bool) (h : d.mem.wf = true) : (setPoison g v d).mem.wf = true := by
  rw [memory_wf_iff] at *; exact ⟨h.1, put_wf _ _ _ _ h.2⟩

theorem clearCells_wf (lo hi : Nat) (m : Memory) (h : m.wf = true) : (clearCells lo hi m).wf = true := by
  rw [memory_wf_iff] at *; exact ⟨filter_wf _ _ _ h.1, filter_wf _ _ _ h.2⟩

theorem clearFrames_wf (k : Nat) (rs : List (Nat × Nat)) (m : Memory) (h : m.wf = true) : (clearFrames k rs m).wf = true := by
  rw [memory_wf_iff] at *; exact ⟨filter_wf _ _ _ h.1, filter_wf _ _ _ h.2⟩

theorem bump_wf (o n : Nat) (h : d.mem.wf = true) : (bump o n d).mem.wf = true := by simpa using h

theorem raiseEvent_wf (code source : Nat) (detail : List Byte) (h : d.mem.wf = true) :
    (raiseEvent code source detail d).mem.wf = true := by simpa using h

theorem modChan_wf (k : Nat) (f : Channel → Channel) (h : d.mem.wf = true) : (modChan k f d).mem.wf = true :=
  wf_of_same (by simp) (by simp) h

theorem storeRecord_wf (r : MemRecord) (h : d.mem.wf = true) : (storeRecord r d).mem.wf = true :=
  wf_of_same (d := setCells (0xFF01080000 + 32 * d.mem.logNext.toNat) (memRecordBytes r) d) rfl rfl (setCells_wf d _ _ h)

theorem captureRecord_wf (r : MemRecord) (h : d.mem.wf = true) : (captureRecord r d).mem.wf = true :=
  wf_of_same (by simp) (by simp) h

theorem logRecord_wf (r : MemRecord) (h : d.mem.wf = true) : (logRecord r d).mem.wf = true :=
  captureRecord_wf _ _ (storeRecord_wf d _ h)

theorem poisonGranule_wf (src : Byte) (g : Nat) (h : d.mem.wf = true) : (poisonGranule src g d).mem.wf = true := by
  have h1 := bump_wf _ (cChan (channelOf (64 * g)) 4) 1 (setPoison_wf d g true h)
  unfold poisonGranule
  dsimp only
  split
  · exact h1
  · exact logRecord_wf _ _ (modChan_wf _ _ _ h1)

theorem writeGranulePoison_wf (src : Byte) (a n : Nat) (m : Bool) (g : Nat) (h : d.mem.wf = true) :
    (writeGranulePoison src a n m g d).mem.wf = true := by
  unfold writeGranulePoison
  dsimp only
  split
  · exact poisonGranule_wf _ _ _ h
  · split
    · exact setPoison_wf _ _ _ h
    · split
      · exact bump_wf _ _ _ h
      · exact h

/-- Storing keeps the canonical form. -/
theorem memStore_wf (src : Byte) (a : Nat) (bytes : List Byte) (m : Bool) (h : d.mem.wf = true) :
    (memStore src a bytes m d).mem.wf = true :=
  forEach_keeps (P := fun d => d.mem.wf = true) (fun g d hd => writeGranulePoison_wf d src a _ m g hd) _ _ (setCells_wf d a bytes h)

/-- Counting accesses keeps the canonical form. -/
theorem countAccess_wf (src : Byte) (w : Bool) (a n : Nat) (h : d.mem.wf = true) : (countAccess src w a n d).mem.wf = true :=
  forEach_keeps (P := fun d => d.mem.wf = true) (fun _ d hd => bump_wf d _ _ hd) _ _ h

/-- A write to device memory keeps the canonical form. -/
theorem memWrite_wf (src : Byte) (a : Nat) (bytes : List Byte) (m : Bool) (h : d.mem.wf = true) :
    (memWrite src a bytes m d).mem.wf = true := countAccess_wf _ _ _ _ _ (memStore_wf d src a bytes m h)

theorem memLand_wf (src : Byte) (a : Nat) (data : List (Byte × Bool)) (h : d.mem.wf = true) :
    (memLand src a data d).mem.wf = true :=
  forEach_keeps (P := fun d => d.mem.wf = true) (fun _ d hd => memStore_wf d src _ _ _ hd) _ _ h

theorem readGranule_wf (b : Bounds) (src : Byte) (g : Nat) (errors : List (Nat × Nat)) (h : d.mem.wf = true) :
    (readGranule b src g errors d).2.2.mem.wf = true := by
  unfold readGranule
  dsimp only
  split
  · exact h
  · split
    · exact bump_wf _ _ _ h
    · exact bump_wf _ _ _ (bump_wf _ _ _ h)
  · have h1 := bump_wf d (cChan (channelOf (64 * g)) 1) 1 h
    split
    · have h2 := bump_wf _ (cChan (channelOf (64 * g)) (accessCounter src)) 1
        (setPoison_wf _ g false (setCells_wf _ (64 * g) (flipBytes (flipBytes (d.bytesAt (64 * g) 64) errors) ‹_›) h1))
      split
      · exact h2
      · exact raiseEvent_wf _ _ _ _ (logRecord_wf _ _ (modChan_wf _ _ _ h2))
    · split
      · exact h1
      · exact raiseEvent_wf _ _ _ _ (logRecord_wf _ _ (modChan_wf _ _ _ h1))
  · exact raiseEvent_wf _ _ _ _ (logRecord_wf _ _ (bump_wf _ _ _ (setPoison_wf _ _ _ (setCells_wf _ _ _ h))))

theorem readBlock_wf (b : Bounds) (src : Byte) : ∀ (n g : Nat) (errors : List (List SymbolError)) (d : Dev), d.mem.wf = true →
    (readBlock b src g errors n d).2.mem.wf = true
  | 0, _, _, _, h => h
  | n + 1, g, errors, d, h => by
    unfold readBlock
    exact readBlock_wf b src n (g + 1) _ _ (readGranule_wf d b src g _ h)

/-- A byte after bytes are stored. -/
theorem setCells_byte (a i : Nat) (bytes : List Byte) :
    look 0 (setCells a bytes d).mem.cells i = if a ≤ i ∧ i < a + bytes.length then bytes.getD (i - a) 0 else look 0 d.mem.cells i :=
  look_putAll _ _ _ _ _

/-- Counting accesses stores nothing. -/
theorem countAccess_cells (src : Byte) (w : Bool) (a n : Nat) : (countAccess src w a n d).mem.cells = d.mem.cells :=
  forEach_same (g := fun e => e.mem.cells) (fun _ e => by simp) _ _

/-- Storing unmarked bytes changes only them. -/
theorem memStore_cells (src : Byte) (a : Nat) (bytes : List Byte) :
    (memStore src a bytes false d).mem.cells = (setCells a bytes d).mem.cells := by
  unfold memStore
  refine forEach_same (g := fun e => e.mem.cells) (fun g e => ?_) _ _
  unfold writeGranulePoison
  dsimp only
  split
  · contradiction
  · split
    · simp
    · split <;> simp

/-- An unmarked write changes only the bytes it stores. -/
theorem memWrite_cells (src : Byte) (a : Nat) (bytes : List Byte) :
    (memWrite src a bytes false d).mem.cells = (setCells a bytes d).mem.cells := by
  unfold memWrite
  rw [countAccess_cells, memStore_cells]

theorem memWrite_byte (src : Byte) (a i : Nat) (bytes : List Byte) :
    look 0 (memWrite src a bytes false d).mem.cells i =
      if a ≤ i ∧ i < a + bytes.length then bytes.getD (i - a) 0 else look 0 d.mem.cells i := by
  rw [memWrite_cells, setCells_byte]

/-- What was written unmarked reads back. -/
theorem memWrite_bytesAt (src : Byte) (a : Nat) (bytes : List Byte) :
    (memWrite src a bytes false d).bytesAt a bytes.length = bytes := by
  unfold Dev.bytesAt
  rw [memWrite_cells]
  exact lookAll_putAll_same _ _ _ _

/-! ## Local memory -/

theorem localPoison_wf (a n : Nat) (m : Bool) : ∀ (gs : List Nat) (t : Sparse Bool), Sparse.wf false t = true →
    Sparse.wf false (localPoison a n m t gs) = true
  | [], _, h => h
  | g :: gs, t, h => by
    unfold localPoison
    apply localPoison_wf
    split
    · exact put_wf _ _ _ _ h
    · split
      · exact put_wf _ _ _ _ h
      · exact h

/-- The canonical form of a core's local memory. -/
def Core.lmWf (c : Core) : Bool := Sparse.wf 0 c.lm && Sparse.wf false c.lmPoison

/-- A write to local memory keeps the canonical form. -/
theorem coreWrite_wf (c : Core) (a : Nat) (bytes : List Byte) (m : Bool) (h : c.lmWf = true) : (c.write a bytes m).lmWf = true := by
  simp only [Core.lmWf, Bool.and_eq_true] at *
  exact ⟨putAll_wf _ _ _ _ h.1, localPoison_wf _ _ _ _ _ h.2⟩

/-- What was written to local memory reads back. -/
theorem coreWrite_bytesAt (c : Core) (a : Nat) (bytes : List Byte) (m : Bool) : (c.write a bytes m).bytesAt a bytes.length = bytes :=
  lookAll_putAll_same _ _ _ _

/-- Other bytes of local memory stay. -/
theorem coreWrite_byte (c : Core) (a i : Nat) (bytes : List Byte) (m : Bool) :
    look 0 (c.write a bytes m).lm i = if a ≤ i ∧ i < a + bytes.length then bytes.getD (i - a) 0 else look 0 c.lm i :=
  look_putAll _ _ _ _ _

theorem reset_memory_wf : Memory.reset.wf = true := by decide

end Sys2Proof.Machine
end

