-- ==== Sys2Proof/Tests/Slice0.lean ====
section
/-! SUPPORT. Small tests of the model, and states that meet the hypotheses of the statements. -/

namespace Sys2Proof.Tests
open Sys2Proof Sys2Proof.Machine Sys2Proof.Safety

-- The tests are evaluated one after another, so that few of them need memory at once.
set_option Elab.async false

/-- A state whose device is d, everything else at reset. -/
def on (d : Dev) : State := { State.reset with dev := d }

/-- n bytes, zero but for little-endian fields (offset, width, value). -/
def mk (n : Nat) (fs : List (Nat × Nat × Nat)) : List Byte :=
  fs.foldl (fun b f => b.take f.1 ++ leBytes f.2.1 f.2.2 ++ b.drop (f.1 + f.2.1)) (zeros n)

/-- A running module: every feature agreed, the front end and the Owl up, one host window. -/
def dev0 : Dev :=
  { Dev.reset with
    ident := { Identity.reset with owlReady := true, offered := BitVec.allOnes 128, agreed := BitVec.allOnes 128, negotiated := true }
    fe := { FrontEnd.reset with running := true }
    power := { Power.reset with state := .active, regulators54 := true, step := 34, inputMv := 54000 }
    mem := { Memory.reset with windows := [(0, 0x10000, 0x10000)] } }

/-- Queue 3 on d: ACTIVE in slot 0, ring of 16 entries at 0x10000 in the host window, holding one command's bytes. -/
def ring (b : List Byte) (d : Dev) : Dev :=
  modRun 3 (fun r => { r with fetched := (List.range (b.length / 64)).map (fun i => (i, { bytes := slice b (64 * i) 64, poisoned := false })) })
    (modQueue 3 (fun u => { u with ringBase := 0x10000, ringLog2 := 4, enabled := true, state := .active, slot := some 0,
                                   producer := BitVec.ofNat 32 (b.length / 64) }) d)

/-- A running command of n entries at index 0. -/
def cmdOf (b : List Byte) (w : Work) : Cmd :=
  { index := 0, entries := b.length / 64, bytes := b, tDoorbell := 0, tStart := 0, flags := 0, raised := [], notes := 0,
    version := 0, poisonIn := 0, poisonOut := 0, count := 0, progress := 0, lastProgress := 0, excluded := 0, work := w,
    facts := [], preemptions := 0, replays := 0, committed := false, completed := false }

/-- Queue 3 on d with that command running. -/
def busy (c : Cmd) (d : Dev) : Dev :=
  modRun 3 (fun r => { r with running := [c] })
    (modQueue 3 (fun u => { u with ringBase := 0x10000, ringLog2 := 4, enabled := true, state := .active, slot := some 0,
                                   producer := BitVec.ofNat 32 c.entries, started := BitVec.ofNat 32 c.entries }) d)

/-- Fence 7, registered, of queue 3. -/
def fenced7 (d : Dev) : Dev := setFence 7 { registered := true, producer := 3, value := 5 } d

/-- d with a request from the PCIe mailbox in service. -/
def ask (b : List Byte) (d : Dev) : Dev := { d with owl := { d.owl with current := some { path := .pcie, bytes := b, injected := false } } }

/-- The first 256 bytes of a request, which are zero after them: opcode, end of the payload, and its fields. -/
def req (op last : Nat) (fs : List (Nat × Nat × Nat)) : List Byte :=
  mk 256 ([(0, 2, op), (2, 2, last - 0x20), (4, 4, 1)] ++ fs)

/-- A request with a number at 0x20 and a block of 64 bytes at 0x28. -/
def blkReq (op n : Nat) (bs : List Byte) : List Byte :=
  (req op 0x68 [(0x20, 4, n)]).take 0x28 ++ bs ++ (req op 0x68 []).drop 0x68
/-- What holds of the default and of every listed value holds of what every key shows. -/
theorem look_all {α : Type} (P : α → Bool) (d : α) (m : Sparse α) (hd : P d = true) (h : m.all (fun x => P x.2) = true) (i : Nat) :
    P (look d m i) = true := by
  induction m with
  | nil => exact hd
  | cons x m ih =>
    obtain ⟨j, v⟩ := x
    simp only [List.all_cons, Bool.and_eq_true] at h
    simp only [look]
    split
    · exact h.1
    · exact ih h.2

/-- A queue that waits for a slot. -/
def pendingQueue : Queue := { Queue.reset with ringBase := 0x10000, ringLog2 := 4, enabled := true, state := .pending, producer := 1 }

/-- n ACTIVE queues, each in the slot of its number. -/
def holders (n : Nat) : Sparse Queue :=
  (List.range n).map (fun i => (i, { pendingQueue with state := .active, slot := some (BitVec.ofNat 12 i) }))

theorem holders_slots (n : Nat) (h : n ≤ 4096) : (holders n).filterMap (fun u => u.2.slot.map (·.toNat)) = List.range n := by
  have go : ∀ l : List Nat, (∀ x ∈ l, x < 4096) →
      (l.map (fun i => (i, { pendingQueue with state := .active, slot := some (BitVec.ofNat 12 i) }))).filterMap
        (fun u : Nat × Queue => u.2.slot.map (·.toNat)) = l := by
    intro l
    induction l with
    | nil => intro _; rfl
    | cons x l ih =>
      intro hl
      have hx := hl x (by simp)
      have hm : (BitVec.ofNat 12 x).toNat = x := by rw [BitVec.toNat_ofNat]; omega
      rw [List.map_cons, List.filterMap_cons]
      simp only [Option.map_some, hm]
      rw [ih (fun y hy => hl y (by simp [hy]))]
  exact go _ (fun x hx => by have := List.mem_range.mp hx; omega)

/-- The free slots, from the list of slots held. -/
theorem freeSlots_of (d : Dev) (l : List Nat) (h : d.fe.queues.filterMap (fun u : Nat × Queue => u.2.slot.map (·.toNat)) = l) :
    d.freeSlots = (List.range 4096).filter (fun n => !l.contains n) := by
  subst h; rfl

/-- Every slot but 4095 is held, and queue 4095 waits. -/
def oneFree : Dev := { dev0 with fe := { dev0.fe with queues := holders 4095 ++ [(4095, pendingQueue)] } }

theorem oneFree_slots : (on oneFree).dev.freeSlots = [4095] := by
  have hq : (on oneFree).dev.fe.queues = holders 4095 ++ [(4095, pendingQueue)] := rfl
  have hs : ∀ n, List.range (n + 1) = List.range n ++ [n] := fun n => List.range_succ
  have h1 : ∀ n, (List.range n).filter (fun m => !(List.range n).contains m) = [] := by
    intro n; rw [List.filter_eq_nil_iff]; intro a ha; simp [List.mem_range.mp ha]
  have h2 : ∀ n, [n].filter (fun m => !(List.range n).contains m) = [n] := by
    intro n; simp
  rw [freeSlots_of _ (List.range 4095) (by
    rw [hq, List.filterMap_append, holders_slots 4095 (by decide)]; exact List.append_nil _), hs 4095, List.filter_append, h1, h2]
  exact List.nil_append _

/-- Every slot is held, for 1 ms, and queue 4096 waits. -/
def noneFree : Dev :=
  { dev0 with time := { dev0.time with ft := 16000000 }, fe := { dev0.fe with queues := holders 4096 ++ [(4096, pendingQueue)] } }

theorem noneFree_slots (f : QueueRun → QueueRun) : (on (modRun 3 f noneFree)).dev.freeSlots = [] := by
  have hq : (on (modRun 3 f noneFree)).dev.fe.queues = holders 4096 ++ [(4096, pendingQueue)] := rfl
  have h1 : ∀ n, (List.range n).filter (fun m => !(List.range n).contains m) = [] := by
    intro n; rw [List.filter_eq_nil_iff]; intro a ha; simp [List.mem_range.mp ha]
  rw [freeSlots_of _ (List.range 4096) (by
    rw [hq, List.filterMap_append, holders_slots 4096 (by decide)]; exact List.append_nil _), h1]


/-- An event held. -/
def ev0 : Event := { stamp := 9, code := 0x9001, source := 0x8001, seq := 4, detail := zeros 40 }

/-- Queue 3 parked on fence 7, which holds what it waits for. -/
def parked3 : Dev :=
  { (modQueue 3 (fun u => { u with state := .parked, slot := none })
      (busy (cmdOf (mk 64 [(0, 1, 6), (0x10, 8, 7), (0x18, 8, 5), (0x21, 1, 1)]) (.waiting 0)) (fenced7 dev0))) with
    fe := { (modQueue 3 (fun u => { u with state := .parked, slot := none })
      (busy (cmdOf (mk 64 [(0, 1, 6), (0x10, 8, 7), (0x18, 8, 5), (0x21, 1, 1)]) (.waiting 0)) (fenced7 dev0))).fe with pollList := [3] } }

theorem parked3_alone : ∀ i, i ≠ 3 → ((on parked3).dev.queue i).state ≠ .active := by
  intro i _
  exact of_decide_eq_true (look_all (fun u : Queue => decide (u.state ≠ .active)) Queue.reset (on parked3).dev.fe.queues (by decide) (by decide +kernel) i)

/-- A load image of one core, logical 0, with one entry point and barrier channel 1 bound to the core. -/
def img0 : LoadImage :=
  { builtFor := 40, cores := [0], threadMode := false, banks := [], accesses := [], fillings := [], matrix := [],
    weightSwaps := [], tileClashes := [], arrivals := [], conversions := [], reductions := [], vectorSums := [], xsAdds := [],
    routes := [], outControls := [], preemptible := false, preemptLimit := 0, preemptGap := 0, saveBanks := [], lendBanks := [],
    lendSlots := [], towers := [], chunkRecords := 256, microBatches := [], orders := [], gaps := [], scheduleEnd := 100, bubbles := [],
    rowSpans := [], streams := [], swaps := [], outThenIn := [],
    waitEdges := [], carriesTransient := false, overwritesInputs := false, readyNorth := 0, readySouth := 0, layouts := [],
    entries := [0], constAt := 0, contents := [], deferred := [], group := none, channels := [(1, [0])], features := [],
    owned := [] }

/-- Its version 1. -/
def ver1 : ImageVersion := { number := 1, state := .newest, users := 0, image := img0, checkedDet := false }

/-- dev0 with the map of row 0 built: logical cores 0 to 39 on positions 0 to 39. -/
def dev1 : Dev :=
  { dev0 with mesh := { Mesh.reset with
      mapBuilt := true
      cores := (List.range 42).map (fun i => (i, { Core.reset with entry := { CoreEntry.reset with
        logical := if i < 40 then BitVec.ofNat 11 i else 0x7FF, state := if i < 40 then .active else .spare } })) } }

/-- dev1 with image 5 loaded. -/
def dev5 : Dev := modImage 5 (fun o => { o with loaded := true, versions := [ver1] }) dev1

/-- A job of core 0 for the command at index 0 of queue 3. -/
def job0 : Job :=
  { queue := 3, index := 0, cores := [0], held := false, lateSlots := [], heldSince := 0, arrivals := [], preempted := false,
    saved := [], killed := false, latched := [], groupArr := none, checkpoint0 := [], checkpoint1 := [], slot := false,
    segment := 0, attempts := 0, preemptedAt := 0, restoredAt := 0, cycle := 0, restartCycle := 0,
    route := [], sinks := [], flits := [], lateDense := [], overruns := [], stepClosed := false }

/-- dev5 with that job running for a LAUNCH of image 5. -/
def running (j : Job) : Dev :=
  { (busy (cmdOf (mk 320 [(0, 1, 1), (0x10, 4, 5)]) (.launch 5 1 [0] [])) dev5) with
    mesh := { (busy (cmdOf (mk 320 [(0, 1, 1), (0x10, 4, 5)]) (.launch 5 1 [0] [])) dev5).mesh with jobs := [j] } }

/-- The bytes of an ensemble of one code feature and one leaf, without its check, then with it. -/
def ensBytes : List Byte :=
  (fun h => h.take 0x70 ++ leBytes 4 (crc32c h).toNat ++ h.drop 0x74)
    (mk 0x504 [(0, 4, 0x4E45514C), (4, 2, 1), (6, 1, 1), (8, 1, 1), (0xA, 1, 0xFF), (0xC, 4, 1), (0x10, 4, 1), (0x14, 4, 1),
      (0x20, 8, 0x504), (0x28, 8, 0x100), (0x38, 8, 0x200), (0x40, 8, 0x300), (0x50, 8, 0x400), (0x58, 8, 0x500),
      (0x106, 1, 2), (0x204, 4, 1), (0x303, 1, 0x10), (0x400, 4, 7)])

/-- What they hold. -/
def ens0 : Ensemble :=
  { fixedPoint := true, scale := 0, outputs := 1, transform := 0, decisionOut := 0xFF,
    features := [{ bounds := [], rawFmt := 2, wide := false, missEn := false, missValue := 0 }],
    trees := [{ symmetric := false, depth := 0, words := [0x10000000], leaves := 1 }], catmaps := [], leaves := [[7]], base := [0],
    pwl := [], decision := none }

/-- dev1 with ensemble 1 present, that content its current version 1. -/
def devE : Dev :=
  modEns 1 (fun _ => { present := true, current := 1, era := 0, versions := [{ number := 1, content := ens0, batches := 0, addr := 0, bytes := 0, era := 0 }] }) dev1

/-- A layout of one core, 64 records, the raw results in bank 4. -/
def layBytes : List Byte :=
  mk 64 [(0, 1, 1), (1, 1, 2), (4, 4, 1), (8, 2, 1), (10, 2, 2), (12, 2, 4), (14, 2, 8), (18, 2, 16), (0x1B, 1, 1)]

/-- A table: 100 rows of 16 LF16, SGD, staging of 16 slots. -/
def tabBytes : List Byte :=
  mk 64 [(0, 8, 100), (8, 2, 16), (0xA, 1, 1), (0xB, 1, 1), (0x28, 4, 0xFFFFFFFF), (0x2C, 4, 16)]

/-- dev1 with that table as table 9. -/
def devT : Dev := modTable 9 (fun t => { t with desc := some (parseTable tabBytes) }) dev1

/-- A port's configuration: untagged, an IPv4 address. -/
def portBytes : List Byte :=
  mk 64 [(0, 6, 0x0102030405FE), (8, 4, 0x0100000A), (0xC, 1, 1), (0x28, 4, 0x100000), (0x2C, 4, 0x40000), (0x30, 8, 0x100000)]

/-- dev1 with port 2 configured. -/
def devP : Dev :=
  modPort 2 (fun p => { p with cfg := some (parsePort portBytes) })
    (modLink 2 (fun l => { l with reg := { l.reg with state := .ethernet, enable := false } }) dev1)

/-- A service entry of one group on its layout at 0x2000, for a queue. -/
def entBytes : List Byte := mk 64 [(0, 8, 0x2000), (0xC, 4, 0x40003), (0x14, 2, 1), (0x16, 2, 1), (0x1A, 1, 1)]

/-- devE with the layout in memory and entry 6 written. -/
def devS : Dev :=
  modServ 6 (fun x => { x with cfg := some (parseEntry entBytes), raw := entBytes }) (setCells 0x2000 layBytes devE)

theorem unused_features : ∀ i, (on dev0).dev.featureUsed i = false := by
  intro i
  unfold Dev.featureUsed
  split <;> rfl

/-- A descriptor of n raw elements of 64 bytes, 4 to a half of 256 bytes in banks 0 and 1. -/
def descB (kind out next gen addr n : Nat) : List Byte :=
  mk 128 [(0, 8, addr), (8, 1, kind), (9, 1, out), (0xA, 1, 0xF), (0xB, 1, 0xF), (0xE, 2, gen), (0x10, 4, n), (0x14, 4, 1),
    (0x18, 4, 1), (0x1C, 4, 1), (0x20, 4, 1), (0x28, 8, 64), (0x54, 4, 0x10000), (0x58, 4, 256), (0x64, 2, 64), (0x66, 2, next)]

/-- Slot 0 on d working a descriptor. -/
def slot0 (b : List Byte) (f : Slot → Slot) (d : Dev) : Dev :=
  modSlot 0 (fun x => f { x with state := .active, desc := some (parseDesc b), released := 1 }) d

/-- A COPY of two stages on slots 0 and 1 of core 0, from 0x4000 to 0x8000. -/
def copyB : List Byte := mk 64 [(0, 1, 5), (0x13, 1, 2)] ++ descB 0 0 1 0 0x4000 8 ++ descB 0 1 0x3FFF 0 0x8000 8

/-- dev1 as module 0 of a fabric of two, with group 1 of both. -/
def devF : Dev :=
  modGroup 1 (fun g => { g with box := some { loX := 0, hiX := 1, loY := 0, hiY := 0, loZ := 0, hiZ := 0 } })
    { dev1 with fabric := { Fabric.reset with cfg := { FabricCfg.reset with configured := true, sizeX := 2 } } }

/-- The device d, with the jobs of `running job0`. -/
def withJob (d : Dev) : Dev := { d with fe := (running job0).fe, mesh := { d.mesh with jobs := [job0] } }

/-- A SCORE of 100 records of codes at 0x4000 on the layout at 0x2000, the results at 0x8000. -/
def scoreB : List Byte :=
  mk 64 [(0, 1, 2), (0x10, 8, 0x2000), (0x18, 8, 0x4000), (0x20, 8, 0x8000), (0x30, 4, 100), (0x34, 2, 0xFFFF)]

/-- The layout of `layBytes`. -/
def lay0 : Layout := parseLayout layBytes

/-- A batch of that SCORE at one step of a layout. -/
def batch0 (l : Layout) (step : Nat) : Batch :=
  { source := .score 3 0 0, layout := l, version := 1, records := [{ codes := [0], poisoned := false, spoilt := false, reached := [], sums := [], partials := [] }],
    datagrams := [], step := step, deadline := none, missed := false, flags := 0, replays := 0, admitted := 0, preempts := none,
    window := false, number := 1, bad := [], era := 0, load := false, due := [] }

/-- devS with the SCORE running, its state w, and group 0 as g says. -/
def scoring (w : Work) (g : ScoreGroup) : Dev := modSGroup 0 (fun _ => g) (busy (cmdOf scoreB w) devS)

/-- A growth schedule of one record and three trees a round on core 0. -/
def schedB : List Byte :=
  mk 256 [(0, 4, 1), (4, 4, 1), (0xA, 1, 2), (0xC, 2, 3), (0xE, 2, 1), (0x10, 4, 100), (0x20, 4, 0x3F800000), (0x24, 4, 0x3F800000),
    (0x2D, 1, 1), (0x30, 4, 1), (0x34, 4, 0xFFFFFFFF), (0x38, 8, 0x2000), (0x68, 8, 0x40000), (0x70, 8, 0x20000), (0x78, 8, 0x10000),
    (0x80, 8, 0x1000), (0x88, 1, 4)]

/-- A GROW of session 2 with an operation. -/
def growB (op : Nat) : List Byte := mk 64 [(0, 1, 3), (0x10, 8, 0x1000), (0x18, 8, 0x8000), (0x20, 1, 2), (0x21, 1, op)]

/-- Session 2 in a round of that schedule. -/
def sess0 : Session :=
  { Session.reset with
    isOpen := true, queue := 3, sched := some (parseSchedule schedB), inRound := true, base := 1, outputs := 1, fixedPoint := true,
    scoresValid := true, tree := some (.frontier 0, 0), totals := [(Xs.zero, Xs.zero)] }

/-- devE with the schedule in memory and the session open. -/
def devG : Dev := modSession 2 (fun _ => sess0) (setCells 0x1000 schedB devE)

/-- A report of session 2 so far. -/
def report0 : GrowReport :=
  { session := 2, op := 1, events := 0, level := 0, tree := 0, split := 0, leaves := 0, version := 0, base := 1, first := 0, placed := 0,
    replFirst := 0, replaced := 0, excluded := 0, reject := 0, hist := 0 }

/-- An EMB_STEP of step 5 on one entry at 0x2000. -/
def embB (op flags : Nat) : List Byte :=
  mk 64 [(0, 1, 4), (0x10, 8, 5), (0x18, 8, 0x2000), (0x20, 2, 1), (0x22, 1, op), (0x23, 1, flags)]

/-- devT with that entry, for table 9, in memory and the table's open step. -/
def devT5 (step : Option U64) : Dev :=
  modTable 9 (fun t => { t with step := step }) (setCells 0x2000 (mk 16 [(0, 2, 9), (4, 4, 0x3F800000), (8, 4, 0x3F800000)]) devT)

/-- A deferred item of owner core 1. -/
def item0 (kind : Byte) : DeferItem := { kind := kind, layer := 1, micro := 0, kTile := 2, nTile := 3, owner := 1, cycles := 256, chunk := 7, ready := 0 }

/-- dev1 with items in the lists of core 0. -/
def devD (array vector : List DeferItem) : Dev :=
  modCore 0 (fun c => { c with dense := { c.dense with array := array, vector := vector } }) dev1

/-- A contribution of core 7 to the chunk of `item0`. -/
def contrib0 : Contribution :=
  { chunk := { kind := 1, layer := 1, kTile := 2, nTile := 3, chunk := 7, second := false }, sender := 7, values := [] }

/-- The operands of a deferred sum of one record: lines of LF32 at 0 and at 0x1000. -/
def deferOp0 : DeferOp :=
  { fmt := .lf32, leftAt := 0, leftStride := 256, rightAt := 0x1000, rightStride := 256, records := 1, control := 0,
    rnd := .nearestEven, row := 0, lmErrors := [], instr := 0 }

/-- Link 8, the first of the + face of X, ACTIVE and live. -/
def linked (d : Dev) : Dev := modLink 8 (fun l => { reg := { l.reg with state := .active }, run := { l.run with live := true } }) d

/-- A flit from module 1. -/
def flit0 (type : BitVec 4) (target : BitVec 41) (payload : List Byte) : Flit :=
  { stamp := 0, dest := 0, type := type, seq := 0, dateline := false, cls := true, poison := 0, len := BitVec.ofNat 8 payload.length,
    target := target, payload := payload, origin := 1, flowKey := 0, fec := 0 }

/-- A GATHER of row 99 of table 9 to core 0. -/
def gatherB : List Byte := mk 32 [(0, 1, 1), (2, 2, 9), (8, 8, 99)]

/-- A collective of group 1 over 100 elements. -/
def coll0 : Collective :=
  { descriptor := mk 64 [(0, 4, 1), (8, 8, 100), (0x10, 8, 0x4000), (0x18, 8, 0x5000), (0x20, 8, 1)], crc := 77, owner := none, values := [],
    poison := [], phase := 0, step := 0, lines := [], inbox := [], told := [], failed := false }

/-- Module 1 of a line of three, its links 0 and 8 up. -/
def devM : Dev :=
  linked (modLink 0 (fun l => { reg := { l.reg with state := .active }, run := { l.run with live := true } })
    { dev1 with fabric := { Fabric.reset with cfg := { FabricCfg.reset with configured := true, sizeX := 3, moduleId := 1 } } })

/-- devF with link 8 in a state. -/
def linkIn (st : LState) : Dev := modLink 8 (fun l => { l with reg := { l.reg with state := st } }) devF

/-- What training link 8 of module 0 finds, with one bad lane. -/
def train0 : TrainResult :=
  { laneOrder := [3, 2, 1, 0], inverted := 0, badLanes := 1, peerId := 1, peerFace := 0, peerLink := 0, roundTrip := 0 }

/-- devP with the port up. -/
def devU : Dev := modPort 2 (fun p => { p with up := true }) devP

/-- An ARP request for 10.0.0.1, of the least length. -/
def arpFrame : List Byte :=
  List.replicate 6 0xFF ++ [2, 0, 0, 0, 0, 9, 8, 6, 0, 1, 8, 0, 6, 4, 0, 1, 2, 0, 0, 0, 0, 9, 10, 0, 0, 9] ++ zeros 6 ++ [10, 0, 0, 1] ++ zeros 18

/-- A datagram's data: a request of one record of one code. -/
def udpData : List Byte := mk 40 [(0, 2, 0x5153), (2, 1, 1), (4, 2, 1), (6, 2, 8)]

/-- An IPv4 header of a UDP datagram of 48 bytes, without its checksum. -/
def ipHead (sum : List Byte) : List Byte := [0x45, 0, 0, 68, 0, 0, 0, 0, 64, 17] ++ sum ++ [10, 0, 0, 9, 10, 0, 0, 1]

/-- Its frame. -/
def udpFrame : List Byte :=
  [0xFE, 5, 4, 3, 2, 1, 2, 0, 0, 0, 0, 9, 8, 0] ++ ipHead (beBytes 2 (inetSum (ipHead [0, 0]))) ++
    (beBytes 2 4000 ++ beBytes 2 5000 ++ beBytes 2 48 ++ [0, 0]) ++ udpData

/-- devU with entry 6 listening on UDP port 5000 of port 2. -/
def devL : Dev :=
  modServ 6 (fun x => { x with cfg := some { parseEntry entBytes with ports := 4, udpPort := 5000 }, state := .enabled, layout := some lay0 })
    { devU with scoring := devE.scoring }

/-- devU with PTP on the port. -/
def devPtp : Dev := modPort 2 (fun p => { p with cfg := some { parsePort portBytes with flags := 5 } }) devU

/-- The start of the module with an input in range. -/
def env0 : StartEnv := { inputMv := 44000, reversed := false, regulatorFail := false, trainingFail := false }

/-- A self-test that finds nothing. -/
def test0 : SelfTest := { badCores := [], badRouterRows := [], badRegulatorRows := [], sharedFail := false }

/-- A cold start at step n. -/
def starting (n : BitVec 4) : Dev :=
  { dev0 with power := { dev0.power with state := .starting }, start := { Start.reset with running := true, step := n } }
/-- Whether what this module sends to another goes out on link m at once. -/
def directB (d : Dev) (dest m : Nat) : Bool :=
  decide (dest < 2 ^ 14) && d.reachable dest &&
    (match nextHop d.fabric.cfg [] d.fabric.cfg.moduleId.toNat dest with
      | some (dim, plus) => decide (d.liveLinks (faceOf dim plus) = [m])
      | none => false) &&
    decide ((d.link m).reg.state = .active) && (List.range 4).all (fun k => decide (0 < (d.link m).run.credits.getD k 0)) &&
    decide ((d.link m).run.unacked.length < 512)

theorem direct_of (d : Dev) (dest m : Nat) (h : directB d dest m = true) : Direct d dest m := by
  simp only [directB, Bool.and_eq_true, decide_eq_true_eq] at h
  obtain ⟨⟨⟨⟨⟨h1, h2⟩, h3⟩, h4⟩, h5⟩, h6⟩ := h
  refine ⟨h1, h2, ?_, h4, ?_, h6⟩
  · split at h3
    · rename_i dim plus heq; exact ⟨dim, plus, heq, of_decide_eq_true h3⟩
    · cases h3
  · intro k hk
    have := List.all_eq_true.mp h5 k (List.mem_range.mpr hk)
    exact of_decide_eq_true this

theorem noRetry_of (d : Dev) (h : d.fe.runs.all (fun r => r.2.running.all (fun c => match c.work with
    | .growRetry _ => false
    | _ => true)) = true) : NoRetry d := by
  intro q c hc n e
  have h1 := look_all (fun r : QueueRun => r.running.all (fun c => match c.work with
    | .growRetry _ => false
    | _ => true)) QueueRun.reset d.fe.runs rfl h q
  have h2 := List.all_eq_true.mp h1 c (List.mem_filter.mp hc).1
  rw [e] at h2
  cases h2

theorem of_none {α : Type} {x : Option α} {P : α → Prop} (h : x.isNone = true) : ∀ j, x = some j → P j := by
  intro j hj
  subst hj
  cases h

theorem of_some {α : Type} {x : Option α} {P : α → Prop} (y : α) (h : x = some y) (hp : P y) : ∀ j, x = some j → P j := by
  intro j hj
  rw [h] at hj
  cases hj
  exact hp

theorem of_none2 {α β : Type} {x : Option α} {P : α → β → Prop} (h : x.isNone = true) : ∀ j v, x = some j → P j v := by
  intro j v hj
  subst hj
  cases h

/-- The state that a command leaves. -/
def after (c : Instr) (s : State) : State :=
  match exec c s with
  | .next t => t
  | _ => s

theorem exec_after (c : Instr) (s : State) (h : (match exec c s with
    | .next _ => true
    | _ => false) = true) : exec c s = .next (after c s) := by
  unfold after
  revert h
  cases exec c s with
  | next t => intro _; rfl
  | fault r => intro h; cases h
  | refused r => intro h; cases h

theorem of_some2 {α β : Type} {x : Option α} {P : α → β → Prop} (y : α) (h : x = some y) (hp : ∀ v, P y v) : ∀ j v, x = some j → P j v := by
  intro j v hj
  rw [h] at hj
  cases hj
  exact hp v

/-- Fence 7 of another queue. -/
def otherFence (d : Dev) : Dev := setFence 7 { registered := true, producer := 4, value := 5 } d

/-- A trace region with one record of a request, while REPLAY is set. -/
def tracing : Dev :=
  setCells 256 (mk 32 [(8, 1, 0x16), (0xC, 4, 0)]) { dev0 with
    mode := { dev0.mode with traceCtl := 2 }
    journal := { dev0.journal with region := some (0, 0x100000), traceRecords := 1, injectOff := 256 } }

/-- The bytes of a LAUNCH of image 5. -/
def launchB : List Byte := mk 320 [(0, 1, 1), (0x10, 4, 5)]

/-- dev5 whose core 0 runs an image for a LAUNCH of queue 4. -/
def lender (im : LoadImage) : Dev :=
  modRun 4 (fun r => { r with running := [cmdOf launchB (.launch 5 1 [0] [])] })
    (modImage 5 (fun o => { o with versions := [{ ver1 with image := im }] })
      { dev5 with mesh := { dev5.mesh with jobs := [{ job0 with queue := 4 }] } })

/-- dev1 with position 3 fenced by a command. -/
def fenced3 : Dev := modCore 3 (fun c => { c with entry := { c.entry with state := .fenced, cause := 5, logical := 0x7FF } }) dev1

/-- Local memory of core 0 with bytes at 0x80. -/
def withLm (b : List Byte) (d : Dev) : Dev := modCore 0 (fun c => { c with lm := putAll 0 [] 0x80 b }) d

/-- Module 1 of a fabric of two, whose job of core 0 runs an image of group 1 of both. -/
def grouped (j : Job) : Dev :=
  modGroup 1 (fun g => { g with box := some { loX := 0, hiX := 1, loY := 0, hiY := 0, loZ := 0, hiZ := 0 } })
    { modImage 5 (fun o => { o with versions := [{ ver1 with image := { img0 with group := some 1 } }] }) (running j) with
      fabric := { Fabric.reset with cfg := { FabricCfg.reset with configured := true, sizeX := 2, moduleId := 1 } } }

/-- devF as module 1. -/
def devF1 : Dev := { devF with fabric := { devF.fabric with cfg := { devF.fabric.cfg with moduleId := 1 } } }

/-- Core 0 in thread mode, thread 0 as f makes it. -/
def threaded (f : Thread → Thread) : Dev :=
  modCore 0 (fun c => { c with entry := { c.entry with thread := true }, threads := [(0, f Thread.reset)] }) dev1

/-- A blocking read of thread 0 of 64 bytes to address 0. -/
def farFrom (x : FarSrc) : FarRead := { src := x, bytes := 64, dest := 0, arrived := none }

/-- Core 0 of devE under a job whose image gives it bank 0 for its program and bank 2 for the node half A, which holds the one
tree of `ens0`. -/
def squirreling : Dev :=
  modCore 0 (fun c => { c with lm := putAll 0 [] 0x20000 (leBytes 8 0x710000000) })
    { (lender { img0 with banks := [{ core := 0, bank := 0, owner := .program, retained := false },
        { core := 0, bank := 2, owner := .nodeHalf false, retained := false }] }) with scoring := devE.scoring }

/-- A Squirrel instruction over one record of codes at 0, its leaf at 0x1000. -/
def squirrelOp0 : SquirrelOp :=
  { ensemble := 1, version := 1, nodeB := false, treeFirst := 0, treeCount := 1, raw := false, boundsAt := 0, records := 0, count := 1,
    keys := 0, keyFirst := 0, keyLast := 0, keysAt := 0, leavesAt := 0x1000, writeCodes := false, instr := 0, lmErrors := [] }

/-- A tensor 1 of layer 1 whose sums are of a kind, with room for its weights at 0x8000. -/
def tensor0 (kind : Fin 6) : TensorDecl :=
  { id := 1, layer := 1, kind := kind, k := 64, n := 64, sharded := false, fmt := .lf32, rnd := .nearestEven, sat := false, opt := 1, mu := 0,
    eps := 0, base := 0, lrAt := 0, scaleAt := 4, fwdSlots := List.replicate 4 0x8000, bwdSlots := List.replicate 4 0xC000,
    fwdHalves := (0x20000, 0x24000), bwdHalves := (0x28000, 0x2C000), fwdSteps := (0, 0), bwdSteps := (0, 0) }

/-- A stage of core 0 with that tensor. -/
def stage0 (t : TensorDecl) : StageDecl := { first := 0, size := 1, tensors := [t] }

/-- A tower of one stage whose stash header lies at 0x6000. -/
def tower0 (t : TensorDecl) : TowerDecl :=
  { header := 0x6000, micro := false, lag := 0, u := 0, perStep := 1, stages := [stage0 t], updates := [], contribs := [] }

/-- `running j` with a tower of that tensor in its image, core 0's dense part as f makes it and the tower's stash. -/
def denseOf (t : TensorDecl) (j : Job) (f : Dense → Dense) (x : Stash) : Dev :=
  (fun d : Dev => { d with mesh := { d.mesh with stashes := [(0x6000, x)] } })
    (modCore 0 (fun c => { c with dense := f c.dense })
      (modImage 5 (fun o => { o with versions := [{ ver1 with image := { img0 with towers := [tower0 t] } }] }) (running j)))

/-- A stash whose slot 0 holds version 0 and whose slot 1 is free, after n steps. -/
def stash0 (n : Nat) : Stash :=
  { Stash.reset with header := 0x6000, slots := [{ version := 0, state := 1 }, { version := 0, state := 0 }], steps := n }

/-- An array step of INT8 on the last 64 bytes of local memory into the last tile row, FIRST set. -/
def arrayOp0 : ArrayOp :=
  { left := .int8, weight := .int8, addr := 0xFFFC0, row := 511, k0 := 0, kEnd := 64, columns := 32, ctl := 8, instr := 0, lmErrors := [] }

/-- devT5 with row 99 of table 9 staged. -/
def devTS : Dev :=
  modTable 9 (fun t => { t with staging := [freshStaged (parseTable tabBytes) (devT.rowChannel 9 (parseTable tabBytes) 99) 0 99 5] }) (devT5 (some 5))

/-- A scatter to row 99 of table 9 in step 5. -/
def scatterB : List Byte := mk 128 [(0, 1, 2), (2, 2, 9), (4, 4, 5), (8, 8, 99)]

/-- A GROW of session 2 that grows a level and restages. -/
def restageB : List Byte := mk 64 [(0, 1, 3), (0x10, 8, 0x1000), (0x18, 8, 0x8000), (0x20, 1, 2), (0x21, 1, 0), (0x22, 1, 1)]

/-- devG with four live versions of its ensemble, each with a running batch. -/
def devGfull : Dev :=
  modEns 1 (fun o => { o with versions := (List.range 4).map (fun n =>
    { number := BitVec.ofNat 32 (n + 1), content := ens0, batches := 1, addr := 0, bytes := 0, era := 0 }) }) devG

/-- coll0 as a BROADCAST of one element from module 1. -/
def coll1 : Collective :=
  { coll0 with descriptor := mk 64 [(0, 4, 1), (4, 1, 3), (8, 8, 1), (0x10, 8, 0x4000), (0x18, 8, 0x5000), (0x20, 8, 1), (0x28, 2, 1)] }

/-- devF with a collective of group 1 running. -/
def collecting (c : Collective) : Dev := linked (modGroup 1 (fun g => { g with running := some c }) devF)

/-- The box of modules 0 and 1. -/
def box01 : Box := { loX := 0, hiX := 1, loY := 0, hiY := 0, loZ := 0, hiZ := 0 }

/-- The first step of a collective of that box at module 0. -/
def step0 (c : Collective) : RingStep :=
  ((parseColl c.descriptor).ringStep box01 0 c).getD { pred := 0, succs := [], goes := [], comes := [], copies := false, steps := 0 }

/-- A flit of a collective of group 1: its line, the SEQ, phase, step and flags of its trailer, with the CRC of `coll0`. -/
def collFlit (line seq phase step flags : Nat) : Flit :=
  flit0 8 (BitVec.ofNat 41 (4096 * line + 1)) (zeros 64 ++ mk 9 [(0, 4, 77), (4, 2, seq), (6, 1, phase), (7, 1, step), (8, 1, flags)])

/-- A flit of a barrier of group 1: direction and SEQ. -/
def barFlit (down seq : Nat) : Flit := flit0 9 0 (mk 16 [(0, 4, 1), (4, 1, down), (8, 8, seq)])

/-- devF whose group 1 has a barrier. -/
def barred (x : GroupBarrier) : Dev := linked (modGroup 1 (fun g => { g with barrier := x }) devF)

/-- devM with group 1 of its line of three, which has a barrier. -/
def barredM (x : GroupBarrier) : Dev :=
  modGroup 1 (fun g => { g with box := some { loX := 0, hiX := 2, loY := 0, hiY := 0, loZ := 0, hiZ := 0 }, barrier := x }) devM

/-- devF whose link 8 keeps a flit with SEQ 1 for n resends. -/
def keeping (n : Nat) : Dev :=
  modLink 8 (fun l => { l with run := { l.run with unacked := [{ flit0 13 0 (zeros 8) with seq := 1 }], resends := n } }) (linked devF)

/-- A UDP datagram of `udpData` to a port, as a frame to the MAC of `portBytes`. -/
def udpTo (port : Nat) : List Byte :=
  [0xFE, 5, 4, 3, 2, 1, 2, 0, 0, 0, 0, 9, 8, 0] ++ ipHead (beBytes 2 (inetSum (ipHead [0, 0]))) ++
    (beBytes 2 4000 ++ beBytes 2 port ++ beBytes 2 48 ++ [0, 0]) ++ udpData

/-- What the header of that frame gives, and its datagram. -/
def pktTo (port : Nat) : Pkt :=
  { dst := [0xFE, 5, 4, 3, 2, 1], src := [2, 0, 0, 0, 0, 9], tag := none, type := 0x800, body := (udpTo port).drop 14 }

def udp0 (port : Nat) : Udp :=
  { v6 := false, src := [10, 0, 0, 9], dst := [10, 0, 0, 1], dscp := 0, sport := 4000, dport := port, data := udpData }

/-- Two link-local IPv6 addresses. -/
def ip6 (n : Byte) : List Byte := [0xFE, 0x80] ++ zeros 13 ++ [n]

/-- A neighbour solicitation for address 1 from address 2. -/
def solicitFrame : List Byte :=
  (fun icmp : List Byte → List Byte =>
    [0xFE, 5, 4, 3, 2, 1, 2, 0, 0, 0, 0, 9, 0x86, 0xDD] ++ [0x60, 0, 0, 0, 0, 24, 58, 255] ++ ip6 2 ++ ip6 1 ++
      icmp (beBytes 2 (inetSum (pseudo true (ip6 2) (ip6 1) 58 24 ++ icmp [0, 0]))))
    (fun sum => [135, 0] ++ sum ++ zeros 4 ++ ip6 1)

/-- The configuration of `portBytes` with IPv6 in place of IPv4. -/
def cfg6 : PortCfg := { parsePort portBytes with flags := 2, ipv6 := ip6 1 }

/-- A datagram of n records that waits in an open batch. -/
def gram0 (n : Nat) : Datagram := { port := 2, frame := udpTo 5000, records := n, requestId := 0, clientTime := 0, tIn := 0, pos := 0 }

/-- devL with datagrams in its open batch, in a state. -/
def devLs (st : EState) (gs : List Datagram) : Dev := modServ 6 (fun x => { x with state := st, openBatch := gs }) devL
/-- States and operands that meet the hypotheses of O1, clause by clause. -/
theorem witness_StepRunsTheFrontCommand :
    (∃ (s : State), s.pending = []) :=
  ⟨State.reset, by decide +kernel⟩

/-- States and operands that meet the hypotheses of O2, clause by clause. -/
theorem witness_EveryCommandAnswers :
    (∃ (c : Instr) (s : State), inBar4 c s = true) ∧
    (∃ (c : Instr) (s : State), inBar4 c s = false) :=
  ⟨⟨.bar4Read 0xFFFFFFFFF ⟨1, []⟩, State.reset, by decide +kernel⟩,
   ⟨.bar4Read 0 ⟨2 ^ 36 + 1, []⟩, State.reset, by decide +kernel⟩⟩

/-- States and operands that meet the hypotheses of O3, clause by clause. -/
theorem witness_CommandsLeaveTheRestOfTheState :
    (∃ (c : Instr) (s : State) (t : State), exec c s = .next t) ∧
    (∃ (c : Instr) (s : State) (t : State), exec c s = .next t ∧ (∀ o w v, c ≠ .registerWrite o w v) ∧ c ≠ .powerBounds ∧ (∀ v e, c ≠ .startWarm v e) ∧ (∀ v e, c ≠ .startCold v e) ∧ (∀ e, c ≠ .auxPowerOn e) ∧ (∀ e, c ≠ .fundamentalReset e) ∧ c ≠ .auxPowerLoss) ∧
    (∃ (c : Instr) (s : State) (t : State), exec c s = .next t ∧ c ≠ .denClockEdge ∧ c ≠ .auxPowerLoss) :=
  ⟨⟨.identify, on (ask (req 1 0x20 []) dev0), after .identify (on (ask (req 1 0x20 []) dev0)), exec_after _ _ (by decide +kernel)⟩,
   ⟨.queueAdmit, State.reset, State.reset, rfl, (by intros; simp), by decide +kernel, (by intros; simp), (by intros; simp), (by intros; simp), (by intros; simp), by decide +kernel⟩,
   ⟨.queueAdmit, State.reset, State.reset, rfl, by decide +kernel⟩⟩

/-- States and operands that meet the hypotheses of O4, clause by clause. -/
theorem witness_StepKeepsTheBoundsLegal :
    (∃ (s : State) (t : State), boundsLegal s.bounds = true ∧ step s = .next t) :=
  ⟨State.reset, State.reset, by decide +kernel, rfl⟩

/-- States and operands that meet the hypotheses of O6, clause by clause. -/
theorem witness_EventRingEnableTakesEffect :
    (∃ (s : State) (v : U64), bitOf v.toNat 0 = true ∧ s.dev.events.enable = false) ∧
    (∃ (s : State) (v : U64), bitOf v.toNat 0 = true ∧ s.dev.events.enable = true) ∧
    (∃ (s : State) (o : BitVec 24) (wide : Bool) (_v : U64), s.dev.denRuns = true ∧ s.dev.events.enable = true ∧ (o = 0x5000 ∨ (o = 0x5004 ∧ wide = false))) ∧
    (∃ (s : State) (_wide : Bool) (_v : U64), s.dev.denRuns = true ∧ s.dev.events.enable = true) ∧
    (∃ (_s : State) (v : U64), bitOf v.toNat 0 = false) :=
  ⟨⟨on dev0, 0xFFFF0001, by decide +kernel⟩,
   ⟨on { dev0 with events := { dev0.events with enable := true } }, 1, by decide +kernel⟩,
   ⟨on { dev0 with events := { dev0.events with enable := true } }, 0x5004, false, 1, by decide +kernel⟩,
   ⟨on { dev0 with events := { dev0.events with enable := true } }, true, 7, by decide +kernel⟩,
   ⟨on dev0, 2, by decide +kernel⟩⟩

/-- States and operands that meet the hypotheses of O8, clause by clause. -/
theorem witness_EventRecordsReachTheRingInOrder :
    (∃ (s : State) (x : Event) (rest : List Event), s.dev.events.held = x :: rest ∧ s.dev.events.enable = true ∧ (s.dev.events.producer - s.dev.events.consumer).toNat < 2 ^ s.dev.events.log2.toNat ∧ s.dev.mode.d3hot = false ∧ s.dev.inWindow (ringSlot s.dev.events) 64 = true) ∧
    (∃ (s : State), (s.dev.events.enable = false ∨ s.dev.mode.d3hot = true ∨ 2 ^ s.dev.events.log2.toNat ≤ (s.dev.events.producer - s.dev.events.consumer).toNat)) ∧
    (∃ (s : State), s.dev.events.lost ≠ 0 ∧ s.dev.events.held.length < 1024) :=
  ⟨⟨on { dev0 with events := { dev0.events with enable := true, base := 0x10000, held := [ev0], producer := 63 } }, ev0, [], by decide +kernel⟩,
   ⟨on dev0, by decide +kernel⟩,
   ⟨on { dev0 with events := { dev0.events with lost := 1 } }, by decide +kernel⟩⟩

/-- States and operands that meet the hypotheses of O9, clause by clause. -/
theorem witness_StickyFlagsAndCapturesClear :
    (∃ (s : State) (p : PosId), (0x30008 + 32 * p.val, 3) ∉ s.dev.cycle.sets) ∧
    (∃ (s : State) (p : PosId), (0x30008 + 32 * p.val, 3) ∈ s.dev.cycle.sets) ∧
    (∃ (s : State) (k : ChanId), (0x50010 + 32 * k.toNat, 32) ∉ s.dev.cycle.sets) ∧
    (∃ (s : State) (k : ChanId), (0x50010 + 32 * k.toNat, 32) ∈ s.dev.cycle.sets) :=
  ⟨⟨on dev0, 5, by decide +kernel⟩,
   ⟨on { dev0 with cycle := { DenCycle.reset with sets := [(0x300A8, 3)] } }, 5, by decide +kernel⟩,
   ⟨on dev0, 255, by decide +kernel⟩,
   ⟨on { dev0 with cycle := { DenCycle.reset with sets := [(0x50010, 32)] } }, 0, by decide +kernel⟩⟩

/-- States and operands that meet the hypotheses of O11, clause by clause. -/
theorem witness_WrongAccessesAreCounted :
    (∃ (_s : State) (_w : Bool) (o : BitVec 24) (n : Nat), ((n = 4 ∨ n = 8) ∧ o.toNat % n = 0)) ∧
    (∃ (_s : State) (_w : Bool) (o : BitVec 24) (n : Nat), (¬((n = 4 ∨ n = 8) ∧ o.toNat % n = 0))) ∧
    (∃ (s : State) (o : BitVec 24) (wide : Bool) (_v : U64), s.dev.denRuns = true ∧ o.toNat % (if wide then 8 else 4) ≠ 0) ∧
    (∃ (s : State) (o : BitVec 24) (_v : U64), s.dev.denRuns = true ∧ o.toNat % 8 = 0 ∧ ((0x6000 ≤ o.toNat ∧ o.toNat < 0x10000) ∨ (0x80000 ≤ o.toNat ∧ o.toNat < 0x100000) ∨ (0x110000 ≤ o.toNat ∧ o.toNat < 0x400000) ∨ 0x580000 ≤ o.toNat)) :=
  ⟨⟨on dev0, true, 12, 4, by decide +kernel⟩,
   ⟨on dev0, false, 12, 8, by decide +kernel⟩,
   ⟨on dev0, 0x3004, true, 0, by decide +kernel⟩,
   ⟨on dev0, 0xFFF8, 1, by decide +kernel⟩⟩

/-- States and operands that meet the hypotheses of O12, clause by clause. -/
theorem witness_PairedWritesTakeTheirComplement :
    (∃ (s : State) (a : Nat) (_v : U64), wpOffsets.contains a = true ∧ s.dev.denRuns = true ∧ s.dev.pair a = PairHalves.reset) ∧
    (∃ (s : State) (a : Nat) (o : Nat) (e : Nat) (v : U64) (c : U64), wpOffsets.contains a = true ∧ s.dev.denRuns = true ∧ ((o = a + 0x800 ∧ s.dev.pair a = { value := some (v, e), complement := none }) ∨ (o = a ∧ s.dev.pair a = { value := none, complement := some (v, e) })) ∧ c = ~~~v) ∧
    (∃ (s : State) (a : Nat) (o : Nat) (e : Nat) (v : U64) (c : U64), wpOffsets.contains a = true ∧ s.dev.denRuns = true ∧ ((o = a + 0x800 ∧ s.dev.pair a = { value := some (v, e), complement := none }) ∨ (o = a ∧ s.dev.pair a = { value := none, complement := some (v, e) })) ∧ c ≠ ~~~v) ∧
    (∃ (s : State) (o : BitVec 12) (v : U64) (e : Nat), (s.dev.pair (0x3000 + o.toNat) = { value := some (v, e), complement := none } ∨ s.dev.pair (0x3000 + o.toNat) = { value := none, complement := some (v, e) }) ∧ e + 1024 ≤ s.dev.time.edges) ∧
    (∃ (s : State) (o : BitVec 12) (v : U64) (e : Nat), (s.dev.pair (0x3000 + o.toNat) = { value := some (v, e), complement := none } ∨ s.dev.pair (0x3000 + o.toNat) = { value := none, complement := some (v, e) }) ∧ s.dev.time.edges < e + 1024) :=
  ⟨⟨on dev0, 0x3068, 1, by decide +kernel⟩,
   ⟨on (setPair 0x3000 { value := none, complement := some (1, 0) } dev0), 0x3000, 0x3000, 0, 1, ~~~1, by decide +kernel⟩,
   ⟨on (setPair 0x3000 { value := some (1, 0), complement := none } dev0), 0x3000, 0x3800, 0, 1, 1, by decide +kernel⟩,
   ⟨on (setPair 0x3000 { value := some (1, 0), complement := none } { dev0 with time := { dev0.time with edges := 1024 } }), 0, 1, 0, by decide +kernel⟩,
   ⟨on (setPair 0x3000 { value := none, complement := some (1, 0) } { dev0 with time := { dev0.time with edges := 1023 } }), 0, 1, 0, by decide +kernel⟩⟩

/-- States and operands that meet the hypotheses of O13, clause by clause. -/
theorem witness_ParityMismatchReloads :
    (∃ (_s : State) (o : BitVec 24), parityCovers o.toNat = true) :=
  ⟨on dev0, 0x60378, by decide +kernel⟩

/-- States and operands that meet the hypotheses of O14, clause by clause. -/
theorem witness_ModeAndTraceWrites :
    (∃ (s : State) (v : U64), s.dev.quiescent = true ∧ (bitOf v.toNat 0 = true → s.dev.agreed 1 = true)) ∧
    (∃ (s : State) (v : U64), (s.dev.quiescent = false ∨ (bitOf v.toNat 0 = true ∧ s.dev.agreed 1 = false))) ∧
    (∃ (s : State) (v : U64) (base : Nat) (n : Nat), bitOf v.toNat 0 = true ∧ bitOf v.toNat 1 = false ∧ s.dev.journal.region = some (base, n) ∧ s.dev.agreed 12 = true ∧ bitOf s.dev.mode.traceCtl.toNat 0 = false) ∧
    (∃ (s : State) (v : U64) (base : Nat) (n : Nat), bitOf v.toNat 1 = true ∧ bitOf v.toNat 0 = false ∧ s.dev.quiescent = true ∧ s.dev.journal.region = some (base, n) ∧ s.dev.agreed 12 = true ∧ bitOf s.dev.mode.traceCtl.toNat 1 = false) ∧
    (∃ (_s : State) (v : U64), bitOf v.toNat 0 = true ∧ bitOf v.toNat 1 = true) ∧
    (∃ (s : State) (base : Nat) (n : Nat) (r : JRecord), s.dev.replaying = true ∧ s.dev.journal.region = some (base, n) ∧ s.dev.journal.injected < s.dev.journal.traceRecords ∧ s.dev.journal.injectOff < n ∧ r = traceRead s.dev (base + s.dev.journal.injectOff) ∧ r.type = 0x16 ∧ s.dev.owl.current = none ∧ (r.stamp - BitVec.ofNat 64 (field (s.dev.bytesAt base 256) 8 8)).toNat ≤ (s.dev.time.ft - s.dev.journal.startedAt).toNat) ∧
    (∃ (s : State) (base : Nat) (n : Nat), s.dev.replaying = true ∧ s.dev.journal.region = some (base, n) ∧ s.dev.journal.traceRecords ≤ s.dev.journal.injected) :=
  ⟨⟨on dev0, 1, by decide +kernel⟩,
   ⟨on (ring (mk 64 []) dev0), 0, by decide +kernel⟩,
   ⟨on { dev0 with journal := { dev0.journal with region := some (0, 0x100000) } }, 1, 0, 0x100000, by decide +kernel⟩,
   ⟨on { dev0 with journal := { dev0.journal with region := some (0, 0x100000) } }, 2, 0, 0x100000, by decide +kernel⟩,
   ⟨on dev0, 3, by decide +kernel⟩,
   ⟨on tracing, 0, 0x100000, traceRead tracing 256, by decide +kernel⟩,
   ⟨on { dev0 with journal := { dev0.journal with region := some (0, 0x100000) }, mode := { dev0.mode with traceCtl := 2 } }, 0, 0x100000, by decide +kernel⟩⟩

/-- States and operands that meet the hypotheses of O15, clause by clause. -/
theorem witness_Bar4AccessesReachDeviceMemory :
    (∃ (s : State) (v : U64), (bits v.toNat 39 28 * 2 ^ 28) % 2 ^ s.dev.mode.bar4Log2 = 0 ∧ (bits v.toNat 39 28 * 2 ^ 28) + 2 ^ s.dev.mode.bar4Log2 ≤ softEnd) ∧
    (∃ (s : State) (v : U64), ((bits v.toNat 39 28 * 2 ^ 28) % 2 ^ s.dev.mode.bar4Log2 ≠ 0 ∨ softEnd < (bits v.toNat 39 28 * 2 ^ 28) + 2 ^ s.dev.mode.bar4Log2)) ∧
    (∃ (s : State) (o : BitVec 40) (x : List Byte), o.toNat + x.length ≤ 2 ^ s.dev.mode.bar4Log2) ∧
    (∃ (s : State) (o : BitVec 40) (x : List Byte), o.toNat + x.length ≤ 2 ^ s.dev.mode.bar4Log2 ∧ s.dev.bar4Addr + 2 ^ s.dev.mode.bar4Log2 ≤ softEnd) ∧
    (∃ (s : State) (o : BitVec 40) (n : Nat), o.toNat + n ≤ 2 ^ s.dev.mode.bar4Log2) ∧
    (∃ (s : State) (o : BitVec 40) (_e : List (List SymbolError)) (x : List Byte) (_p : Bool), s.dev.bar4Addr + 2 ^ s.dev.mode.bar4Log2 ≤ softEnd ∧ o.toNat + x.length ≤ 2 ^ s.dev.mode.bar4Log2) ∧
    (∃ (s : State) (o : BitVec 40) (_e : List (List SymbolError)) (n : Nat), s.dev.bar4Addr + 2 ^ s.dev.mode.bar4Log2 ≤ softEnd ∧ o.toNat + n ≤ 2 ^ s.dev.mode.bar4Log2) :=
  ⟨⟨on dev0, 0x1000000000, by decide +kernel⟩,
   ⟨on dev0, 0x10000000, by decide +kernel⟩,
   ⟨on dev0, 0xFFFFFFFFF, [1], by decide +kernel⟩,
   ⟨on dev0, 63, [1, 2], by decide +kernel⟩,
   ⟨on dev0, 0xFFFFFFFFF, 1, by decide +kernel⟩,
   ⟨on dev0, 0xFFFFFFFFF, [], [1], true, by decide +kernel⟩,
   ⟨on dev0, 0xFFFFFFFFF, [], 1, by decide +kernel⟩⟩

/-- States and operands that meet the hypotheses of O16, clause by clause. -/
theorem witness_ScrubAndRefreshTakeTheirTurns :
    (∃ (s : State) (_k : ChanId) (_e : List (List SymbolError)), s.bounds.scrubHours ≠ 0 ∧ s.dev.mem.selfRefresh = false) ∧
    (∃ (s : State) (_k : ChanId) (_e : List (List SymbolError)), (s.bounds.scrubHours = 0 ∨ s.dev.mem.selfRefresh = true)) ∧
    (∃ (s : State) (_k : ChanId), s.dev.mem.selfRefresh = false) ∧
    (∃ (s : State) (_k : ChanId), s.dev.mem.selfRefresh = true) :=
  ⟨⟨on dev0, 255, [], by decide +kernel⟩,
   ⟨on { dev0 with mem := { dev0.mem with selfRefresh := true } }, 0, [], by decide +kernel⟩,
   ⟨on dev0, 0, by decide +kernel⟩,
   ⟨on { dev0 with mem := { dev0.mem with selfRefresh := true } }, 255, by decide +kernel⟩⟩

/-- States and operands that meet the hypotheses of O17, clause by clause. -/
theorem witness_PlainCommandsComplete :
    (∃ (s : State) (q : QueueId) (b : List Byte), ReadyHead s.dev q.toNat 0 b 1 ∧ Alone s.dev q.toNat 1 ∧ byteAt b 0 = 0) ∧
    (∃ (s : State) (q : QueueId) (b : List Byte) (p : Nat) (o : Nat), s.dev.head q.toNat = some (b, 1, p) ∧ s.dev.mayStart q.toNat b = true ∧ s.dev.agreed 0 = true ∧ Alone s.dev q.toNat 1 ∧ byteAt b 0 = 0 ∧ ((p = 0 ∧ headerFault (s.dev.queue q.toNat) b = some o) ∨ (p ≠ 0 ∧ o = 0xFFFFFFFF))) ∧
    (∃ (s : State) (q : QueueId) (b : List Byte), ReadyHead s.dev q.toNat 0 b 1 ∧ Alone s.dev q.toNat 1 ∧ byteAt b 0 = 8 ∧ byteAt b 0x10 ≠ 1) ∧
    (∃ (s : State) (q : QueueId) (b : List Byte), ReadyHead s.dev q.toNat 0 b 1 ∧ Alone s.dev q.toNat 1 ∧ byteAt b 0 = 9 ∧ stampFault s.dev b = none ∧ byteAt b 0x18 = 0 ∧ (s.dev.queue q.toNat).inDevice = false) ∧
    (∃ (s : State) (q : QueueId) (b : List Byte), ReadyHead s.dev q.toNat 0 b 1 ∧ Alone s.dev q.toNat 1 ∧ byteAt b 0 = 9 ∧ stampFault s.dev b = none ∧ byteAt b 0x18 = 1 ∧ s.dev.mode.d3hot = false ∧ (s.dev.queue q.toNat).inDevice = false) ∧
    (∃ (s : State) (q : QueueId) (b : List Byte) (o : Nat), ReadyHead s.dev q.toNat 0 b 1 ∧ Alone s.dev q.toNat 1 ∧ byteAt b 0 = 9 ∧ stampFault s.dev b = some o) :=
  ⟨⟨on (ring (mk 64 []) dev0), 3, mk 64 [], by unfold ReadyHead Alone; decide +kernel⟩,
   ⟨on (ring (mk 64 [(1, 1, 4)]) dev0), 3, mk 64 [(1, 1, 4)], 0, 1, by unfold Alone; decide +kernel⟩,
   ⟨on (ring (mk 64 [(0, 1, 8), (0x14, 4, 0xFFFFFFFF)]) dev0), 3, mk 64 [(0, 1, 8), (0x14, 4, 0xFFFFFFFF)], by unfold ReadyHead Alone; decide +kernel⟩,
   ⟨on (ring (mk 64 [(0, 1, 9), (0x10, 8, 0x8000)]) dev0), 3, mk 64 [(0, 1, 9), (0x10, 8, 0x8000)], by unfold ReadyHead Alone; decide +kernel⟩,
   ⟨on (ring (mk 64 [(0, 1, 9), (0x10, 8, 0x18000), (0x18, 1, 1)]) dev0), 3, mk 64 [(0, 1, 9), (0x10, 8, 0x18000), (0x18, 1, 1)], by unfold ReadyHead Alone; decide +kernel⟩,
   ⟨on (ring (mk 64 [(0, 1, 9), (0x10, 8, 0x8001)]) dev0), 3, mk 64 [(0, 1, 9), (0x10, 8, 0x8001)], 0x10, by unfold ReadyHead Alone; decide +kernel⟩⟩

/-- States and operands that meet the hypotheses of O18, clause by clause. -/
theorem witness_WaitsEndOrBlock :
    (∃ (s : State) (q : QueueId) (b : List Byte), ReadyHead s.dev q.toNat 0 b 1 ∧ Alone s.dev q.toNat 1 ∧ byteAt b 0 = 6 ∧ waitFault s.dev b = none ∧ waitHolds b (waitRead s.dev b).1 = true ∧ (waitRead s.dev b).2 = false) ∧
    (∃ (s : State) (q : QueueId) (b : List Byte), ReadyHead s.dev q.toNat 0 b 1 ∧ Alone s.dev q.toNat 1 ∧ byteAt b 0 = 6 ∧ waitFault s.dev b = none ∧ byteAt b 0x21 = 0 ∧ (waitHolds b (waitRead s.dev b).1 = false ∨ (waitRead s.dev b).2 = true)) ∧
    (∃ (s : State) (q : QueueId) (b : List Byte), ReadyHead s.dev q.toNat 0 b 1 ∧ Alone s.dev q.toNat 1 ∧ byteAt b 0 = 6 ∧ waitFault s.dev b = none ∧ byteAt b 0x21 = 1 ∧ waitHolds b (waitRead s.dev b).1 = false ∧ s.dev.waitReaches q.toNat 262144 (s.dev.fence (fenceNo b)).producer.toNat = true) ∧
    (∃ (s : State) (q : QueueId) (b : List Byte), ReadyHead s.dev q.toNat 0 b 1 ∧ Alone s.dev q.toNat 1 ∧ byteAt b 0 = 6 ∧ waitFault s.dev b = none ∧ byteAt b 0x21 = 1 ∧ waitHolds b (waitRead s.dev b).1 = false ∧ s.dev.waitReaches q.toNat 262144 (s.dev.fence (fenceNo b)).producer.toNat = false) ∧
    (∃ (s : State) (q : QueueId) (b : List Byte) (o : Nat), ReadyHead s.dev q.toNat 0 b 1 ∧ Alone s.dev q.toNat 1 ∧ byteAt b 0 = 6 ∧ waitFault s.dev b = some o) ∧
    (∃ (s : State) (q : Nat) (c : Cmd) (v : U64), s.dev.fe.pollList = [q] ∧ (s.dev.queue q).state = .parked ∧ (∀ i, i ≠ q → (s.dev.queue i).state ≠ .active) ∧ (s.dev.qrun q).running = [c] ∧ c.completed = false ∧ c.work = .waiting v ∧ c.facts = [] ∧ waitHolds c.bytes (waitRead s.dev c.bytes).1 = true ∧ (waitRead s.dev c.bytes).2 = false) ∧
    (∃ (s : State), (∀ (q : Nat) (c : Cmd), s.dev.blockedWait q = some c → ∃ v, c.work = .waiting v ∧ waitRead s.dev c.bytes = (v, false) ∧ waitHolds c.bytes v = false)) :=
  ⟨⟨on (ring (mk 64 [(0, 1, 6), (0x10, 8, 7), (0x18, 8, 5), (0x21, 1, 1)]) (fenced7 dev0)), 3, mk 64 [(0, 1, 6), (0x10, 8, 7), (0x18, 8, 5), (0x21, 1, 1)], by unfold ReadyHead Alone; decide +kernel⟩,
   ⟨on (ring (mk 64 [(0, 1, 6), (0x10, 8, 0x8000), (0x18, 8, 5)]) dev0), 3, mk 64 [(0, 1, 6), (0x10, 8, 0x8000), (0x18, 8, 5)], by unfold ReadyHead Alone; decide +kernel⟩,
   ⟨on (ring (mk 64 [(0, 1, 6), (0x10, 8, 7), (0x18, 8, 6), (0x21, 1, 1)]) (fenced7 dev0)), 3, mk 64 [(0, 1, 6), (0x10, 8, 7), (0x18, 8, 6), (0x21, 1, 1)], by unfold ReadyHead Alone; decide +kernel⟩,
   ⟨on (ring (mk 64 [(0, 1, 6), (0x10, 8, 7), (0x18, 8, 6), (0x21, 1, 1)]) (otherFence dev0)), 3, mk 64 [(0, 1, 6), (0x10, 8, 7), (0x18, 8, 6), (0x21, 1, 1)], by unfold ReadyHead Alone; decide +kernel⟩,
   ⟨on (ring (mk 64 [(0, 1, 6), (0x10, 8, 8), (0x18, 8, 6), (0x21, 1, 1)]) dev0), 3, mk 64 [(0, 1, 6), (0x10, 8, 8), (0x18, 8, 6), (0x21, 1, 1)], 0x10, by unfold ReadyHead Alone; decide +kernel⟩,
   ⟨on parked3, 3, cmdOf (mk 64 [(0, 1, 6), (0x10, 8, 7), (0x18, 8, 5), (0x21, 1, 1)]) (.waiting 0), 0, by decide +kernel, by decide +kernel, parked3_alone, by decide +kernel⟩,
   ⟨on { dev0 with fe := { dev0.fe with pollList := [3] } }, (by intro q c h; cases h)⟩⟩

/-- States and operands that meet the hypotheses of O19, clause by clause. -/
theorem witness_SignalsPerformTheirOperation :
    (∃ (s : State) (q : QueueId) (b : List Byte), ReadyHead s.dev q.toNat 0 b 1 ∧ Alone s.dev q.toNat 1 ∧ byteAt b 0 = 7 ∧ signalFault s.dev q.toNat b = none ∧ byteAt b 0x21 = 1) ∧
    (∃ (s : State) (q : QueueId) (b : List Byte), ReadyHead s.dev q.toNat 0 b 1 ∧ Alone s.dev q.toNat 1 ∧ byteAt b 0 = 7 ∧ signalFault s.dev q.toNat b = none ∧ byteAt b 0x21 = 0 ∧ (s.dev.queue q.toNat).inDevice = false) ∧
    (∃ (s : State) (q : QueueId) (b : List Byte), ReadyHead s.dev q.toNat 0 b 1 ∧ Alone s.dev q.toNat 1 ∧ byteAt b 0 = 7 ∧ signalFault s.dev q.toNat b = none ∧ byteAt b 0x21 = 2 ∧ s.dev.mode.d3hot = false ∧ (s.dev.queue q.toNat).inDevice = false) ∧
    (∃ (s : State) (q : QueueId) (b : List Byte) (o : Nat), ReadyHead s.dev q.toNat 0 b 1 ∧ Alone s.dev q.toNat 1 ∧ byteAt b 0 = 7 ∧ signalFault s.dev q.toNat b = some o) :=
  ⟨⟨on (ring (mk 64 [(0, 1, 7), (0x10, 8, 7), (0x18, 8, 5), (0x20, 2, 0x101)]) (fenced7 dev0)), 3, mk 64 [(0, 1, 7), (0x10, 8, 7), (0x18, 8, 5), (0x20, 2, 0x101)], by unfold ReadyHead Alone; decide +kernel⟩,
   ⟨on (ring (mk 64 [(0, 1, 7), (0x10, 8, 0x8000), (0x18, 8, 5), (0x20, 1, 2)]) dev0), 3, mk 64 [(0, 1, 7), (0x10, 8, 0x8000), (0x18, 8, 5), (0x20, 1, 2)], by unfold ReadyHead Alone; decide +kernel⟩,
   ⟨on (ring (mk 64 [(0, 1, 7), (0x10, 8, 0x18000), (0x18, 8, 5), (0x21, 1, 2)]) dev0), 3, mk 64 [(0, 1, 7), (0x10, 8, 0x18000), (0x18, 8, 5), (0x21, 1, 2)], by unfold ReadyHead Alone; decide +kernel⟩,
   ⟨on (ring (mk 64 [(0, 1, 7), (0x10, 8, 7), (0x18, 8, 5), (0x20, 2, 0x103)]) (fenced7 dev0)), 3, mk 64 [(0, 1, 7), (0x10, 8, 7), (0x18, 8, 5), (0x20, 2, 0x103)], 0x20, by unfold ReadyHead Alone; decide +kernel⟩⟩

/-- States and operands that meet the hypotheses of O20, clause by clause. -/
theorem witness_DoorbellsAreJudged :
    (∃ (s : State) (q : QueueId) (w : Nat) (_v : U64), s.dev.replaying = false ∧ (w ≠ 8 ∨ (s.dev.queue q.toNat).state = .unused)) ∧
    (∃ (s : State) (q : QueueId) (w : Nat) (v : U64), s.dev.replaying = false ∧ w = 8 ∧ (s.dev.queue q.toNat).state ≠ .unused ∧ bits v.toNat 47 32 ≠ (s.dev.queue q.toNat).gen.toNat) ∧
    (∃ (s : State) (q : QueueId) (w : Nat) (v : U64), s.dev.replaying = false ∧ w = 8 ∧ (s.dev.queue q.toNat).state ≠ .unused ∧ bits v.toNat 47 32 = (s.dev.queue q.toNat).gen.toNat ∧ ((s.dev.queue q.toNat).ringSize < (v.setWidth 32 - (s.dev.queue q.toNat).producer).toNat ∨ (s.dev.queue q.toNat).ringSize < (v.setWidth 32 - (s.dev.queue q.toNat).retired.setWidth 32).toNat)) ∧
    (∃ (s : State) (q : QueueId) (w : Nat) (v : U64), s.dev.replaying = false ∧ w = 8 ∧ (s.dev.queue q.toNat).state ≠ .unused ∧ bits v.toNat 47 32 = (s.dev.queue q.toNat).gen.toNat ∧ (v.setWidth 32 - (s.dev.queue q.toNat).producer).toNat ≤ (s.dev.queue q.toNat).ringSize ∧ (v.setWidth 32 - (s.dev.queue q.toNat).retired.setWidth 32).toNat ≤ (s.dev.queue q.toNat).ringSize) ∧
    (∃ (s : State) (_q : QueueId) (_w : Nat) (_v : U64), s.dev.replaying = true) :=
  ⟨⟨on dev0, 3, 8, 0, by decide +kernel⟩,
   ⟨on (ring [] dev0), 3, 8, 0x100000001, by decide +kernel⟩,
   ⟨on (ring [] dev0), 3, 8, 17, by decide +kernel⟩,
   ⟨on (ring [] dev0), 3, 8, 16, by decide +kernel⟩,
   ⟨on { dev0 with mode := { dev0.mode with traceCtl := 2 } }, 3, 8, 0x100000001, by decide +kernel⟩⟩

/-- States and operands that meet the hypotheses of O21, clause by clause. -/
theorem witness_QueueControlMovesQueues :
    (∃ (s : State) (q : QueueId), (s.dev.queue q.toNat).state ≠ .unused ∧ (s.dev.queue q.toNat).state ≠ .stopped ∧ (s.dev.queue q.toNat).state ≠ .draining) ∧
    (∃ (s : State) (q : QueueId), (s.dev.queue q.toNat).state ≠ .unused ∧ (s.dev.queue q.toNat).state ≠ .stopped) ∧
    (∃ (s : State) (q : QueueId) (c : Cmd), (s.dev.queue q.toNat).state ≠ .unused ∧ (s.dev.queue q.toNat).state ≠ .stopped ∧ (s.dev.qrun q.toNat).running = [c] ∧ c.completed = false ∧ c.committed = false ∧ (∀ j, s.dev.job q.toNat c.index = some j → j.preempted = false) ∧ c.facts = []) ∧
    (∃ (s : State) (q : QueueId) (c : Cmd), (s.dev.queue q.toNat).state ≠ .unused ∧ (s.dev.queue q.toNat).state ≠ .stopped ∧ (s.dev.qrun q.toNat).running = [c] ∧ c.completed = false ∧ c.committed = true) :=
  ⟨⟨on (ring (mk 64 []) dev0), 3, by decide +kernel⟩,
   ⟨on (busy (cmdOf (mk 64 []) .plain) dev0), 3, by decide +kernel⟩,
   ⟨on (busy (cmdOf (mk 64 []) .plain) dev0), 3, cmdOf (mk 64 []) .plain, by decide +kernel, by decide +kernel, by decide +kernel, by decide +kernel, by decide +kernel, of_none (by decide +kernel), by decide +kernel⟩,
   ⟨on (busy { cmdOf (mk 64 []) .plain with committed := true } dev0), 3, { cmdOf (mk 64 []) .plain with committed := true }, by decide +kernel⟩⟩

/-- States and operands that meet the hypotheses of O22, clause by clause. -/
theorem witness_QueuesAreAdmittedAndFetched :
    (∃ (s : State) (p : Nat) (q : Nat) (n : Nat), s.dev.fe.running = true ∧ s.dev.nextPending = some (p, q) ∧ s.dev.freeSlots = [n] ∧ Sparse.wf Queue.reset s.dev.fe.queues = true ∧ (s.dev.queue q).slot = none ∧ (s.dev.queue q).inDevice = false ∧ s.dev.hasWork q = true ∧ s.dev.live q = [] ∧ (s.dev.qrun q).fetched = [] ∧ (s.dev.qrun q).yielding = false ∧ s.dev.mode.d3hot = false) ∧
    (∃ (s : State), (s.dev.fe.running = false ∨ s.dev.nextPending = none ∨ s.dev.freeSlots = [])) ∧
    (∃ (s : State) (q : QueueId) (e : RingEntry), s.dev.fromTrace 0 = false ∧ (s.dev.queue q.toNat).state = .active ∧ (s.dev.queue q.toNat).inDevice = false ∧ s.dev.live q.toNat = [] ∧ (s.dev.qrun q.toNat).yielding = false ∧ (s.dev.queue q.toNat).avail ≤ (s.dev.queue q.toNat).ringSize ∧ e.bytes.length = 64 ∧ badFirst e.bytes = none ∧ 0 < (s.dev.queue q.toNat).avail ∧ entriesNeeded e.bytes ≤ (s.dev.queue q.toNat).avail) ∧
    (∃ (s : State) (q : QueueId) (_i : U32) (_l : List RingEntry), ((s.dev.queue q.toNat).state ≠ .active ∨ (s.dev.queue q.toNat).inDevice = true ∨ s.dev.fromTrace 0 = true)) ∧
    (∃ (s : State) (q : QueueId), (s.dev.queue q.toNat).state = .active ∧ 16000000 ≤ (s.dev.time.ft - (s.dev.qrun q.toNat).slotSince).toNat ∧ s.dev.freeSlots = [] ∧ (∃ x ∈ s.dev.fe.queues, x.2.state = .pending ∧ (s.dev.queue q.toNat).priority.toNat ≤ x.2.priority.toNat) ∧ s.dev.live q.toNat ≠ []) ∧
    (∃ (s : State) (q : QueueId), (s.dev.queue q.toNat).state = .active ∧ 16000000 ≤ (s.dev.time.ft - (s.dev.qrun q.toNat).slotSince).toNat ∧ s.dev.freeSlots = [] ∧ (∃ x ∈ s.dev.fe.queues, x.2.state = .pending ∧ (s.dev.queue q.toNat).priority.toNat ≤ x.2.priority.toNat) ∧ s.dev.live q.toNat = [] ∧ s.dev.hasWork q.toNat = true ∧ s.dev.entryAt q.toNat (s.dev.queue q.toNat).started = none) ∧
    (∃ (s : State) (q : QueueId), ((s.dev.queue q.toNat).state ≠ .active ∨ (s.dev.time.ft - (s.dev.qrun q.toNat).slotSince).toNat < 16000000 ∨ s.dev.freeSlots ≠ [])) :=
  ⟨⟨on oneFree, 0, 4095, 4095, by decide +kernel, by decide +kernel, oneFree_slots, by decide +kernel⟩,
   ⟨State.reset, by decide +kernel⟩,
   ⟨on (modQueue 3 (fun u => { u with producer := 16 }) (ring [] dev0)), 3, { bytes := mk 64 [], poisoned := false }, by decide +kernel⟩,
   ⟨State.reset, 3, 0, [], by decide +kernel⟩,
   ⟨on (modRun 3 (fun r => { r with running := [cmdOf (mk 64 []) .plain] }) noneFree), 3, by decide +kernel, by decide +kernel, noneFree_slots _, ⟨(4096, pendingQueue), List.mem_append_right _ (List.mem_singleton.mpr rfl), by decide +kernel⟩, by decide +kernel⟩,
   ⟨on (modRun 3 id noneFree), 3, by decide +kernel, by decide +kernel, noneFree_slots _, ⟨(4096, pendingQueue), List.mem_append_right _ (List.mem_singleton.mpr rfl), by decide +kernel⟩, by decide +kernel⟩,
   ⟨State.reset, 3, by decide +kernel⟩⟩

/-- States and operands that meet the hypotheses of O23, clause by clause. -/
theorem witness_LimitsEndCommands :
    (∃ (s : State) (q : QueueId) (c : Cmd), (s.dev.qrun q.toNat).running = [c] ∧ c.completed = false ∧ c.committed = false ∧ (∀ j, s.dev.job q.toNat c.index = some j → j.preempted = false) ∧ c.facts = [] ∧ idleUnits s.dev c < windowUnits (s.dev.queue q.toNat) c) ∧
    (∃ (s : State) (q : QueueId) (c : Cmd), (s.dev.qrun q.toNat).running = [c] ∧ c.completed = false ∧ c.committed = false ∧ (∀ j, s.dev.job q.toNat c.index = some j → j.preempted = false) ∧ c.facts = [] ∧ windowUnits (s.dev.queue q.toNat) c ≤ idleUnits s.dev c ∧ (∀ n, c.work ≠ .growRetry n)) ∧
    (∃ (s : State) (q : QueueId) (c : Cmd), (s.dev.qrun q.toNat).running = [c] ∧ c.completed = false ∧ c.committed = false ∧ (∀ j, s.dev.job q.toNat c.index = some j → j.preempted = false) ∧ c.facts = []) ∧
    (∃ (s : State) (q : QueueId) (c : Cmd), s.dev.cmd q.toNat c.index = some c ∧ (c.completed = true ∨ c.committed = true ∨ (∃ j, s.dev.job q.toNat c.index = some j ∧ j.preempted = true))) ∧
    (∃ (s : State), s.dev.workPending = true ∧ 16000000000 ≤ (s.dev.time.ft - s.dev.fe.lastMove).toNat) ∧
    (∃ (s : State), (s.dev.workPending = false ∨ (s.dev.time.ft - s.dev.fe.lastMove).toNat < 16000000000)) :=
  ⟨⟨on (busy (cmdOf (mk 64 []) .plain) { dev0 with time := { dev0.time with ft := 15999999999 } }), 3, cmdOf (mk 64 []) .plain, by decide +kernel, by decide +kernel, by decide +kernel, of_none (by decide +kernel), by decide +kernel⟩,
   ⟨on (busy (cmdOf (mk 64 []) .plain) { dev0 with time := { dev0.time with ft := 16000000000 } }), 3, cmdOf (mk 64 []) .plain, by decide +kernel, by decide +kernel, by decide +kernel, of_none (by decide +kernel), by decide +kernel, by decide +kernel, (by intro n h; cases (show Work.plain = Work.growRetry n from h))⟩,
   ⟨on (busy (cmdOf (mk 64 []) .plain) dev0), 3, cmdOf (mk 64 []) .plain, by decide +kernel, by decide +kernel, by decide +kernel, of_none (by decide +kernel), by decide +kernel⟩,
   ⟨on (busy { cmdOf (mk 64 []) .plain with committed := true } dev0), 3, { cmdOf (mk 64 []) .plain with committed := true }, by decide +kernel, Or.inr (Or.inl rfl)⟩,
   ⟨on (ring (mk 64 []) { dev0 with time := { dev0.time with ft := 16000000000 } }), by decide +kernel⟩,
   ⟨on dev0, by decide +kernel⟩⟩

/-- States and operands that meet the hypotheses of O24, clause by clause. -/
theorem witness_MailboxTakesRequestsInTurn :
    (∃ (s : State) (n : U32), s.dev.ident.owlReady = true ∧ (s.dev.owl.pcie.state = .idle ∨ s.dev.owl.pcie.state = .done) ∧ n = s.dev.owl.pcie.lastSeq + 1 ∧ s.dev.owl.current = none ∧ s.dev.owl.waiting = []) ∧
    (∃ (s : State) (n : U32) (r : OwlRequest), s.dev.ident.owlReady = true ∧ (s.dev.owl.pcie.state = .idle ∨ s.dev.owl.pcie.state = .done) ∧ n = s.dev.owl.pcie.lastSeq + 1 ∧ s.dev.owl.current = some r) ∧
    (∃ (s : State) (n : U32), ((s.dev.owl.pcie.state ≠ .idle ∧ s.dev.owl.pcie.state ≠ .done) ∨ n ≠ s.dev.owl.pcie.lastSeq + 1)) ∧
    (∃ (s : State) (b : List Byte), Serving s.dev b ∧ opcodes.contains (field b 0 2) = false) ∧
    (∃ (s : State) (b : List Byte), Serving s.dev b) :=
  ⟨⟨on dev0, 1, by decide +kernel⟩,
   ⟨on (ask (req 1 0x20 []) dev0), 1, { path := .pcie, bytes := req 1 0x20 [], injected := false }, by decide +kernel⟩,
   ⟨on dev0, 2, by decide +kernel⟩,
   ⟨on (ask (req 0x99 0x20 []) dev0), req 0x99 0x20 [], by unfold Serving; decide +kernel⟩,
   ⟨on (ask (req 0x99 0x20 []) dev0), req 0x99 0x20 [], by unfold Serving; decide +kernel⟩⟩

set_option maxRecDepth 20000 in
/-- States and operands that meet the hypotheses of O25, clause by clause. -/
theorem witness_RefusedRequestsChangeNothing :
    (∃ (s : State) (t : State) (b : List Byte) (i : LoadImage) (c : Instr), c ∈ [Instr.identify, .features, .snapshot, .memAlloc, .memFree, .hostWindowAdd, .hostWindowRemove, .reservedRead, .queueCreate, .queueModify, .queueDelete, .fenceRegister, .fenceRelease, .imageLoad i, .imagePatch i, .imageUnload, .taskCreate, .taskEnd, .ensembleCreate, .ensemblePublish, .ensembleDelete, .ensembleRead, .tableCreate, .tableDelete, .pin, .unpin, .placement, .tablePages, .portSet, .portClear, .serviceWrite, .serviceEnable, .serviceDisable, .serviceRead, .serviceDelete, .fabricConfig, .collectiveGroup, .collectiveGroupClear, .powerBounds, .fence, .unfence, .fenceRow, .healthRead, .traceRegion] ∧ Serving s.dev b ∧ (c = .ensemblePublish → NoRetry s.dev) ∧ exec c s = .next t ∧ field (response t.dev) 8 2 ≠ 0) ∧
    (∃ (s : State) (b : List Byte) (r : Instr × Nat × Nat × List (Nat × Nat)), r ∈ plainRequests ∧ Serving s.dev b ∧ field b 0 2 = r.2.1 ∧ (s.dev.ident.negotiated = false ∨ s.dev.agreed r.2.2.1 = false)) ∧
    (∃ (s : State) (b : List Byte) (r : Instr × Nat × Nat × List (Nat × Nat)), r ∈ plainRequests ∧ Serving s.dev b ∧ field b 0 2 = r.2.1 ∧ s.dev.ident.negotiated = true ∧ s.dev.agreed r.2.2.1 = true ∧ s.dev.replaying = true) ∧
    (∃ (s : State) (b : List Byte) (r : Instr × Nat × Nat × List (Nat × Nat)) (o : Nat), r ∈ plainRequests ∧ Serving s.dev b ∧ field b 0 2 = r.2.1 ∧ s.dev.ident.negotiated = true ∧ s.dev.agreed r.2.2.1 = true ∧ s.dev.replaying = false ∧ layoutFault b r.2.2.2 = some o) ∧
    (∃ (s : State) (b : List Byte) (i : Bool) (r : Instr × Nat × Nat × List (Nat × Nat)), r ∈ plainRequests ∧ s.dev.owl.current = some { path := mgmtPath i, bytes := b, injected := false } ∧ s.dev.owl.waiting = [] ∧ field b 0 2 = r.2.1) :=
  ⟨⟨on (ask (req 1 0x24 []) dev0), after .identify (on (ask (req 1 0x24 []) dev0)), req 1 0x24 [], img0, .identify, by decide +kernel, by unfold Serving; decide +kernel, (by intro h; cases h), exec_after _ _ (by decide +kernel), by decide +kernel⟩,
   ⟨on (ask (req 0x10 0x29 []) { dev0 with ident := { dev0.ident with negotiated := false } }), req 0x10 0x29 [], (.memAlloc, 0x10, 0, [u 8, u 1]), by unfold Serving; decide +kernel⟩,
   ⟨on (ask (req 0x10 0x29 []) { dev0 with mode := { dev0.mode with traceCtl := 2 } }), req 0x10 0x29 [], (.memAlloc, 0x10, 0, [u 8, u 1]), by unfold Serving; decide +kernel⟩,
   ⟨on (ask (req 0x10 0x24 []) dev0), req 0x10 0x24 [], (.memAlloc, 0x10, 0, [u 8, u 1]), 2, by unfold Serving; decide +kernel⟩,
   ⟨on { dev0 with owl := { dev0.owl with current := some { path := .i3c, bytes := req 0x10 0x29 [], injected := false } } }, req 0x10 0x29 [], true, (.memAlloc, 0x10, 0, [u 8, u 1]), by decide +kernel⟩⟩

/-- States and operands that meet the hypotheses of O26, clause by clause. -/
theorem witness_IdentityAndFeatureRequests :
    (∃ (s : State) (b : List Byte), Serving s.dev b ∧ field b 0 2 = 1 ∧ layoutFault b [] = none) ∧
    (∃ (s : State) (b : List Byte), Serving s.dev b ∧ field b 0 2 = 2 ∧ layoutFault b [blk 16] = none ∧ s.dev.replaying = false ∧ (s.dev.ident.negotiated = false ∨ s.dev.quiescent = true) ∧ (∀ i, s.dev.featureUsed i = false)) ∧
    (∃ (s : State) (b : List Byte), Serving s.dev b ∧ field b 0 2 = 3 ∧ layoutFault b (snapFields b) = none ∧ 1 ≤ field b 0x20 4 ∧ field b 0x20 4 ≤ 504 ∧ snapFault b (List.range (field b 0x20 4)) = none) :=
  ⟨⟨on (ask (req 1 0x20 []) dev0), req 1 0x20 [], by unfold Serving; decide +kernel⟩,
   ⟨on (ask (req 2 0x30 [(0x20, 4, 3)]) dev0), req 2 0x30 [(0x20, 4, 3)], (by unfold Serving; decide +kernel), by decide +kernel, by decide +kernel, by decide +kernel, by decide +kernel, unused_features⟩,
   ⟨on (ask (req 3 0x28 [(0x20, 4, 1), (0x24, 4, 0xFF0)]) dev0), req 3 0x28 [(0x20, 4, 1), (0x24, 4, 0xFF0)], by unfold Serving; decide +kernel⟩⟩

/-- States and operands that meet the hypotheses of O27, clause by clause. -/
theorem witness_MemoryAndWindowRequests :
    (∃ (s : State) (b : List Byte) (a : Nat), Serving s.dev b ∧ InOrder s.dev 0 [u 8, u 1] b ∧ field b 0 2 = 0x10 ∧ field b 0x20 8 ≠ 0 ∧ field b 0x20 8 % 4096 = 0 ∧ 12 ≤ field b 0x28 1 ∧ field b 0x28 1 ≤ 40 ∧ a % 2 ^ field b 0x28 1 = 0 ∧ a + field b 0x20 8 ≤ softEnd ∧ s.dev.rangeUsed a (field b 0x20 8) = false) ∧
    (∃ (s : State) (b : List Byte), Serving s.dev b ∧ InOrder s.dev 0 [u 8, u 8] b ∧ field b 0 2 = 0x11 ∧ field b 0x20 8 % 4096 = 0 ∧ field b 0x28 8 ≠ 0 ∧ field b 0x28 8 % 4096 = 0 ∧ (field b 0x20 8, field b 0x28 8) ∈ s.dev.mem.allocs) ∧
    (∃ (s : State) (b : List Byte) (w : Nat), Serving s.dev b ∧ InOrder s.dev 0 [u 8, u 8] b ∧ field b 0 2 = 0x12 ∧ field b 0x20 8 % 4096 = 0 ∧ field b 0x28 8 ≠ 0 ∧ field b 0x28 8 % 4096 = 0 ∧ field b 0x20 8 + field b 0x28 8 ≤ 2 ^ 64 ∧ w < 64 ∧ (∀ x ∈ s.dev.mem.windows, x.1 ≠ w)) ∧
    (∃ (s : State) (b : List Byte) (w : Nat × Nat × Nat), Serving s.dev b ∧ InOrder s.dev 0 [u 4] b ∧ field b 0 2 = 0x13 ∧ field b 0x20 4 < 64 ∧ s.dev.mem.windows.find? (fun x => x.1 = field b 0x20 4) = some w ∧ s.dev.ringIn w = none ∧ (s.dev.events.enable = false ∨ meets w s.dev.events.base.toNat (64 * 2 ^ s.dev.events.log2.toNat) = false)) ∧
    (∃ (s : State) (b : List Byte), Serving s.dev b ∧ field b 0 2 = 0x14 ∧ layoutFault b [u 1, u 4, u 4] = none ∧ 1 ≤ field b 0x28 4 ∧ field b 0x20 1 = 0 ∧ field b 0x24 4 + field b 0x28 4 ≤ 32768 ∧ 32 * field b 0x28 4 ≤ 4064) ∧
    (∃ (s : State) (b : List Byte), Serving s.dev b ∧ field b 0 2 = 0x14 ∧ layoutFault b [u 1, u 4, u 4] = none ∧ 1 ≤ field b 0x28 4 ∧ field b 0x20 1 = 1 ∧ field b 0x24 4 + field b 0x28 4 ≤ 65536 ∧ 8 * field b 0x28 4 ≤ 4064) ∧
    (∃ (s : State) (b : List Byte), Serving s.dev b ∧ s.dev.ident.negotiated = true ∧ s.dev.agreed 12 = true ∧ layoutFault b [u 8, u 8] = none ∧ field b 0 2 = 0x90 ∧ s.dev.mode.traceCtl.toNat % 4 = 0 ∧ field b 0x20 8 % 4096 = 0 ∧ 2 ^ 20 ≤ field b 0x28 8 ∧ field b 0x20 8 + field b 0x28 8 ≤ softEnd) :=
  ⟨⟨on (ask (req 0x10 0x29 [(0x20, 8, 0x1000), (0x28, 1, 12)]) dev0), req 0x10 0x29 [(0x20, 8, 0x1000), (0x28, 1, 12)], softEnd - 0x1000, by unfold Serving InOrder; decide +kernel⟩,
   ⟨on (ask (req 0x11 0x30 [(0x20, 8, 0x1000), (0x28, 8, 0x2000)]) { dev0 with mem := { dev0.mem with allocs := [(0x1000, 0x2000)] } }), req 0x11 0x30 [(0x20, 8, 0x1000), (0x28, 8, 0x2000)], by unfold Serving InOrder; decide +kernel⟩,
   ⟨on (ask (req 0x12 0x30 [(0x20, 8, 0x1000), (0x28, 8, 0x2000)]) dev0), req 0x12 0x30 [(0x20, 8, 0x1000), (0x28, 8, 0x2000)], 63, by unfold Serving InOrder; decide +kernel⟩,
   ⟨on (ask (req 0x13 0x24 []) dev0), req 0x13 0x24 [], (0, 0x10000, 0x10000), by unfold Serving InOrder; decide +kernel⟩,
   ⟨on (ask (req 0x14 0x2C [(0x24, 4, 32767), (0x28, 4, 1)]) dev0), req 0x14 0x2C [(0x24, 4, 32767), (0x28, 4, 1)], by unfold Serving; decide +kernel⟩,
   ⟨on (ask (req 0x14 0x2C [(0x20, 1, 1), (0x24, 4, 65535), (0x28, 4, 1)]) dev0), req 0x14 0x2C [(0x20, 1, 1), (0x24, 4, 65535), (0x28, 4, 1)], by unfold Serving; decide +kernel⟩,
   ⟨on (ask (req 0x90 0x30 [(0x28, 8, 0x100000)]) dev0), req 0x90 0x30 [(0x28, 8, 0x100000)], by unfold Serving; decide +kernel⟩⟩

/-- States and operands that meet the hypotheses of O28, clause by clause. -/
theorem witness_QueueAndFenceRequests :
    (∃ (s : State) (b : List Byte), Serving s.dev b ∧ InOrder s.dev 0 [u 4, blk 64] b ∧ field b 0 2 = 0x20 ∧ field b 0x20 4 < 2 ^ 18 ∧ (s.dev.queue (field b 0x20 4)).state = .unused ∧ contextFault s.dev (slice b 0x28 64) = none) ∧
    (∃ (s : State) (b : List Byte) (n : Nat) (fl : Nat) (x : Queue), Serving s.dev b ∧ InOrder s.dev 0 [u 4, u 1, u 2, u 1] b ∧ field b 0 2 = 0x21 ∧ n = field b 0x20 4 ∧ fl = field b 0x28 1 ∧ x = s.dev.queue n ∧ n < 2 ^ 18 ∧ x.state ≠ .unused ∧ field b 0x24 1 < 8 ∧ fl < 16 ∧ (bitOf fl 1 = true → s.dev.agreed 17 = true) ∧ (x.state = .stopped ∨ (bitOf fl 1 = x.inDevice ∧ bitOf fl 2 = x.persistent ∧ bitOf fl 3 = x.rtAllowed))) ∧
    (∃ (s : State) (b : List Byte), Serving s.dev b ∧ InOrder s.dev 0 [u 4] b ∧ field b 0 2 = 0x22 ∧ field b 0x20 4 < 2 ^ 18 ∧ (s.dev.queue (field b 0x20 4)).state = .stopped ∧ (s.dev.queue (field b 0x20 4)).task = none) ∧
    (∃ (s : State) (b : List Byte), Serving s.dev b ∧ InOrder s.dev 0 [u 4, u 4, u 8] b ∧ field b 0 2 = 0x24 ∧ field b 0x20 4 < 65536 ∧ (s.dev.fence (field b 0x20 4)).registered = false ∧ field b 0x24 4 < 2 ^ 18 ∧ (s.dev.queue (field b 0x24 4)).state ≠ .unused) ∧
    (∃ (s : State) (b : List Byte), Serving s.dev b ∧ InOrder s.dev 0 [u 4] b ∧ field b 0 2 = 0x25 ∧ field b 0x20 4 < 65536 ∧ (s.dev.fence (field b 0x20 4)).registered = true ∧ s.dev.waitOn (field b 0x20 4) = none) :=
  ⟨⟨on (ask (req 0x20 0x68 [(0x20, 4, 0x3FFFF), (0x28, 8, 0x10000), (0x30, 1, 4), (0x31, 1, 1), (0x32, 1, 7)]) dev0), req 0x20 0x68 [(0x20, 4, 0x3FFFF), (0x28, 8, 0x10000), (0x30, 1, 4), (0x31, 1, 1), (0x32, 1, 7)], by unfold Serving InOrder; decide +kernel⟩,
   ⟨on (ask (req 0x21 0x29 [(0x20, 4, 3), (0x24, 1, 7), (0x28, 1, 10)]) (modQueue 3 (fun u => { u with state := .stopped }) dev0)), req 0x21 0x29 [(0x20, 4, 3), (0x24, 1, 7), (0x28, 1, 10)], 3, 10, { Queue.reset with state := .stopped }, by unfold Serving InOrder; decide +kernel⟩,
   ⟨on (ask (req 0x22 0x24 [(0x20, 4, 3)]) (modQueue 3 (fun u => { u with state := .stopped }) dev0)), req 0x22 0x24 [(0x20, 4, 3)], by unfold Serving InOrder; decide +kernel⟩,
   ⟨on (ask (req 0x24 0x30 [(0x20, 4, 65535), (0x24, 4, 3)]) (modQueue 3 (fun u => { u with state := .stopped }) dev0)), req 0x24 0x30 [(0x20, 4, 65535), (0x24, 4, 3)], by unfold Serving InOrder; decide +kernel⟩,
   ⟨on (ask (req 0x25 0x24 [(0x20, 4, 7)]) (fenced7 dev0)), req 0x25 0x24 [(0x20, 4, 7)], by unfold Serving InOrder; decide +kernel⟩⟩

/-- States and operands that meet the hypotheses of O29, clause by clause. -/
theorem witness_ManagementPortsCarryFragments :
    (∃ (s : State) (i : Bool) (f : Byte) (b : List Byte), s.dev.portStuck i = false ∧ f.toNat ≤ 17 ∧ 1 ≤ b.length ∧ b.length ≤ 240) ∧
    (∃ (s : State) (i : Bool) (f : Byte) (g : List Byte) (b : List Byte), s.dev.portStuck i = false ∧ f.toNat ≤ 17 ∧ 1 ≤ b.length ∧ b.length ≤ 240 ∧ (s.dev.mgmt i).gathered = some g ∧ (s.dev.mgmt i).nextFrag = f.toNat) ∧
    (∃ (s : State) (i : Bool) (f : Byte) (b : List Byte), s.dev.portStuck i = false ∧ f.toNat ≤ 17 ∧ 1 ≤ b.length ∧ b.length ≤ 240 ∧ s.dev.ident.owlReady = true ∧ s.dev.owl.current = none ∧ s.dev.owl.waiting = [] ∧ ((s.dev.mgmt i).mail.state = .idle ∨ (s.dev.mgmt i).mail.state = .done) ∧ BitVec.ofNat 32 (field b 4 4) = (s.dev.mgmt i).mail.lastSeq + 1) ∧
    (∃ (s : State) (i : Bool) (_l : Bool) (_st : Bool) (_f : Byte) (_b : List Byte), s.dev.portStuck i = false) ∧
    (∃ (s : State) (i : Bool), s.dev.portStuck i = false ∧ (s.dev.mgmt i).mail.state ≠ .done) ∧
    (∃ (s : State) (i : Bool) (n : Nat) (k : Nat), s.dev.portStuck i = false ∧ (s.dev.mgmt i).mail.state = .done ∧ k = (s.dev.mgmt i).readFrag ∧ n = 32 + field (lookAll 0 (s.dev.mgmt i).mail.response 0 4) 2 2) ∧
    (∃ (s : State) (i : Bool), s.dev.portStuck i = false) ∧
    (∃ (s : State) (i : Bool) (_l : Bool) (_st : Bool) (_p : Bool) (_f : Byte) (_b : List Byte), s.dev.portStuck i = true) :=
  ⟨⟨on dev0, true, 17, zeros 240, by decide +kernel⟩,
   ⟨on { dev0 with owl := { dev0.owl with i3c := { dev0.owl.i3c with gathered := some [1], nextFrag := 17 } } }, true, 17, [1], zeros 240, by decide +kernel⟩,
   ⟨on dev0, false, 0, mk 8 [(4, 4, 1)], by decide +kernel⟩,
   ⟨on dev0, false, true, true, 0, [1], by decide +kernel⟩,
   ⟨on dev0, true, by decide +kernel⟩,
   ⟨on { dev0 with owl := { dev0.owl with i3c := { dev0.owl.i3c with mail := { dev0.owl.i3c.mail with state := .done, response := [(2, 208)] } } } }, true, 240, 0, by decide +kernel⟩,
   ⟨on dev0, false, by decide +kernel⟩,
   ⟨on { dev0 with health := { dev0.health with smbusStuck := true } }, false, true, true, true, 0, [1], by decide +kernel⟩⟩

/-- States and operands that meet the hypotheses of O30, clause by clause. -/
theorem witness_ImageAndTaskRequests :
    (∃ (s : State) (b : List Byte) (im : LoadImage), Serving s.dev b ∧ InOrder s.dev 0 [u 4, u 8, u 8] b ∧ field b 0 2 = 0x30 ∧ field b 0x20 4 < 1024 ∧ (s.dev.image (field b 0x20 4)).loaded = false ∧ inSoft (field b 0x28 8) (field b 0x30 8) = true ∧ imageFault s.dev im = none) ∧
    (∃ (s : State) (b : List Byte) (im : LoadImage) (top : Nat), Serving s.dev b ∧ InOrder s.dev 11 [u 4, u 4, u 8, u 8] b ∧ field b 0 2 = 0x31 ∧ field b 0x20 4 < 1024 ∧ 1 ≤ field b 0x24 4 ∧ field b 0x24 4 ≤ 65535 ∧ (s.dev.image (field b 0x20 4)).loaded = true ∧ (s.dev.image (field b 0x20 4)).unloading = false ∧ (∃ v ∈ (s.dev.image (field b 0x20 4)).versions, v.number = field b 0x24 4) ∧ inSoft (field b 0x28 8) (field b 0x30 8) = true ∧ imageFault s.dev im = none ∧ top = ((s.dev.image (field b 0x20 4)).versions.map (·.number)).foldl max 0 ∧ top < 65535 ∧ (s.dev.image (field b 0x20 4)).versions.length < 16) ∧
    (∃ (s : State) (b : List Byte), Serving s.dev b ∧ InOrder s.dev 0 [u 4] b ∧ field b 0 2 = 0x32 ∧ field b 0x20 4 < 1024 ∧ (s.dev.image (field b 0x20 4)).loaded = true ∧ s.dev.taskOn (field b 0x20 4) = none) ∧
    (∃ (s : State) (b : List Byte) (v : ImageVersion), Serving s.dev b ∧ InOrder s.dev 10 (taskFields b) b ∧ field b 0 2 = 0x33 ∧ field b 0x20 4 < 256 ∧ field b 0x24 4 < 1024 ∧ 1 ≤ field b 0x28 4 ∧ field b 0x28 4 ≤ 65535 ∧ 1 ≤ field b 0x2C 4 ∧ field b 0x2C 4 ≤ 64 ∧ (s.dev.task (field b 0x20 4)).present = false ∧ (s.dev.image (field b 0x24 4)).loaded = true ∧ (s.dev.image (field b 0x24 4)).unloading = false ∧ queuesFault s.dev (taskQueues b) 0x30 = none ∧ (s.dev.image (field b 0x24 4)).versions.find? (fun x => x.number = field b 0x28 4) = some v ∧ (s.dev.mode.det = true → v.checkedDet = true) ∧ (∀ c ∈ v.image.cores, (s.dev.placeOf c.toNat).isSome = true ∧ s.dev.coreBusy c.toNat = false)) ∧
    (∃ (s : State) (b : List Byte), Serving s.dev b ∧ InOrder s.dev 10 [u 4] b ∧ field b 0 2 = 0x34 ∧ field b 0x20 4 < 256 ∧ (s.dev.task (field b 0x20 4)).present = true ∧ (s.dev.task (field b 0x20 4)).running = none ∧ (s.dev.task (field b 0x20 4)).halves = []) :=
  ⟨⟨on (ask (req 0x30 0x38 [(0x20, 4, 1023), (0x30, 8, 4096)]) dev1), req 0x30 0x38 [(0x20, 4, 1023), (0x30, 8, 4096)], img0, by unfold Serving InOrder; decide +kernel⟩,
   ⟨on (ask (req 0x31 0x38 [(0x20, 4, 5), (0x24, 4, 1), (0x30, 8, 4096)]) dev5), req 0x31 0x38 [(0x20, 4, 5), (0x24, 4, 1), (0x30, 8, 4096)], img0, 1, by unfold Serving InOrder; decide +kernel⟩,
   ⟨on (ask (req 0x32 0x24 [(0x20, 4, 5)]) dev5), req 0x32 0x24 [(0x20, 4, 5)], by unfold Serving InOrder; decide +kernel⟩,
   ⟨on (ask (req 0x33 0x34 [(0x24, 4, 5), (0x28, 4, 1), (0x2C, 4, 1), (0x30, 4, 3)]) (ring [] dev5)), req 0x33 0x34 [(0x24, 4, 5), (0x28, 4, 1), (0x2C, 4, 1), (0x30, 4, 3)], ver1, by unfold Serving InOrder; decide +kernel⟩,
   ⟨on (ask (req 0x34 0x24 [(0x20, 4, 255)]) (modTask 255 (fun t => { t with present := true, image := 5, version := 1, queues := [3] }) (ring [] dev5))), req 0x34 0x24 [(0x20, 4, 255)], by unfold Serving InOrder; decide +kernel⟩⟩

set_option maxRecDepth 20000 in
/-- States and operands that meet the hypotheses of O31, clause by clause. -/
theorem witness_EnsembleRequests :
    (∃ (s : State) (b : List Byte), Serving s.dev b ∧ InOrder s.dev 3 [u 4] b ∧ field b 0 2 = 0x40 ∧ field b 0x20 4 < 4096 ∧ (s.dev.ens (field b 0x20 4)).present = false) ∧
    (∃ (s : State) (b : List Byte) (x : Ensemble), Serving s.dev b ∧ InOrder s.dev 3 [u 4, u 4, u 8] b ∧ field b 0 2 = 0x41 ∧ field b 0x20 4 < 4096 ∧ (s.dev.ens (field b 0x20 4)).present = true ∧ field b 0x28 8 % 256 = 0 ∧ inSoft (field b 0x28 8) 256 = true ∧ inSoft (field b 0x28 8) (field (s.dev.bytesAt (field b 0x28 8) 256) 0x20 8) = true ∧ NoRetry s.dev ∧ readImage s.dev (field b 0x28 8) = some x ∧ publishCode s.dev (field b 0x20 4) (some x) (BitVec.ofNat 32 (field b 0x24 4)) false false false = 0) ∧
    (∃ (s : State) (b : List Byte), Serving s.dev b ∧ InOrder s.dev 3 [u 4] b ∧ field b 0 2 = 0x42 ∧ field b 0x20 4 < 4096 ∧ (s.dev.ens (field b 0x20 4)).present = true) ∧
    (∃ (s : State) (b : List Byte), Serving s.dev b ∧ s.dev.ident.negotiated = true ∧ s.dev.agreed 3 = true ∧ layoutFault b [u 4] = none ∧ field b 0 2 = 0x43 ∧ field b 0x20 4 < 4096 ∧ (s.dev.ens (field b 0x20 4)).present = true) :=
  ⟨⟨on (ask (req 0x40 0x24 [(0x20, 4, 4095)]) dev1), req 0x40 0x24 [(0x20, 4, 4095)], by unfold Serving InOrder; decide +kernel⟩,
   ⟨on (ask (req 0x41 0x30 [(0x20, 4, 1), (0x28, 8, 0x1000)]) (setCells 0x1000 ensBytes devE)), req 0x41 0x30 [(0x20, 4, 1), (0x28, 8, 0x1000)], ens0, by unfold Serving; decide +kernel, by unfold InOrder; decide +kernel, by decide +kernel, by decide +kernel, by decide +kernel, by decide +kernel, by decide +kernel, by decide +kernel, noRetry_of _ (by decide +kernel), by decide +kernel⟩,
   ⟨on (ask (req 0x42 0x24 [(0x20, 4, 1)]) devE), req 0x42 0x24 [(0x20, 4, 1)], by unfold Serving InOrder; decide +kernel⟩,
   ⟨on (ask (req 0x43 0x24 [(0x20, 4, 1)]) devE), req 0x43 0x24 [(0x20, 4, 1)], by unfold Serving; decide +kernel⟩⟩

/-- States and operands that meet the hypotheses of O32, clause by clause. -/
theorem witness_TableRequests :
    (∃ (s : State) (b : List Byte) (n : Nat), Serving s.dev b ∧ InOrder s.dev 5 [u 4, blk 64] b ∧ field b 0 2 = 0x50 ∧ n = field b 0x20 4 ∧ n < 1024 ∧ (s.dev.table n).desc = none ∧ tableFault s.dev (slice b 0x28 64) = none ∧ ((parseTable (slice b 0x28 64)).stage = 2 → s.dev.agreed 2 = true) ∧ ((parseTable (slice b 0x28 64)).fmt = 3 → s.dev.agreed 20 = true) ∧ (∀ k, k < 256 → s.dev.hasFrames k (homePages n (s.dev.localPages (parseTable (slice b 0x28 64))) k + areaFrames n (parseTable (slice b 0x28 64)) (s.dev.localPages (parseTable (slice b 0x28 64))) k) = true)) ∧
    (∃ (s : State) (b : List Byte), Serving s.dev b ∧ InOrder s.dev 5 [u 4] b ∧ field b 0 2 = 0x51 ∧ field b 0x20 4 < 1024 ∧ (s.dev.table (field b 0x20 4)).desc.isSome = true ∧ (s.dev.table (field b 0x20 4)).step = none) ∧
    (∃ (s : State) (b : List Byte) (x : TableDesc), Serving s.dev b ∧ InOrder s.dev 5 [u 4, u 8, u 4] b ∧ field b 0 2 = 0x55 ∧ field b 0x20 4 < 1024 ∧ (s.dev.table (field b 0x20 4)).desc = some x ∧ 1 ≤ field b 0x30 4 ∧ field b 0x30 4 ≤ 500 ∧ field b 0x28 8 + field b 0x30 4 ≤ s.dev.localPages x ∧ (s.dev.table (field b 0x20 4)).step = none) ∧
    (∃ (s : State) (b : List Byte) (x : TableDesc), Serving s.dev b ∧ InOrder s.dev 5 [u 4, u 8, u 8, u 1] b ∧ field b 0 2 = 0x52 ∧ field b 0x20 4 < 1024 ∧ (s.dev.table (field b 0x20 4)).desc = some x ∧ (field b 0x38 1 < 8 ∨ field b 0x38 1 = 0xFF) ∧ (pinRange s.dev x b).1 + (pinRange s.dev x b).2 ≤ s.dev.localPages x) ∧
    (∃ (s : State) (b : List Byte) (x : TableDesc), Serving s.dev b ∧ InOrder s.dev 5 [u 4, u 8, u 8] b ∧ field b 0 2 = 0x53 ∧ field b 0x20 4 < 1024 ∧ (s.dev.table (field b 0x20 4)).desc = some x ∧ (pinRange s.dev x b).1 + (pinRange s.dev x b).2 ≤ s.dev.localPages x) ∧
    (∃ (s : State) (b : List Byte), Serving s.dev b ∧ InOrder s.dev 6 [u 4, u 4] b ∧ field b 0 2 = 0x54 ∧ isFin32 (field b 0x20 4) = true ∧ cmpElem .lf32 .ge (field b 0x20 4) 0x3F800000 = true ∧ cmpElem .lf32 .le (field b 0x20 4) 0x41800000 = true ∧ field b 0x24 4 ≤ 4096) :=
  ⟨⟨on (ask (blkReq 0x50 9 tabBytes) dev1), blkReq 0x50 9 tabBytes, 9, by unfold Serving InOrder; decide +kernel⟩,
   ⟨on (ask (req 0x51 0x24 [(0x20, 4, 9)]) devT), req 0x51 0x24 [(0x20, 4, 9)], by unfold Serving InOrder; decide +kernel⟩,
   ⟨on (ask (req 0x55 0x34 [(0x20, 4, 9), (0x30, 4, 1)]) devT), req 0x55 0x34 [(0x20, 4, 9), (0x30, 4, 1)], parseTable tabBytes, by unfold Serving InOrder; decide +kernel⟩,
   ⟨on (ask (req 0x52 0x39 [(0x20, 4, 9), (0x30, 8, 1), (0x38, 1, 0xFF)]) devT), req 0x52 0x39 [(0x20, 4, 9), (0x30, 8, 1), (0x38, 1, 0xFF)], parseTable tabBytes, by unfold Serving InOrder; decide +kernel⟩,
   ⟨on (ask (req 0x53 0x38 [(0x20, 4, 9), (0x30, 8, 1)]) devT), req 0x53 0x38 [(0x20, 4, 9), (0x30, 8, 1)], parseTable tabBytes, by unfold Serving InOrder; decide +kernel⟩,
   ⟨on (ask (req 0x54 0x28 [(0x20, 4, 0x41800000), (0x24, 4, 4096)]) dev1), req 0x54 0x28 [(0x20, 4, 0x41800000), (0x24, 4, 4096)], by unfold Serving InOrder; decide +kernel⟩⟩

/-- States and operands that meet the hypotheses of O33, clause by clause. -/
theorem witness_PortRequests :
    (∃ (s : State) (b : List Byte), Serving s.dev b ∧ InOrder s.dev 8 [u 4, u 1, blk 64] b ∧ field b 0 2 = 0x60 ∧ field b 0x24 1 = 0 ∧ field b 0x20 4 < 8 ∧ portFault s.dev (field b 0x20 4) (slice b 0x28 64) = none ∧ (bitOf (parsePort (slice b 0x28 64)).flags.toNat 2 = true → s.dev.agreed 9 = true) ∧ inSoft (parsePort (slice b 0x28 64)).rxAddr.toNat (parsePort (slice b 0x28 64)).rxBytes.toNat = true ∧ inSoft (parsePort (slice b 0x28 64)).txAddr.toNat (parsePort (slice b 0x28 64)).txBytes.toNat = true ∧ portBusy s.dev (field b 0x20 4) = none) ∧
    (∃ (s : State) (b : List Byte), Serving s.dev b ∧ InOrder s.dev 8 [u 4, u 1, blk 64] b ∧ field b 0 2 = 0x60 ∧ field b 0x24 1 = 1 ∧ restFault b 0x28 64 = none ∧ portBusy s.dev (field b 0x20 4) = none ∧ (s.dev.port (field b 0x20 4)).cfg.isSome = true) ∧
    (∃ (s : State) (p : Fin 8), (s.dev.link p.val).reg.state = .ethernet ∧ (s.dev.port p.val).cfg.isSome = true ∧ (s.dev.port p.val).up = false) ∧
    (∃ (s : State) (p : Fin 8), ((s.dev.link p.val).reg.state ≠ .ethernet ∨ (s.dev.port p.val).cfg = none ∨ (s.dev.port p.val).up = true)) ∧
    (∃ (s : State) (p : Fin 8), (s.dev.port p.val).up = false) ∧
    (∃ (s : State) (p : Fin 8), (s.dev.port p.val).up = true) :=
  ⟨⟨on (ask (blkReq 0x60 2 portBytes) (modLink 2 (fun l => { l with reg := { l.reg with enable := false } }) dev1)), blkReq 0x60 2 portBytes, by unfold Serving InOrder; decide +kernel⟩,
   ⟨on (ask (req 0x60 0x68 [(0x20, 4, 2), (0x24, 1, 1)]) devP), req 0x60 0x68 [(0x20, 4, 2), (0x24, 1, 1)], by unfold Serving InOrder; decide +kernel⟩,
   ⟨on devP, 2, by decide +kernel⟩,
   ⟨on dev1, 2, by decide +kernel⟩,
   ⟨on devP, 2, by decide +kernel⟩,
   ⟨on (modPort 2 (fun p => { p with up := true }) devP), 2, by decide +kernel⟩⟩

/-- States and operands that meet the hypotheses of O34, clause by clause. -/
theorem witness_ServiceTableRequests :
    (∃ (s : State) (b : List Byte), Serving s.dev b ∧ InOrder s.dev 8 [u 4, blk 64] b ∧ field b 0 2 = 0x61 ∧ field b 0x20 4 < 4096 ∧ (s.dev.serv (field b 0x20 4)).state = .disabled) ∧
    (∃ (s : State) (b : List Byte) (x : ServiceCfg) (l : Layout), Serving s.dev b ∧ InOrder s.dev 8 [u 4] b ∧ field b 0 2 = 0x62 ∧ field b 0x20 4 < 4096 ∧ (s.dev.serv (field b 0x20 4)).cfg = some x ∧ (s.dev.serv (field b 0x20 4)).state = .disabled ∧ l = parseLayout (s.dev.bytesAt x.layoutAddr.toNat 64) ∧ entryFault s.dev (field b 0x20 4) x l (decide (0 < s.dev.poisonedIn x.layoutAddr.toNat 64)) = none ∧ (bitOf x.eflags.toNat 0 = true → s.dev.agreed 14 = true) ∧ (bitOf x.eflags.toNat 1 = true → s.dev.agreed 15 = true)) ∧
    (∃ (s : State) (b : List Byte), Serving s.dev b ∧ InOrder s.dev 8 [u 4] b ∧ field b 0 2 = 0x63 ∧ field b 0x20 4 < 4096 ∧ (s.dev.serv (field b 0x20 4)).cfg.isSome = true ∧ (s.dev.serv (field b 0x20 4)).state = .enabled ∧ s.dev.noGroups (field b 0x20 4) = false) ∧
    (∃ (s : State) (b : List Byte), Serving s.dev b ∧ InOrder s.dev 8 [u 4] b ∧ field b 0 2 = 0x63 ∧ field b 0x20 4 < 4096 ∧ (s.dev.serv (field b 0x20 4)).cfg.isSome = true ∧ (s.dev.serv (field b 0x20 4)).state ≠ .enabled) ∧
    (∃ (s : State) (b : List Byte), Serving s.dev b ∧ layoutFault b [u 4] = none ∧ field b 0 2 = 0x64 ∧ field b 0x20 4 < 4096 ∧ (s.dev.serv (field b 0x20 4)).cfg.isSome = true) ∧
    (∃ (s : State) (b : List Byte), Serving s.dev b ∧ InOrder s.dev 8 [u 4] b ∧ field b 0 2 = 0x65 ∧ field b 0x20 4 < 4096 ∧ (s.dev.serv (field b 0x20 4)).cfg.isSome = true ∧ (s.dev.serv (field b 0x20 4)).state = .disabled) :=
  ⟨⟨on (ask (blkReq 0x61 4095 entBytes) devE), blkReq 0x61 4095 entBytes, by unfold Serving InOrder; decide +kernel⟩,
   ⟨on (ask (req 0x62 0x24 [(0x20, 4, 6)]) devS), req 0x62 0x24 [(0x20, 4, 6)], parseEntry entBytes, parseLayout layBytes, by unfold Serving InOrder; decide +kernel⟩,
   ⟨on (ask (req 0x63 0x24 [(0x20, 4, 6)]) (modServ 6 (fun x => { x with state := .enabled, layout := some (parseLayout layBytes) }) devS)), req 0x63 0x24 [(0x20, 4, 6)], by unfold Serving InOrder; decide +kernel⟩,
   ⟨on (ask (req 0x63 0x24 [(0x20, 4, 6)]) devS), req 0x63 0x24 [(0x20, 4, 6)], by unfold Serving InOrder; decide +kernel⟩,
   ⟨on (ask (req 0x64 0x24 [(0x20, 4, 6)]) devS), req 0x64 0x24 [(0x20, 4, 6)], by unfold Serving; decide +kernel⟩,
   ⟨on (ask (req 0x65 0x24 [(0x20, 4, 6)]) devS), req 0x65 0x24 [(0x20, 4, 6)], by unfold Serving InOrder; decide +kernel⟩⟩

/-- States and operands that meet the hypotheses of O35, clause by clause. -/
theorem witness_FabricAndGroupRequests :
    (∃ (s : State) (b : List Byte), Serving s.dev b ∧ InOrder s.dev 16 [u 1, u 1, u 1, u 1, u 1, u 1, u 1, u 2] b ∧ field b 0 2 = 0x70 ∧ fabricFault b = none ∧ s.dev.quiescent = true) ∧
    (∃ (s : State) (b : List Byte), Serving s.dev b ∧ InOrder s.dev 16 groupFields b ∧ field b 0 2 = 0x71 ∧ field b 0x24 1 = 0 ∧ field b 0x20 4 < 4095 ∧ (s.dev.group (field b 0x20 4)).box = none ∧ field b 0x25 1 ≤ field b 0x26 1 ∧ field b 0x26 1 < s.dev.fabric.cfg.sizeX ∧ field b 0x27 1 ≤ field b 0x28 1 ∧ field b 0x28 1 < s.dev.fabric.cfg.sizeY ∧ field b 0x29 1 ≤ field b 0x2A 1 ∧ field b 0x2A 1 < s.dev.fabric.cfg.sizeZ) ∧
    (∃ (s : State) (b : List Byte), Serving s.dev b ∧ InOrder s.dev 16 groupFields b ∧ field b 0 2 = 0x71 ∧ field b 0x24 1 = 1 ∧ field b 0x20 4 < 4095 ∧ (s.dev.group (field b 0x20 4)).box.isSome = true ∧ s.dev.groupUser (field b 0x20 4) = none) :=
  ⟨⟨on (ask (req 0x70 0x2A [(0x20, 1, 16), (0x21, 1, 16), (0x22, 1, 40), (0x23, 1, 7), (0x24, 1, 15), (0x28, 2, 0xFFFF)]) dev1), req 0x70 0x2A [(0x20, 1, 16), (0x21, 1, 16), (0x22, 1, 40), (0x23, 1, 7), (0x24, 1, 15), (0x28, 2, 0xFFFF)], by unfold Serving InOrder; decide +kernel⟩,
   ⟨on (ask (req 0x71 0x2B [(0x20, 4, 4094), (0x26, 1, 1)]) devF), req 0x71 0x2B [(0x20, 4, 4094), (0x26, 1, 1)], by unfold Serving InOrder; decide +kernel⟩,
   ⟨on (ask (req 0x71 0x2B [(0x20, 4, 1), (0x24, 1, 1)]) devF), req 0x71 0x2B [(0x20, 4, 1), (0x24, 1, 1)], by unfold Serving InOrder; decide +kernel⟩⟩

/-- States and operands that meet the hypotheses of O36, clause by clause. -/
theorem witness_PowerAndHealthRequests :
    (∃ (s : State) (b : List Byte), Serving s.dev b ∧ InOrder s.dev 0 [u 2, u 2, u 2, u 1, u 1] b ∧ field b 0 2 = 0x80 ∧ boundsFault b = none) ∧
    (∃ (s : State) (b : List Byte), Serving s.dev b ∧ layoutFault b [] = none ∧ field b 0 2 = 0x82) :=
  ⟨⟨on (ask (req 0x80 0x28 [(0x20, 2, 300), (0x22, 2, 250), (0x24, 2, 850), (0x26, 1, 30)]) dev1), req 0x80 0x28 [(0x20, 2, 300), (0x22, 2, 250), (0x24, 2, 850), (0x26, 1, 30)], by unfold Serving InOrder; decide +kernel⟩,
   ⟨on (ask (req 0x82 0x20 []) dev1), req 0x82 0x20 [], by unfold Serving; decide +kernel⟩⟩

/-- States and operands that meet the hypotheses of O37, clause by clause. -/
theorem witness_FencesOfPositions :
    (∃ (s : State) (b : List Byte) (p : Nat), Serving s.dev b ∧ InOrder s.dev 0 [u 1, u 1, u 1, u 1] b ∧ field b 0 2 = 0x81 ∧ s.dev.mesh.jobs = [] ∧ s.dev.scoring.groups = [] ∧ s.dev.service.services = [] ∧ field b 0x20 1 = 0 ∧ fenceFault s.dev b = none ∧ p = 42 * field b 0x21 1 + field b 0x22 1 ∧ s.dev.fenced p = false) ∧
    (∃ (s : State) (b : List Byte), Serving s.dev b ∧ InOrder s.dev 0 [u 1, u 1, u 1, u 1] b ∧ field b 0 2 = 0x81 ∧ field b 0x20 1 = 0 ∧ fenceFault s.dev b = none ∧ s.dev.fenced (42 * field b 0x21 1 + field b 0x22 1) = true) ∧
    (∃ (s : State) (b : List Byte) (p : Nat), Serving s.dev b ∧ InOrder s.dev 0 [u 1, u 1, u 1, u 1] b ∧ field b 0 2 = 0x81 ∧ s.dev.mesh.jobs = [] ∧ s.dev.scoring.groups = [] ∧ s.dev.service.services = [] ∧ field b 0x20 1 = 1 ∧ fenceFault s.dev b = none ∧ p = 42 * field b 0x21 1 + field b 0x22 1) ∧
    (∃ (s : State) (b : List Byte), Serving s.dev b ∧ InOrder s.dev 0 [u 1, u 1, u 1, u 1] b ∧ field b 0 2 = 0x81 ∧ s.dev.mesh.jobs = [] ∧ s.dev.scoring.groups = [] ∧ s.dev.service.services = [] ∧ field b 0x20 1 = 2 ∧ fenceFault s.dev b = none) ∧
    (∃ (s : State) (p : PosId) (_c : BitVec 4), s.dev.mesh.mapBuilt = true ∧ s.dev.mesh.jobs = [] ∧ s.dev.scoring.groups = [] ∧ s.dev.service.services = [] ∧ s.dev.fenced p.val = false) ∧
    (∃ (s : State) (_p : PosId) (_c : BitVec 4), s.dev.mesh.mapBuilt = false) ∧
    (∃ (s : State) (p : PosId) (c : BitVec 4), s.dev.mesh.mapBuilt = true ∧ s.dev.fenced p.val = true ∧ c ≠ 3 ∧ c ≠ 4) :=
  ⟨⟨on (ask (req 0x81 0x24 [(0x22, 1, 41)]) dev1), req 0x81 0x24 [(0x22, 1, 41)], 41, by unfold Serving InOrder; decide +kernel⟩,
   ⟨on (ask (req 0x81 0x24 [(0x22, 1, 3)]) fenced3), req 0x81 0x24 [(0x22, 1, 3)], by unfold Serving InOrder; decide +kernel⟩,
   ⟨on (ask (req 0x81 0x24 [(0x20, 1, 1), (0x22, 1, 3)]) (modCore 3 (fun c => { c with entry := { c.entry with state := .fenced, cause := 5, logical := 0x7FF } }) dev1)), req 0x81 0x24 [(0x20, 1, 1), (0x22, 1, 3)], 3, by unfold Serving InOrder; decide +kernel⟩,
   ⟨on (ask (req 0x81 0x24 [(0x20, 1, 2)]) dev1), req 0x81 0x24 [(0x20, 1, 2)], by unfold Serving InOrder; decide +kernel⟩,
   ⟨on dev1, 0, 4, by decide +kernel⟩,
   ⟨on dev0, 0, 3, by decide +kernel⟩,
   ⟨on fenced3, 3, 2, by decide +kernel⟩⟩

/-- States and operands that meet the hypotheses of O38, clause by clause. -/
theorem witness_LaunchesAndTasksRun :
    (∃ (s : State) (q : QueueId) (b : List Byte) (v : ImageVersion), ReadyHead s.dev q.toNat 0 b 5 ∧ Alone s.dev q.toNat 5 ∧ byteAt b 0 = 1 ∧ (s.dev.queue q.toNat).persistent = false ∧ launchFault s.dev q.toNat b = none ∧ s.dev.launchVersion b = some v ∧ (∀ c ∈ v.image.cores, s.dev.coreBusy c.toNat = false)) ∧
    (∃ (s : State) (q : QueueId) (c : Cmd) (v : ImageVersion), (s.dev.qrun q.toNat).running = [c] ∧ c.completed = false ∧ c.work = .plain ∧ byteAt c.bytes 0 = 1 ∧ (s.dev.queue q.toNat).avail = 0 ∧ (s.dev.queue q.toNat).persistent = false ∧ launchFault s.dev q.toNat c.bytes = none ∧ s.dev.launchVersion c.bytes = some v ∧ (∀ k ∈ v.image.cores, s.dev.coreBusy k.toNat = false)) ∧
    (∃ (s : State) (q : QueueId) (b : List Byte) (st : Byte) (det : Nat), ReadyHead s.dev q.toNat 0 b 5 ∧ Alone s.dev q.toNat 5 ∧ byteAt b 0 = 1 ∧ launchFault s.dev q.toNat b = some (st, det)) ∧
    (∃ (s : State) (q : QueueId) (b : List Byte) (v : ImageVersion), ReadyHead s.dev q.toNat 0 b 5 ∧ Alone s.dev q.toNat 5 ∧ byteAt b 0 = 1 ∧ (s.dev.queue q.toNat).persistent = false ∧ launchFault s.dev q.toNat b = none ∧ s.dev.launchVersion b = some v ∧ (∃ c ∈ v.image.cores, s.dev.coreBusy c.toNat = true)) ∧
    (∃ (s : State) (q : QueueId) (b : List Byte) (n : Byte), ReadyHead s.dev q.toNat 0 b 5 ∧ Alone s.dev q.toNat 5 ∧ byteAt b 0 = 1 ∧ (s.dev.queue q.toNat).persistent = true ∧ (s.dev.queue q.toNat).task = some n ∧ launchFault s.dev q.toNat b = none) ∧
    (∃ (s : State) (q : QueueId) (c : Cmd) (j : Job), (s.dev.qrun q.toNat).running = [c] ∧ c.completed = false ∧ s.dev.job q.toNat c.index = some j ∧ j.held = false ∧ j.preempted = false ∧ s.dev.jobDrained q.toNat c.index j = true) ∧
    (∃ (s : State) (q : QueueId) (i : U32), (∀ j, s.dev.job q.toNat i = some j → j.held = true ∨ j.preempted = true ∨ s.dev.jobDrained q.toNat i j = false)) ∧
    (∃ (s : State) (n : Byte) (q : Nat) (i : U32) (bytes : List Byte) (v : ImageVersion), (s.dev.task n.toNat).present = true ∧ (s.dev.task n.toNat).running = none ∧ chooseHalf s.dev (s.dev.task n.toNat) = some (q, i, bytes) ∧ s.dev.imageVersion (s.dev.task n.toNat).image (s.dev.task n.toNat).version = some v) ∧
    (∃ (s : State) (n : Byte), ((s.dev.task n.toNat).present = false ∨ (s.dev.task n.toNat).running ≠ none ∨ chooseHalf s.dev (s.dev.task n.toNat) = none)) :=
  ⟨⟨on (ring (mk 320 [(0, 1, 1), (0x10, 4, 5)]) dev5), 3, mk 320 [(0, 1, 1), (0x10, 4, 5)], ver1, by unfold ReadyHead Alone; decide +kernel⟩,
   ⟨on (busy (cmdOf launchB .plain) dev5), 3, cmdOf launchB .plain, ver1, by decide +kernel⟩,
   ⟨on (ring launchB dev1), 3, launchB, 0x22, 0x10, by unfold ReadyHead Alone; decide +kernel⟩,
   ⟨on (ring launchB (lender img0)), 3, launchB, ver1, by unfold ReadyHead Alone; decide +kernel⟩,
   ⟨on (modQueue 3 (fun u => { u with persistent := true, task := some 1 }) (ring launchB (modTask 1 (fun t => { t with present := true, image := 5, version := 1, queues := [3] }) dev5))), 3, launchB, 1, by unfold ReadyHead Alone; decide +kernel⟩,
   ⟨on (running job0), 3, cmdOf (mk 320 [(0, 1, 1), (0x10, 4, 5)]) (.launch 5 1 [0] []), job0, by decide +kernel⟩,
   ⟨on dev1, 3, 0, of_none (by decide +kernel)⟩,
   ⟨on (modTask 1 (fun t => { t with present := true, image := 5, version := 1, queues := [3], halves := [(3, 0, mk 320 [(0, 1, 1), (0x10, 4, 5)])] }) (busy (cmdOf (mk 320 [(0, 1, 1), (0x10, 4, 5)]) (.taskLaunch 1)) dev5)), 1, 3, 0, mk 320 [(0, 1, 1), (0x10, 4, 5)], ver1, by decide +kernel⟩,
   ⟨on dev1, 1, by decide +kernel⟩⟩

/-- States and operands that meet the hypotheses of O39, clause by clause. -/
theorem witness_CopiesAndArmsStartStreams :
    (∃ (s : State) (q : QueueId) (b : List Byte) (n : Nat) (p : Nat), ReadyHead s.dev q.toNat 0 b (1 + 2 * n) ∧ Alone s.dev q.toNat (1 + 2 * n) ∧ byteAt b 0 = 5 ∧ n = field b 0x13 1 ∧ copyFault s.dev b = none ∧ s.dev.placeOf (field b 0x10 2) = some p ∧ copyBusy s.dev p b = false ∧ copyLent s.dev p b = true) ∧
    (∃ (s : State) (q : QueueId) (c : Cmd) (p : Nat), (s.dev.qrun q.toNat).running = [c] ∧ c.completed = false ∧ c.work = .plain ∧ byteAt c.bytes 0 = 5 ∧ (s.dev.queue q.toNat).avail = 0 ∧ copyFault s.dev c.bytes = none ∧ s.dev.placeOf (field c.bytes 0x10 2) = some p ∧ copyBusy s.dev p c.bytes = false ∧ copyLent s.dev p c.bytes = true) ∧
    (∃ (s : State) (q : QueueId) (b : List Byte) (n : Nat) (o : Nat), ReadyHead s.dev q.toNat 0 b n ∧ Alone s.dev q.toNat n ∧ byteAt b 0 = 5 ∧ copyFault s.dev b = some o) ∧
    (∃ (s : State) (q : QueueId) (b : List Byte) (n : Nat) (p : Nat), ReadyHead s.dev q.toNat 0 b n ∧ Alone s.dev q.toNat n ∧ byteAt b 0 = 5 ∧ copyFault s.dev b = none ∧ s.dev.placeOf (field b 0x10 2) = some p ∧ copyBusy s.dev p b = false ∧ copyLent s.dev p b = false) ∧
    (∃ (s : State) (q : QueueId) (b : List Byte) (n : Nat) (p : Nat), ReadyHead s.dev q.toNat 0 b n ∧ Alone s.dev q.toNat n ∧ byteAt b 0 = 5 ∧ copyFault s.dev b = none ∧ s.dev.placeOf (field b 0x10 2) = some p ∧ copyBusy s.dev p b = true) ∧
    (∃ (s : State) (n : SlotId) (_a : BitVec 20), s.dev.stopped (n.val / 8) = true) ∧
    (∃ (s : State) (n : SlotId) (a : BitVec 20) (b : List Byte), s.dev.stopped (n.val / 8) = false ∧ b = (s.dev.core (n.val / 8)).bytesAt (a.toNat / 128 * 128) 128 ∧ descFault s.dev b (s.dev.programBanks n.val) = none ∧ s.dev.badNext n.val (parseDesc b) = false ∧ (s.dev.slot n.val).working = false ∧ (parseDesc b).armGen = (s.dev.slot n.val).latestGen + 1 ∧ (s.dev.slotRun n.val).killedAt ≠ some s.dev.time.edges) ∧
    (∃ (s : State) (n : SlotId) (a : BitVec 20) (b : List Byte), s.dev.stopped (n.val / 8) = false ∧ b = (s.dev.core (n.val / 8)).bytesAt (a.toNat / 128 * 128) 128 ∧ descFault s.dev b (s.dev.programBanks n.val) = none ∧ s.dev.badNext n.val (parseDesc b) = false ∧ (s.dev.slot n.val).working = true ∧ (s.dev.slot n.val).shadow = none ∧ (parseDesc b).armGen = (s.dev.slot n.val).latestGen + 1 ∧ (s.dev.slotRun n.val).killedAt ≠ some s.dev.time.edges) ∧
    (∃ (s : State) (n : SlotId) (a : BitVec 20) (b : List Byte), s.dev.stopped (n.val / 8) = false ∧ b = (s.dev.core (n.val / 8)).bytesAt (a.toNat / 128 * 128) 128 ∧ descFault s.dev b (s.dev.programBanks n.val) = none ∧ s.dev.badNext n.val (parseDesc b) = false ∧ (((s.dev.slot n.val).working = true ∧ (s.dev.slot n.val).shadow.isSome = true) ∨ (parseDesc b).armGen ≠ (s.dev.slot n.val).latestGen + 1 ∨ (s.dev.slotRun n.val).killedAt = some s.dev.time.edges)) ∧
    (∃ (s : State) (n : SlotId) (a : BitVec 20) (b : List Byte), s.dev.stopped (n.val / 8) = false ∧ b = (s.dev.core (n.val / 8)).bytesAt (a.toNat / 128 * 128) 128 ∧ (descFault s.dev b (s.dev.programBanks n.val) ≠ none ∨ s.dev.badNext n.val (parseDesc b) = true) ∧ s.dev.ownerOf (n.val / 8) = none) ∧
    (∃ (s : State) (n : SlotId) (a : BitVec 20) (b : List Byte) (q : Nat) (c : Cmd), s.dev.stopped (n.val / 8) = false ∧ b = (s.dev.core (n.val / 8)).bytesAt (a.toNat / 128 * 128) 128 ∧ (descFault s.dev b (s.dev.programBanks n.val) ≠ none ∨ s.dev.badNext n.val (parseDesc b) = true) ∧ s.dev.ownerOf (n.val / 8) = some (q, c.index) ∧ (s.dev.qrun q).running = [c] ∧ c.completed = false ∧ c.committed = false ∧ c.facts = [] ∧ (∀ j ∈ s.dev.mesh.jobs, j.preempted = false) ∧ ((s.dev.slotRun n.val).owner = none ∨ (s.dev.slotRun n.val).owner = some (q, c.index))) ∧
    (∃ (s : State) (n : SlotId), (s.dev.inChain n.val = true ∨ s.dev.slotAway n.val = true)) ∧
    (∃ (s : State) (n : SlotId), (s.dev.slot n.val).swappable = false ∧ ((s.dev.slot n.val).working = false ∨ s.dev.ownerOf (n.val / 8) = none)) ∧
    (∃ (s : State) (n : SlotId) (x : Desc), (s.dev.slot n.val).desc = some x ∧ s.dev.inChain n.val = false ∧ s.dev.slotAway n.val = false ∧ (s.dev.slot n.val).swappable = true ∧ (∀ j ∈ s.dev.mesh.jobs, j.cores.contains (s.dev.logicalOf (n.val / 8)) = true → j.held = false) ∧ (∀ j v, s.dev.jobAt (s.dev.logicalOf (n.val / 8)) = some j → s.dev.jobImage j = some v → ∀ w ∈ v.image.towers, (s.dev.stash w.header.toNat).ripe = none) ∧ (s.dev.slot n.val).shadow = none) ∧
    (∃ (s : State) (n : SlotId) (x : Desc) (y : Desc), (s.dev.slot n.val).desc = some x ∧ s.dev.inChain n.val = false ∧ s.dev.slotAway n.val = false ∧ (s.dev.slot n.val).swappable = true ∧ (∀ j ∈ s.dev.mesh.jobs, j.cores.contains (s.dev.logicalOf (n.val / 8)) = true → j.held = false) ∧ (∀ j v, s.dev.jobAt (s.dev.logicalOf (n.val / 8)) = some j → s.dev.jobImage j = some v → ∀ w ∈ v.image.towers, (s.dev.stash w.header.toNat).ripe = none) ∧ (s.dev.slot n.val).shadow = some y ∧ x.farKind ≠ 4) ∧
    (∃ (s : State) (n : SlotId) (q : Nat) (i : U32), s.dev.inChain n.val = false ∧ s.dev.slotAway n.val = false ∧ (s.dev.slot n.val).swappable = false ∧ (s.dev.slot n.val).working = true ∧ s.dev.ownerOf (n.val / 8) = some (q, i)) ∧
    (∃ (s : State) (n : SlotId) (j : Job), s.dev.inChain n.val = false ∧ s.dev.slotAway n.val = false ∧ (s.dev.slot n.val).swappable = true ∧ s.dev.jobAt (s.dev.logicalOf (n.val / 8)) = some j ∧ j.held = true) ∧
    (∃ (s : State) (q : QueueId) (i : U32) (j : Job), s.dev.job q.toNat i = some j ∧ j.held = true ∧ j.lateDense = [] ∧ j.overruns = [] ∧ (∀ v, s.dev.jobImage j = some v → ∀ w ∈ v.image.towers, (s.dev.stash w.header.toNat).ripe = none) ∧ (∀ n ∈ j.lateSlots, (s.dev.slot n).swappable = true ∧ (s.dev.slot n).shadow = none)) ∧
    (∃ (s : State) (q : QueueId) (i : U32), (∀ j, s.dev.job q.toNat i = some j → j.held = false ∨ ∃ n ∈ j.lateSlots, (s.dev.slot n).swappable = false)) :=
  ⟨⟨on (ring copyB dev1), 3, copyB, 2, 0, by unfold ReadyHead Alone; decide +kernel⟩,
   ⟨on (busy (cmdOf copyB .plain) dev1), 3, cmdOf copyB .plain, 0, by decide +kernel⟩,
   ⟨on (ring copyB dev0), 3, copyB, 5, 0x10, by unfold ReadyHead Alone; decide +kernel⟩,
   ⟨on (ring copyB (lender { img0 with lendSlots := [0, 1] })), 3, copyB, 5, 0, by unfold ReadyHead Alone; decide +kernel⟩,
   ⟨on (ring copyB (slot0 (descB 0 0 0x3FFF 1 0x4000 8) id dev1)), 3, copyB, 5, 0, by unfold ReadyHead Alone; decide +kernel⟩,
   ⟨on (running { job0 with held := true }), 0, 0, by decide +kernel⟩,
   ⟨on (withLm (descB 0 0 0x3FFF 1 0x4000 8) dev1), 0, 0xFF, descB 0 0 0x3FFF 1 0x4000 8, by decide +kernel⟩,
   ⟨on (withLm (descB 0 0 0x3FFF 1 0x4000 8) (slot0 (descB 0 0 0x3FFF 0 0x4000 8) id dev1)), 0, 0x80, descB 0 0 0x3FFF 1 0x4000 8, by decide +kernel⟩,
   ⟨on (withLm (descB 0 0 0x3FFF 2 0x4000 8) dev1), 0, 0x80, descB 0 0 0x3FFF 2 0x4000 8, by decide +kernel⟩,
   ⟨on (withLm (descB 9 0 0x3FFF 1 0x4000 8) dev1), 0, 0x80, descB 9 0 0x3FFF 1 0x4000 8, by decide +kernel⟩,
   ⟨on (withLm (descB 9 0 0x3FFF 1 0x4000 8) (running job0)), 0, 0x80, descB 9 0 0x3FFF 1 0x4000 8, 3, cmdOf launchB (.launch 5 1 [0] []), by decide +kernel⟩,
   ⟨on (slot0 (descB 0 0 1 0 0x4000 8) id dev1), 0, by decide +kernel⟩,
   ⟨on dev1, 0, by decide +kernel⟩,
   ⟨on (slot0 (descB 0 0 0x3FFF 1 0x4000 8) (fun x => { x with state := .wait }) dev1), 0, parseDesc (descB 0 0 0x3FFF 1 0x4000 8), by decide +kernel, by decide +kernel, by decide +kernel, by decide +kernel, by decide +kernel, of_none2 (by decide +kernel), by decide +kernel⟩,
   ⟨on (slot0 (descB 0 0 0x3FFF 1 0x4000 8) (fun x => { x with state := .done, shadow := some (parseDesc (descB 0 1 0x3FFF 2 0x8000 8)) }) dev1), 0, parseDesc (descB 0 0 0x3FFF 1 0x4000 8), parseDesc (descB 0 1 0x3FFF 2 0x8000 8), by decide +kernel, by decide +kernel, by decide +kernel, by decide +kernel, by decide +kernel, of_none2 (by decide +kernel), by decide +kernel⟩,
   ⟨on (slot0 (descB 0 0 0x3FFF 1 0x4000 8) id (running job0)), 0, 3, 0, by decide +kernel⟩,
   ⟨on (slot0 (descB 0 0 0x3FFF 1 0x4000 8) (fun x => { x with state := .wait }) (running { job0 with held := true })), 0, { job0 with held := true }, by decide +kernel⟩,
   ⟨on (slot0 (descB 0 0 0x3FFF 1 0x4000 8) (fun x => { x with state := .wait }) (running { job0 with held := true, lateSlots := [0] })), 3, 0, { job0 with held := true, lateSlots := [0] }, by decide +kernel, by decide +kernel, by decide +kernel, by decide +kernel, of_some ver1 (by decide +kernel) (by decide +kernel), by decide +kernel⟩,
   ⟨on dev1, 3, 0, of_none (by decide +kernel)⟩⟩

/-- States and operands that meet the hypotheses of O40, clause by clause. -/
theorem witness_StreamsMoveTheirTransfers :
    (∃ (s : State) (n : Fin 3) (lm : LmErrors) (m : Nat) (x : Desc) (a : List Piece), (n.val = 2 → s.dev.mode.d3hot = false) ∧ s.dev.chosen n.val = some m ∧ (s.dev.slot m).desc = some x ∧ s.dev.readyAccess m = some a ∧ x.farKind ≠ 4 ∧ (∀ e ∈ lm, e.2 = false)) ∧
    (∃ (s : State) (n : Fin 3) (_lm : LmErrors), (s.dev.chosen n.val = none ∨ (n.val = 2 ∧ s.dev.mode.d3hot = true))) ∧
    (∃ (s : State) (n : SlotId) (x : Desc) (a : List Piece) (_e : List (List SymbolError)), s.dev.outstanding n.val = some (x, a) ∧ s.dev.nearStacks x = true ∧ (s.dev.slot n.val).state ≠ .killed) ∧
    (∃ (s : State) (n : SlotId) (x : Desc) (a : List Piece) (_e : List (List SymbolError)), s.dev.outstanding n.val = some (x, a) ∧ (s.dev.nearStacks x = false ∨ (s.dev.slot n.val).state = .killed)) ∧
    (∃ (s : State) (n : SlotId) (x : Desc) (a : List Piece) (bytes : List Byte) (_p : Bool), s.dev.outstanding n.val = some (x, a) ∧ s.dev.fromTrace 4 = false ∧ x.farKind = 2 ∧ bytes.length = (accessSpan a).2) ∧
    (∃ (s : State) (n : SlotId) (x : Desc) (a : List Piece) (bytes : List Byte) (_p : Bool), s.dev.outstanding n.val = some (x, a) ∧ s.dev.fromTrace 4 = false ∧ (x.farKind ≠ 2 ∨ bytes.length ≠ (accessSpan a).2)) ∧
    (∃ (s : State) (n : SlotId) (_bytes : List Byte) (_p : Bool) (_e : List (List SymbolError)), s.dev.outstanding n.val = none) ∧
    (∃ (s : State) (n : SlotId) (_bytes : List Byte) (_p : Bool), s.dev.outstanding n.val = none ∧ s.dev.fromTrace 4 = false) ∧
    (∃ (s : State) (n : SlotId) (g : U16) (_bytes : List Byte) (_p : Bool), (g ≠ (s.dev.slot n.val).gen ∨ s.dev.fromTrace 4 = true)) ∧
    (∃ (s : State) (n : SlotId) (x : Desc), (s.dev.slot n.val).state = .active ∧ (s.dev.slot n.val).released ≠ 0 ∧ (s.dev.slot n.val).desc = some x ∧ (s.dev.slotRun n.val).owner = none ∧ s.dev.transferDone n.val x = true ∧ (x.out = true → (s.dev.slot n.val).spilled = false) ∧ (∀ k ∈ (s.dev.core (n.val / 8)).threads, k.2.swap ≠ some n.val)) ∧
    (∃ (s : State) (n : SlotId) (x : Desc), (s.dev.slot n.val).state = .active ∧ (s.dev.slot n.val).released ≠ 0 ∧ (s.dev.slot n.val).desc = some x ∧ (s.dev.slotRun n.val).owner = none ∧ s.dev.transferDone n.val x = true ∧ (x.out = true → (s.dev.slot n.val).spilled = false) ∧ (∃ k ∈ (s.dev.core (n.val / 8)).threads, k.2.swap = some n.val) ∧ x.chained = false ∧ (s.dev.slot n.val).shadow = none) ∧
    (∃ (s : State) (n : SlotId) (x : Desc), (s.dev.slot n.val).state = .active ∧ (s.dev.slot n.val).released ≠ 0 ∧ (s.dev.slot n.val).desc = some x ∧ (s.dev.slotRun n.val).owner = none ∧ s.dev.transferDone n.val x = false) ∧
    (∃ (s : State) (n : SlotId) (x : Desc) (q : Nat) (i : U32), (s.dev.slot n.val).state = .active ∧ (s.dev.slot n.val).released ≠ 0 ∧ (s.dev.slot n.val).desc = some x ∧ x.chained = false ∧ x.out = false ∧ s.dev.transferDone n.val x = true ∧ (s.dev.slotRun n.val).owner = some (q, i) ∧ (∀ c l, s.dev.cmd q i = some c → c.work ≠ .copy l) ∧ (∀ k ∈ (s.dev.core (n.val / 8)).threads, k.2.swap ≠ some n.val) ∧ s.dev.replayRecord 0x03 q i (s.dev.globalStream n.val) = none ∧ s.dev.replayRecord 0x04 q i (s.dev.globalStream n.val) = none ∧ s.dev.unreplayable q i = false ∧ s.dev.journal.used + 32 ≤ 2 ^ 31) ∧
    (∃ (s : State) (n : SlotId), (((s.dev.slot n.val).state ≠ .active ∧ (s.dev.slot n.val).state ≠ .blocked) ∨ (s.dev.slot n.val).released = 0 ∨ (s.dev.slot n.val).desc = none)) ∧
    (∃ (s : State) (n : SlotId) (m : Nat) (x : Desc), ((s.dev.slot n.val).state = .wait ∨ (s.dev.slot n.val).state = .done ∨ ((s.dev.slot n.val).state = .blocked ∧ (s.dev.slot n.val).released < x.transfers)) ∧ (s.dev.slot n.val).spilled = false ∧ (s.dev.slot n.val).released ≠ 0 ∧ (s.dev.slot n.val).desc = some x ∧ x.out = false ∧ s.dev.nextSlot n.val x = some m ∧ m ≠ n.val ∧ s.dev.nextFree n.val x = true) ∧
    (∃ (s : State) (n : SlotId) (m : Nat) (x : Desc), ((s.dev.slot n.val).state = .wait ∨ (s.dev.slot n.val).state = .done ∨ ((s.dev.slot n.val).state = .blocked ∧ (s.dev.slot n.val).released < x.transfers)) ∧ (s.dev.slot n.val).spilled = false ∧ (s.dev.slot n.val).released ≠ 0 ∧ (s.dev.slot n.val).desc = some x ∧ x.out = false ∧ s.dev.nextSlot n.val x = some m ∧ m ≠ n.val ∧ s.dev.nextFree n.val x = false) ∧
    (∃ (s : State) (n : SlotId) (x : Desc) (a : Nat) (k : Nat), s.dev.stuck n.val = true ∧ s.dev.fullHalf n.val = some (a, k) ∧ (s.dev.slot n.val).desc = some x ∧ (x.out = true ∨ x.chained = true) ∧ s.dev.freeFramesList ≠ []) ∧
    (∃ (s : State) (n : SlotId), (s.dev.stuck n.val = false ∨ s.dev.fullHalf n.val = none ∨ s.dev.freeFramesList = [])) ∧
    (∃ (s : State) (n : SlotId) (x : Desc) (f : Nat) (fs : List Nat) (k : Nat), (s.dev.slot n.val).desc = some x ∧ (s.dev.slotRun n.val).frames = f :: fs ∧ x.out = true ∧ (s.dev.slotRun n.val).owed.head? = some (k, 0) ∧ (s.dev.slot n.val).state ≠ .blocked) ∧
    (∃ (s : State) (n : SlotId) (x : Desc) (f : Nat) (fs : List Nat) (m : Nat) (y : Desc), (s.dev.slot n.val).desc = some x ∧ (s.dev.slotRun n.val).frames = f :: fs ∧ x.out = false ∧ s.dev.nextSlot n.val x = some m ∧ m ≠ n.val ∧ (s.dev.slot m).state = .wait ∧ (s.dev.slot m).desc = some y ∧ y.out = true) ∧
    (∃ (s : State) (n : SlotId) (x : Desc) (f : Nat) (fs : List Nat), (s.dev.slot n.val).desc = some x ∧ (s.dev.slotRun n.val).frames = f :: fs ∧ x.out = true ∧ (s.dev.slotRun n.val).owed.head?.map (·.2) ≠ some 0) ∧
    (∃ (s : State) (n : SlotId), (s.dev.slotRun n.val).frames = []) ∧
    (∃ (_s : State) (n : Fin 3) (v : U64), v.toNat % 4 ≠ 3 ∧ (¬(n.val = 2 ∧ v.toNat % 4 = 2))) ∧
    (∃ (_s : State) (n : Fin 3) (v : U64), (v.toNat % 4 = 3 ∨ (n.val = 2 ∧ v.toNat % 4 = 2))) :=
  ⟨⟨on (slot0 (descB 2 0 0x3FFF 1 0x10000 8) id dev1), 2, [], 0, parseDesc (descB 2 0 0x3FFF 1 0x10000 8), ((parseDesc (descB 2 0 0x3FFF 1 0x10000 8)).accesses 0).headD [], by decide +kernel, by decide +kernel, by decide +kernel, by decide +kernel, by decide +kernel, List.forall_mem_nil _⟩,
   ⟨on dev1, 2, [], by decide +kernel⟩,
   ⟨on (slot0 (descB 0 0 0x3FFF 1 0x4000 8) (fun x => { x with issued := 1 }) dev1), 0, parseDesc (descB 0 0 0x3FFF 1 0x4000 8), ((parseDesc (descB 0 0 0x3FFF 1 0x4000 8)).accesses 0).headD [], [], by decide +kernel⟩,
   ⟨on ((slot0 (descB 0 0 0x3FFF 1 0x4000 8) (fun x => { x with issued := 1 }) (modSlot 0 (fun x => x) dev1)) |> modSlot 0 (fun x => { x with state := .killed })), 0, parseDesc (descB 0 0 0x3FFF 1 0x4000 8), ((parseDesc (descB 0 0 0x3FFF 1 0x4000 8)).accesses 0).headD [], [], by decide +kernel⟩,
   ⟨on (slot0 (descB 2 0 0x3FFF 1 0x10000 8) (fun x => { x with issued := 1 }) dev1), 0, parseDesc (descB 2 0 0x3FFF 1 0x10000 8), ((parseDesc (descB 2 0 0x3FFF 1 0x10000 8)).accesses 0).headD [], zeros 256, false, by decide +kernel⟩,
   ⟨on (slot0 (descB 2 0 0x3FFF 1 0x10000 8) (fun x => { x with issued := 1 }) dev1), 0, parseDesc (descB 2 0 0x3FFF 1 0x10000 8), ((parseDesc (descB 2 0 0x3FFF 1 0x10000 8)).accesses 0).headD [], zeros 255, false, by decide +kernel⟩,
   ⟨on dev1, 0, [1], false, [], by decide +kernel⟩,
   ⟨on dev1, 0, [1], false, by decide +kernel⟩,
   ⟨on dev1, 0, 1, [1], false, by decide +kernel⟩,
   ⟨on (modSlotRun 0 (fun r => { r with landed := 256 }) (slot0 (descB 0 0 0x3FFF 1 0x4000 4) id dev1)), 0, parseDesc (descB 0 0 0x3FFF 1 0x4000 4), by decide +kernel⟩,
   ⟨on (modSlotRun 0 (fun r => { r with landed := 256 }) (slot0 (descB 0 0 0x3FFF 1 0x4000 4) id (threaded (fun t => { t with swap := some 0 })))), 0, parseDesc (descB 0 0 0x3FFF 1 0x4000 4), by decide +kernel⟩,
   ⟨on (slot0 (descB 0 0 0x3FFF 1 0x4000 4) id dev1), 0, parseDesc (descB 0 0 0x3FFF 1 0x4000 4), by decide +kernel⟩,
   ⟨on (modSlotRun 0 (fun r => { r with landed := 256, owner := some (3, 0) }) (slot0 (descB 0 0 0x3FFF 1 0x4000 4) id (running job0))), 0, parseDesc (descB 0 0 0x3FFF 1 0x4000 4), 3, 0, by decide +kernel, by decide +kernel, by decide +kernel, by decide +kernel, by decide +kernel, by decide +kernel, by decide +kernel, of_some2 (cmdOf launchB (.launch 5 1 [0] [])) (by decide +kernel) (fun l => by simp [cmdOf]), by decide +kernel⟩,
   ⟨on dev1, 0, by decide +kernel⟩,
   ⟨on ((modSlot 1 (fun x => { x with state := .wait, desc := some (parseDesc (descB 0 1 0x3FFF 1 0x8000 8)) }) (slot0 (descB 0 0 1 1 0x4000 8) id dev1) |> modSlot 0 (fun x => { x with state := .wait }))), 0, 1, parseDesc (descB 0 0 1 1 0x4000 8), by decide +kernel⟩,
   ⟨on (modSlot 0 (fun x => { x with state := .done }) (slot0 (descB 0 0 1 1 0x4000 8) id dev1)), 0, 1, parseDesc (descB 0 0 1 1 0x4000 8), by decide +kernel⟩,
   ⟨on ((slot0 (descB 0 1 0x3FFF 1 0x4000 8) id dev1) |> modSlot 0 (fun x => { x with state := .blocked })), 0, parseDesc (descB 0 1 0x3FFF 1 0x4000 8), 0, 256, by decide +kernel⟩,
   ⟨on dev1, 0, by decide +kernel⟩,
   ⟨on (modSlotRun 0 (fun r => { r with frames := [3], owed := [(0, 0)] }) (slot0 (descB 5 1 0x3FFF 1 0x4000 8) (fun x => { x with spilled := true }) devF)), 0, parseDesc (descB 5 1 0x3FFF 1 0x4000 8), 3, [], 0, by decide +kernel⟩,
   ⟨on (modSlot 1 (fun x => { x with state := .wait, desc := some (parseDesc (descB 0 1 0x3FFF 1 0x8000 8)) }) (modSlotRun 0 (fun r => { r with frames := [3] }) (slot0 (descB 0 0 1 1 0x4000 8) (fun x => { x with spilled := true }) dev1))), 0, parseDesc (descB 0 0 1 1 0x4000 8), 3, [], 1, parseDesc (descB 0 1 0x3FFF 1 0x8000 8), by decide +kernel⟩,
   ⟨on (modSlotRun 0 (fun r => { r with frames := [3], owed := [(0, 1)] }) (slot0 (descB 5 1 0x3FFF 1 0x4000 8) (fun x => { x with spilled := true }) devF)), 0, parseDesc (descB 5 1 0x3FFF 1 0x4000 8), 3, [], by decide +kernel⟩,
   ⟨on dev1, 0, by decide +kernel⟩,
   ⟨on dev1, 2, 1, by decide +kernel⟩,
   ⟨on dev1, 0, 7, by decide +kernel⟩⟩

/-- States and operands that meet the hypotheses of O41, clause by clause. -/
theorem witness_BarriersAndThreadsOfCores :
    (∃ (s : State) (p : PosId) (h : Fin 32) (j : Job), s.dev.jobAt (s.dev.logicalOf p.val) = some j ∧ s.dev.issues p.val = true ∧ s.dev.logicalOf p.val ∈ s.dev.members j h.val ∧ (h.val = 0 → s.dev.outSettled p.val = true) ∧ (h.val = 0 → (s.dev.jobImage j).bind (fun v => v.image.group) = none)) ∧
    (∃ (s : State) (p : PosId) (h : Fin 32) (j : Job) (v : ImageVersion) (g : BitVec 12) (b : Box) (m : Nat), s.dev.jobAt (s.dev.logicalOf p.val) = some j ∧ s.dev.issues p.val = true ∧ s.dev.logicalOf p.val ∈ s.dev.members j h.val ∧ (h.val = 0 → s.dev.outSettled p.val = true) ∧ s.dev.mesh.jobs = [j] ∧ h.val = 0 ∧ s.dev.jobImage j = some v ∧ v.image.group = some g ∧ (∀ c ∈ j.cores, c = s.dev.logicalOf p.val ∨ (0, c) ∈ j.arrivals) ∧ s.dev.memberBox g.toNat = some b ∧ s.dev.groupParent b = some m ∧ (s.dev.group g.toNat).barrier.ownNow = false) ∧
    (∃ (s : State) (p : PosId) (h : Fin 32) (j : Job), s.dev.jobAt (s.dev.logicalOf p.val) = some j ∧ (s.dev.issues p.val = false ∨ s.dev.logicalOf p.val ∉ s.dev.members j h.val ∨ (h.val = 0 ∧ s.dev.outSettled p.val = false))) ∧
    (∃ (s : State) (q : QueueId) (i : U32) (h : Fin 32) (j : Job), s.dev.job q.toNat i = some j ∧ s.dev.members j h.val ≠ [] ∧ (∀ c ∈ s.dev.members j h.val, (h.val, c) ∈ j.arrivals) ∧ (h.val = 0 → ∀ g, (s.dev.jobImage j).bind (fun v => v.image.group) = some g → ∃ a, j.groupArr = some a ∧ s.dev.released a.1 a.2 = true) ∧ j.preempted = false) ∧
    (∃ (s : State) (q : QueueId) (i : U32) (h : Fin 32) (j : Job), s.dev.job q.toNat i = some j ∧ s.dev.members j h.val ≠ [] ∧ (∀ c ∈ s.dev.members j h.val, (h.val, c) ∈ j.arrivals) ∧ (h.val = 0 → ∀ g, (s.dev.jobImage j).bind (fun v => v.image.group) = some g → ∃ a, j.groupArr = some a ∧ s.dev.released a.1 a.2 = true) ∧ j.preempted = true) ∧
    (∃ (s : State) (q : QueueId) (i : U32) (h : Fin 32), (∀ j, s.dev.job q.toNat i = some j → (∃ c ∈ s.dev.members j h.val, (h.val, c) ∉ j.arrivals) ∨ (h.val = 0 ∧ ((s.dev.jobImage j).bind (fun v => v.image.group)).isSome = true ∧ j.groupArr = none))) ∧
    (∃ (s : State) (p : PosId) (b : List Byte), s.dev.issues p.val = true ∧ (s.dev.jobAt (s.dev.logicalOf p.val)).isSome = true ∧ collFault s.dev (slice b 0 64) = false) ∧
    (∃ (s : State) (p : PosId) (b : List Byte) (q : Nat) (c : Cmd), s.dev.issues p.val = true ∧ (s.dev.jobAt (s.dev.logicalOf p.val)).isSome = true ∧ collFault s.dev (slice b 0 64) = true ∧ s.dev.ownerOf p.val = some (q, c.index) ∧ (s.dev.qrun q).running = [c] ∧ c.completed = false ∧ c.committed = false ∧ c.facts = [] ∧ (∀ j ∈ s.dev.mesh.jobs, j.preempted = false)) ∧
    (∃ (s : State) (p : PosId) (_b : List Byte), (s.dev.issues p.val = false ∨ s.dev.jobAt (s.dev.logicalOf p.val) = none)) ∧
    (∃ (s : State) (q : QueueId) (b : List Byte) (o : Nat), ReadyHead s.dev q.toNat 0 b 1 ∧ Alone s.dev q.toNat 1 ∧ byteAt b 0 = 8 ∧ byteAt b 0x10 = 1 ∧ fabricBarrierFault s.dev b = some o) ∧
    (∃ (s : State) (q : QueueId) (b : List Byte), ReadyHead s.dev q.toNat 0 b 1 ∧ Alone s.dev q.toNat 1 ∧ byteAt b 0 = 8 ∧ byteAt b 0x10 = 1 ∧ fabricBarrierFault s.dev b = none ∧ s.dev.released (field b 0x14 4) (BitVec.ofNat 64 (field b 0x18 8)) = true) ∧
    (∃ (s : State) (q : QueueId) (b : List Byte), ReadyHead s.dev q.toNat 0 b 1 ∧ Alone s.dev q.toNat 1 ∧ byteAt b 0 = 8 ∧ byteAt b 0x10 = 1 ∧ fabricBarrierFault s.dev b = none ∧ s.dev.groupAlone (field b 0x14 4) = true) ∧
    (∃ (s : State) (q : QueueId) (b : List Byte) (x : Box) (m : Nat), ReadyHead s.dev q.toNat 0 b 1 ∧ Alone s.dev q.toNat 1 ∧ byteAt b 0 = 8 ∧ byteAt b 0x10 = 1 ∧ fabricBarrierFault s.dev b = none ∧ s.dev.memberBox (field b 0x14 4) = some x ∧ s.dev.groupParent x = some m ∧ s.dev.groupAlone (field b 0x14 4) = false ∧ (s.dev.group (field b 0x14 4)).barrier.seq = BitVec.ofNat 64 (field b 0x18 8)) ∧
    (∃ (s : State) (p : PosId) (n : Nat) (_rd : Fin 32) (_v : U64), (s.dev.core p.val).entry.thread = true ∧ (s.dev.core p.val).nextThread = some n) ∧
    (∃ (s : State) (p : PosId) (n : Nat) (_rd : Fin 32) (_ra : Fin 32) (_rb : Fin 32), (s.dev.core p.val).entry.thread = true ∧ (s.dev.core p.val).nextThread = some n) ∧
    (∃ (s : State) (p : PosId) (n : Nat) (_rd : Fin 32) (_a : BitVec 20), (s.dev.core p.val).entry.thread = true ∧ (s.dev.core p.val).nextThread = some n) ∧
    (∃ (s : State) (p : PosId) (n : Nat) (_rs : Fin 32) (_a : BitVec 20), (s.dev.core p.val).entry.thread = true ∧ (s.dev.core p.val).nextThread = some n) ∧
    (∃ (s : State) (p : PosId) (n : Nat) (_v : U64), (s.dev.core p.val).entry.thread = true ∧ (s.dev.core p.val).nextThread = some n) ∧
    (∃ (s : State) (p : PosId) (n : Nat), (s.dev.core p.val).entry.thread = true ∧ (s.dev.core p.val).nextThread = some n) ∧
    (∃ (s : State) (p : PosId) (n : Nat) (k : Fin 8), (s.dev.core p.val).entry.thread = true ∧ (s.dev.core p.val).nextThread = some n ∧ (s.dev.slot (8 * p.val + k.val)).swappable = false ∧ (s.dev.slot (8 * p.val + k.val)).working = true) ∧
    (∃ (s : State) (p : PosId) (n : Nat) (_src : FarSrc) (_k : Fin 65) (_a : BitVec 20), (s.dev.core p.val).entry.thread = true ∧ (s.dev.core p.val).nextThread = some n) ∧
    (∃ (s : State) (p : PosId) (_i : ThreadInstr), ((s.dev.core p.val).entry.thread = false ∨ (s.dev.core p.val).nextThread = none)) ∧
    (∃ (s : State) (p : PosId) (n : Fin 16) (_b : List Byte) (r : FarRead) (a : BitVec 40), (s.dev.core p.val).entry.thread = true ∧ ((s.dev.core p.val).thread n.val).read = some r ∧ inLm r.dest r.bytes = true ∧ r.src = .stacks a ∧ inSoft a.toNat r.bytes = true) ∧
    (∃ (s : State) (p : PosId) (n : Fin 16) (b : List Byte) (r : FarRead) (a : U64), (s.dev.core p.val).entry.thread = true ∧ ((s.dev.core p.val).thread n.val).read = some r ∧ inLm r.dest r.bytes = true ∧ r.src = .host a ∧ r.bytes ≤ b.length) ∧
    (∃ (s : State) (p : PosId) (n : Fin 16) (_b : List Byte) (r : FarRead) (d : PosId) (a : BitVec 20) (data : List (Byte × Bool)), (s.dev.core p.val).entry.thread = true ∧ ((s.dev.core p.val).thread n.val).read = some r ∧ inLm r.dest r.bytes = true ∧ r.src = .core d a ∧ r.arrived = some data ∧ data.length = r.bytes) ∧
    (∃ (s : State) (p : PosId) (n : Fin 16) (_b : List Byte) (r : FarRead) (d : PosId) (a : BitVec 20), (s.dev.core p.val).entry.thread = true ∧ ((s.dev.core p.val).thread n.val).read = some r ∧ inLm r.dest r.bytes = true ∧ r.src = .core d a ∧ r.arrived = none) ∧
    (∃ (s : State) (p : PosId) (n : Fin 16) (_b : List Byte), ((s.dev.core p.val).entry.thread = false ∨ ((s.dev.core p.val).thread n.val).read = none)) :=
  ⟨⟨on (running job0), 0, 0, job0, by decide +kernel⟩,
   ⟨on (grouped job0), 0, 0, job0, { ver1 with image := { img0 with group := some 1 } }, 1, { loX := 0, hiX := 1, loY := 0, hiY := 0, loZ := 0, hiZ := 0 }, 0, by decide +kernel⟩,
   ⟨on (running { job0 with held := true }), 0, 0, { job0 with held := true }, by decide +kernel⟩,
   ⟨on (running { job0 with arrivals := [(0, 0)] }), 3, 0, 0, { job0 with arrivals := [(0, 0)] }, by decide +kernel, by decide +kernel, by decide +kernel, fun _ => of_none (by decide +kernel), by decide +kernel⟩,
   ⟨on (running { job0 with arrivals := [(0, 0)], preempted := true }), 3, 0, 0, { job0 with arrivals := [(0, 0)], preempted := true }, by decide +kernel, by decide +kernel, by decide +kernel, fun _ => of_none (by decide +kernel), by decide +kernel⟩,
   ⟨on dev1, 3, 0, 0, of_none (by decide +kernel)⟩,
   ⟨on (withJob devF), 0, mk 64 [(0, 4, 1), (8, 8, 1), (0x10, 8, 0x4000), (0x18, 8, 0x5000), (0x20, 8, 1)], by decide +kernel⟩,
   ⟨on (withJob devF), 0, mk 64 [], 3, cmdOf launchB (.launch 5 1 [0] []), by decide +kernel⟩,
   ⟨on dev1, 0, mk 64 [], by decide +kernel⟩,
   ⟨on (ring (mk 64 [(0, 1, 8), (0x10, 1, 1), (0x14, 4, 4095)]) devF), 3, mk 64 [(0, 1, 8), (0x10, 1, 1), (0x14, 4, 4095)], 0x14, by unfold ReadyHead Alone; decide +kernel⟩,
   ⟨on (ring (mk 64 [(0, 1, 8), (0x10, 1, 1), (0x14, 4, 1)]) (modBarrier 1 (fun x => { x with begun := true }) devF)), 3, mk 64 [(0, 1, 8), (0x10, 1, 1), (0x14, 4, 1)], by unfold ReadyHead Alone; decide +kernel⟩,
   ⟨on (ring (mk 64 [(0, 1, 8), (0x10, 1, 1), (0x14, 4, 1)]) (modGroup 1 (fun g => { g with box := some { loX := 0, hiX := 0, loY := 0, hiY := 0, loZ := 0, hiZ := 0 } }) devF)), 3, mk 64 [(0, 1, 8), (0x10, 1, 1), (0x14, 4, 1)], by unfold ReadyHead Alone; decide +kernel⟩,
   ⟨on (ring (mk 64 [(0, 1, 8), (0x10, 1, 1), (0x14, 4, 1), (0x18, 8, 1)]) devF1), 3, mk 64 [(0, 1, 8), (0x10, 1, 1), (0x14, 4, 1), (0x18, 8, 1)], { loX := 0, hiX := 1, loY := 0, hiY := 0, loZ := 0, hiZ := 0 }, 0, by unfold ReadyHead Alone; decide +kernel⟩,
   ⟨on (threaded id), 0, 0, 31, 7, by decide +kernel⟩,
   ⟨on ((threaded (fun t => { t with regs := [(1, 2), (2, 3)] })) |> modCore 0 (fun c => { c with lastThread := 15 })), 0, 0, 1, 1, 2, by decide +kernel⟩,
   ⟨on (threaded id), 0, 0, 0, 0xFFFF8, by decide +kernel⟩,
   ⟨on ((threaded (fun t => { t with regs := [(0, 0x1122334455667788)] })) |> modCore 0 (fun c => { c with lastThread := 15 })), 0, 0, 0, 0xFFFF8, by decide +kernel⟩,
   ⟨on (threaded id), 0, 0, 9, by decide +kernel⟩,
   ⟨on (threaded id), 0, 0, by decide +kernel⟩,
   ⟨on (slot0 (descB 0 0 0x3FFF 1 0x4000 8) id (threaded id)), 0, 0, 0, by decide +kernel⟩,
   ⟨on (threaded id), 0, 0, .host 0x10000, 64, 0, by decide +kernel⟩,
   ⟨on dev1, 0, .jump 0, by decide +kernel⟩,
   ⟨on (threaded (fun t => { t with read := some (farFrom (.stacks 0x4000)) })), 0, 0, [], farFrom (.stacks 0x4000), 0x4000, by decide +kernel⟩,
   ⟨on (threaded (fun t => { t with read := some (farFrom (.host 0x10000)) })), 0, 0, List.replicate 64 7, farFrom (.host 0x10000), 0x10000, by decide +kernel⟩,
   ⟨on (threaded (fun t => { t with read := some { farFrom (.core 1 0x80) with arrived := some (List.replicate 64 (7, false)) } })), 0, 0, [], { farFrom (.core 1 0x80) with arrived := some (List.replicate 64 (7, false)) }, 1, 0x80, List.replicate 64 (7, false), by decide +kernel⟩,
   ⟨on (threaded (fun t => { t with read := some (farFrom (.core 1 0x80)) })), 0, 0, [], farFrom (.core 1 0x80), 1, 0x80, by decide +kernel⟩,
   ⟨on dev1, 0, 0, [], by decide +kernel⟩⟩

/-- States and operands that meet the hypotheses of O42, clause by clause. -/
theorem witness_ScoringRunsInBatches :
    (∃ (s : State) (q : QueueId) (b : List Byte) (l : Layout), ReadyHead s.dev q.toNat 3 b 1 ∧ Alone s.dev q.toNat 1 ∧ byteAt b 0 = 2 ∧ scoreFault s.dev q.toNat b = none ∧ scoreLayout s.dev b = some l) ∧
    (∃ (s : State) (q : QueueId) (b : List Byte) (o : Nat), ReadyHead s.dev q.toNat 3 b 1 ∧ Alone s.dev q.toNat 1 ∧ byteAt b 0 = 2 ∧ scoreFault s.dev q.toNat b = some o) ∧
    (∃ (s : State) (first : BitVec 11) (_given : List (List Byte × Bool)) (_bad : List (Fin 80 × BitVec 14)) (q : Nat) (i : U32) (c : Cmd) (l : Layout) (next : Nat) (fl : Nat) (late : Nat) (v0 : U32) (v : EnsVersion), NoRetry s.dev ∧ s.dev.waitingFor first.toNat = [(.score q i next, l)] ∧ s.dev.cmd q i = some c ∧ c.work = .score l next fl v0 late ∧ scoreService c.bytes = none ∧ scoreFlag c.bytes 0 = false ∧ next < scoreRecords c.bytes ∧ 0 < l.capacity ∧ (s.dev.sgroup first.toNat).active = none ∧ s.dev.inOrder 0x17 l.ensemble.toNat = true ∧ (∀ x ∈ l.ring, (s.dev.placeOf x).isSome = true) ∧ l.ring.all (s.dev.freeFor first.toNat) = true ∧ s.dev.currentVersion l.ensemble.toNat = some v) ∧
    (∃ (s : State) (first : BitVec 11) (_given : List (List Byte × Bool)) (_bad : List (Fin 80 × BitVec 14)), NoRetry s.dev ∧ s.dev.waitingFor first.toNat = []) ∧
    (∃ (s : State) (first : BitVec 11) (lmErrors : List (PosId × BitVec 20 × Bool)) (b : Batch) (e : Ensemble), (s.dev.sgroup first.toNat).active = some b ∧ s.dev.versionOf b = some e ∧ (∀ x ∈ lmErrors, x.2.2 = false) ∧ b.step + 1 < b.layout.g) ∧
    (∃ (s : State) (first : BitVec 11) (lmErrors : List (PosId × BitVec 20 × Bool)) (b : Batch) (e : Ensemble), (s.dev.sgroup first.toNat).active = some b ∧ s.dev.versionOf b = some e ∧ (∀ x ∈ lmErrors, x.2.2 = false) ∧ b.step + 1 = b.layout.g ∧ (s.dev.sgroup first.toNat).finishing = none) ∧
    (∃ (s : State) (first : BitVec 11), (∀ b, (s.dev.sgroup first.toNat).active = some b → b.step + 1 = b.layout.g ∧ (s.dev.sgroup first.toNat).finishing.isSome = true)) ∧
    (∃ (s : State) (first : BitVec 11) (p : PosId) (_a : BitVec 20) (b : Batch), (s.dev.sgroup first.toNat).active = some b ∧ (s.dev.sgroup first.toNat).next = none ∧ (s.dev.sgroup first.toNat).finishing = none ∧ b.preempts = none ∧ b.replays < 3 ∧ s.dev.unreplayable b.segment.1 b.segment.2 = false ∧ p.val ∈ s.dev.ringPlaces first.toNat ∧ (s.dev.core p.val).ueTimes = [] ∧ s.dev.agreed 13 = true) ∧
    (∃ (s : State) (first : BitVec 11), (s.dev.sgroup first.toNat).finishing = none) ∧
    (∃ (s : State) (first : BitVec 11) (b : Batch) (e : Ensemble) (q : Nat) (i : U32) (r0 : Nat) (next : Nat) (fl : Nat) (late : Nat) (l : Layout) (v : U32) (c : Cmd), (s.dev.sgroup first.toNat).finishing = some b ∧ s.dev.versionOf b = some e ∧ b.source = .score q i r0 ∧ s.dev.cmd q i = some c ∧ c.work = .score l next fl v late ∧ fl = 1 ∧ scoreRecords c.bytes ≤ next ∧ (s.dev.qrun q).running = [c] ∧ c.completed = false) :=
  ⟨⟨on (ring scoreB devS), 3, scoreB, lay0, by unfold ReadyHead Alone; decide +kernel⟩,
   ⟨on (ring (mk 64 [(0, 1, 2), (0x10, 8, 0x2001)]) devS), 3, mk 64 [(0, 1, 2), (0x10, 8, 0x2001)], 0x10, by unfold ReadyHead Alone; decide +kernel⟩,
   ⟨on (scoring (.score lay0 0 0 1 0) ScoreGroup.reset), 0, [], [], 3, 0, cmdOf scoreB (.score lay0 0 0 1 0), lay0, 0, 0, 0, 1, { number := 1, content := ens0, batches := 0, addr := 0, bytes := 0, era := 0 }, noRetry_of _ (by decide +kernel), by decide +kernel⟩,
   ⟨on devS, 0, [], [], noRetry_of _ (by decide +kernel), by decide +kernel⟩,
   ⟨on (scoring (.score lay0 64 1 1 0) { ScoreGroup.reset with layout := some lay0, active := some (batch0 { lay0 with group := 2 } 0) }), 0, [], batch0 { lay0 with group := 2 } 0, ens0, by decide +kernel, by decide +kernel, List.forall_mem_nil _, by decide +kernel⟩,
   ⟨on (scoring (.score lay0 64 1 1 0) { ScoreGroup.reset with layout := some lay0, active := some (batch0 lay0 0) }), 0, [], batch0 lay0 0, ens0, by decide +kernel, by decide +kernel, List.forall_mem_nil _, by decide +kernel⟩,
   ⟨on dev1, 0, of_none (by decide +kernel)⟩,
   ⟨on (scoring (.score lay0 64 1 1 0) { ScoreGroup.reset with layout := some lay0, active := some (batch0 lay0 0) }), 0, 0, 0, batch0 lay0 0, by decide +kernel⟩,
   ⟨on dev1, 0, by decide +kernel⟩,
   ⟨on (scoring (.score lay0 100 1 1 0) { ScoreGroup.reset with layout := some lay0, finishing := some (batch0 lay0 0) }), 0, batch0 lay0 0, ens0, 3, 0, 0, 100, 1, 0, lay0, 1, cmdOf scoreB (.score lay0 100 1 1 0), by decide +kernel⟩⟩

/-- States and operands that meet the hypotheses of O42, clause by clause. -/
theorem witness_ScoringRunsInBatches_finish :
    (∃ (s : State) (first : BitVec 11) (b : Batch) (e : Ensemble), (s.dev.sgroup first.toNat).finishing = some b ∧ s.dev.versionOf b = some e) ∧
    (∃ (s : State) (first : BitVec 11) (b : Batch) (e : Ensemble) (q : Nat) (i : U32) (r0 : Nat) (next : Nat) (fl : Nat) (late : Nat) (l : Layout) (v : U32) (c : Cmd), (s.dev.sgroup first.toNat).finishing = some b ∧ s.dev.versionOf b = some e ∧ b.source = .score q i r0 ∧ s.dev.cmd q i = some c ∧ c.work = .score l next fl v late ∧ 1 < fl) :=
  ⟨⟨on (scoring (.score lay0 64 1 1 0) { ScoreGroup.reset with layout := some lay0, finishing := some (batch0 lay0 0) }), 0, batch0 lay0 0, ens0, by decide +kernel⟩,
   ⟨on (scoring (.score lay0 64 2 1 0) { ScoreGroup.reset with layout := some lay0, finishing := some (batch0 lay0 0) }), 0, batch0 lay0 0, ens0, 3, 0, 0, 64, 2, 0, lay0, 1, cmdOf scoreB (.score lay0 64 2 1 0), by decide +kernel, by decide +kernel, by decide +kernel, by decide +kernel, by decide +kernel, by decide +kernel⟩⟩

/-- States and operands that meet the hypotheses of O43, clause by clause. -/
theorem witness_ScoringMeetsDeadlinesAndJobs :
    (∃ (s : State) (first : BitVec 11) (b : Batch), (s.dev.sgroup first.toNat).active = some b ∧ (s.dev.sgroup first.toNat).next = none ∧ (s.dev.sgroup first.toNat).finishing = none) ∧
    (∃ (s : State) (first : BitVec 11) (l : Layout) (j : Job), (s.dev.sgroup first.toNat).layout = some l ∧ s.dev.mesh.jobs = [j] ∧ j.preempted = true ∧ (∃ c ∈ l.ring, c ∈ j.cores) ∧ (∀ g ∈ s.dev.scoring.groups, ∀ b ∈ g.2.batches, b.preempts ≠ some (j.queue, j.index)) ∧ j.killed = false ∧ j.latched = []) ∧
    (∃ (s : State) (first : BitVec 11) (l : Layout) (j : Job) (c : Cmd), (s.dev.sgroup first.toNat).layout = some l ∧ s.dev.mesh.jobs = [j] ∧ j.preempted = true ∧ (∃ c ∈ l.ring, c ∈ j.cores) ∧ (∀ g ∈ s.dev.scoring.groups, ∀ b ∈ g.2.batches, b.preempts ≠ some (j.queue, j.index)) ∧ j.killed = true ∧ (s.dev.qrun j.queue).running = [c] ∧ c.index = j.index ∧ c.completed = false ∧ c.committed = false ∧ c.facts = []) ∧
    (∃ (s : State) (first : BitVec 11) (l : Layout) (j : Job), (s.dev.sgroup first.toNat).layout = some l ∧ s.dev.mesh.jobs = [j] ∧ j.preempted = true ∧ (∃ c ∈ l.ring, c ∈ j.cores) ∧ (∃ g ∈ s.dev.scoring.groups, ∃ b ∈ g.2.batches, b.preempts = some (j.queue, j.index))) ∧
    (∃ (s : State) (_first : BitVec 11), (∀ j ∈ s.dev.mesh.jobs, j.preempted = false)) ∧
    (∃ (s : State) (p : PosId) (op : SquirrelOp) (v : EnsVersion) (i : Nat) (n : Nat) (codes : List U32) (m : Bool), s.dev.issues p.val = true ∧ ((s.dev.ens op.ensemble.toNat).versions.find? (fun v => decide (v.number = op.version ∧ v.era = (s.dev.ens op.ensemble.toNat).era)) = some v) ∧ squirrelKeysBad op v.content.trees.length = false ∧ op.keys = 0 ∧ op.writeCodes = false ∧ (∀ e ∈ op.lmErrors, e.2 = false) ∧ n = 4 * v.content.outputs * (squirrelBlocks s.dev p.val v.content op).length ∧ s.dev.inProgram p.val op.leavesAt.toNat (n * op.count.val) = true ∧ op.records.toNat + v.content.recordBytes false * op.count.val ≤ 2 ^ 20 ∧ i < op.count.val ∧ localRecord (s.dev.core p.val) v.content op i = (codes, m)) ∧
    (∃ (s : State) (p : PosId) (op : SquirrelOp) (v : EnsVersion) (q : Nat) (c : Cmd), s.dev.issues p.val = true ∧ ((s.dev.ens op.ensemble.toNat).versions.find? (fun v => decide (v.number = op.version ∧ v.era = (s.dev.ens op.ensemble.toNat).era)) = some v) ∧ squirrelKeysBad op v.content.trees.length = true ∧ s.dev.ownerOf p.val = some (q, c.index) ∧ (s.dev.qrun q).running = [c] ∧ c.completed = false ∧ c.committed = false ∧ c.facts = [] ∧ (∀ j ∈ s.dev.mesh.jobs, j.preempted = false)) ∧
    (∃ (s : State) (p : PosId) (_op : SquirrelOp), s.dev.issues p.val = false) :=
  ⟨⟨on (scoring (.score lay0 64 1 1 0) { ScoreGroup.reset with active := some { batch0 lay0 0 with deadline := some 0 } }), 0, { batch0 lay0 0 with deadline := some 0 }, by decide +kernel⟩,
   ⟨on (modSGroup 0 (fun g => { g with layout := some lay0 }) (running { job0 with preempted := true, preemptedAt := 0, saved := [saveCore dev5 [] 0] })), 0, lay0, { job0 with preempted := true, preemptedAt := 0, saved := [saveCore dev5 [] 0] }, by decide +kernel⟩,
   ⟨on (modSGroup 0 (fun g => { g with layout := some lay0 }) (running { job0 with preempted := true, killed := true, saved := [saveCore dev5 [] 0] })), 0, lay0, { job0 with preempted := true, killed := true, saved := [saveCore dev5 [] 0] }, cmdOf launchB (.launch 5 1 [0] []), by decide +kernel⟩,
   ⟨on (modSGroup 0 (fun g => { g with layout := some lay0, active := some { batch0 lay0 0 with preempts := some (3, 0) } }) (running { job0 with preempted := true })), 0, lay0, { job0 with preempted := true }, by decide +kernel⟩,
   ⟨on dev1, 0, by decide +kernel⟩,
   ⟨on squirreling, 0, squirrelOp0, { number := 1, content := ens0, batches := 0, addr := 0, bytes := 0, era := 0 }, 0, 4, [0], false, by decide +kernel, by decide +kernel, by decide +kernel, by decide +kernel, by decide +kernel, List.forall_mem_nil _, by decide +kernel⟩,
   ⟨on squirreling, 0, { squirrelOp0 with keys := 3 }, { number := 1, content := ens0, batches := 0, addr := 0, bytes := 0, era := 0 }, 4, cmdOf launchB (.launch 5 1 [0] []), by decide +kernel⟩,
   ⟨on (running { job0 with held := true }), 0, squirrelOp0, by decide +kernel⟩⟩

/-- States and operands that meet the hypotheses of O44, clause by clause. -/
theorem witness_GrowingFollowsItsOperations :
    (∃ (s : State) (q : QueueId) (b : List Byte) (x : Schedule) (y : ScheduleAt) (u : GrowNode × Nat), ReadyHead s.dev q.toNat 4 b 1 ∧ Alone s.dev q.toNat 1 ∧ byteAt b 0 = 3 ∧ growJudged s.dev q.toNat b [] = none ∧ growSchedule s.dev b = (x, y) ∧ y.collective = 0xFFFFFFFF ∧ (s.dev.session (growNo b)).inRound = true ∧ (s.dev.session (growNo b)).sched = some (x, y) ∧ (s.dev.session (growNo b)).tree = some u ∧ (s.dev.session (growNo b)).treeInRound + 1 < x.treesPerRound.toNat ∧ growOp b = 0) ∧
    (∃ (s : State) (q : QueueId) (b : List Byte) (x : Schedule) (y : ScheduleAt) (u : GrowNode × Nat), ReadyHead s.dev q.toNat 4 b 1 ∧ Alone s.dev q.toNat 1 ∧ byteAt b 0 = 3 ∧ growJudged s.dev q.toNat b [] = none ∧ growSchedule s.dev b = (x, y) ∧ y.collective = 0xFFFFFFFF ∧ (s.dev.session (growNo b)).inRound = true ∧ (s.dev.session (growNo b)).sched = some (x, y) ∧ (s.dev.session (growNo b)).tree = some u ∧ (s.dev.session (growNo b)).treeInRound + 1 < x.treesPerRound.toNat ∧ growOp b = 1) ∧
    (∃ (s : State) (q : QueueId) (b : List Byte) (x : Schedule) (y : ScheduleAt) (u : Session × List (Nat × BitVec 6)), ReadyHead s.dev q.toNat 4 b 1 ∧ Alone s.dev q.toNat 1 ∧ byteAt b 0 = 3 ∧ growJudged s.dev q.toNat b [] = none ∧ growSchedule s.dev b = (x, y) ∧ y.collective = 0xFFFFFFFF ∧ growOp b = 0 ∧ (s.dev.session (growNo b)).inRound = false ∧ startRound q.toNat b x y 1 s.dev = some u ∧ 1 < x.treesPerRound.toNat) ∧
    (∃ (s : State) (q : QueueId) (b : List Byte) (x : Schedule) (y : ScheduleAt), ReadyHead s.dev q.toNat 4 b 1 ∧ Alone s.dev q.toNat 1 ∧ byteAt b 0 = 3 ∧ growJudged s.dev q.toNat b [] = none ∧ growSchedule s.dev b = (x, y) ∧ y.collective = 0xFFFFFFFF ∧ growOp b = 0 ∧ (s.dev.session (growNo b)).inRound = false ∧ startRound q.toNat b x y 1 s.dev = none) ∧
    (∃ (s : State) (q : QueueId) (b : List Byte), ReadyHead s.dev q.toNat 4 b 1 ∧ Alone s.dev q.toNat 1 ∧ byteAt b 0 = 3 ∧ growJudged s.dev q.toNat b [] = none ∧ growReady s.dev b 0 = true ∧ growOp b = 2) ∧
    (∃ (s : State) (q : QueueId) (b : List Byte), ReadyHead s.dev q.toNat 4 b 1 ∧ Alone s.dev q.toNat 1 ∧ byteAt b 0 = 3 ∧ growJudged s.dev q.toNat b [] = none ∧ growReady s.dev b 0 = true ∧ growOp b = 3) ∧
    (∃ (s : State) (q : QueueId) (b : List Byte) (o : Nat) (p : Nat) (i : Instr), ReadyHead s.dev q.toNat 4 b 1 ∧ Alone s.dev q.toNat 1 ∧ byteAt b 0 = 3 ∧ growJudged s.dev q.toNat b [] = some (o, p) ∧ ((growOp b = 0 ∧ i = .growLevel q []) ∨ (growOp b = 1 ∧ i = .growEndTree q []) ∨ (growOp b = 2 ∧ i = .growDiscard q []) ∨ (growOp b = 3 ∧ i = .growClose q []) ∨ (4 ≤ growOp b ∧ i = .growLevel q []))) ∧
    (∃ (s : State) (q : QueueId) (c : Cmd) (n : Nat) (r : GrowRetry) (x : Schedule) (y : ScheduleAt), (s.dev.qrun q.toNat).running = [c] ∧ c.completed = false ∧ c.work = .growRetry n ∧ s.dev.retries.find? (fun k => decide (k.1 = n)) = some (n, r) ∧ r.session.sched = some (x, y) ∧ s.dev.inOrder 0x18 x.ensemble.toNat = true ∧ (judgeRound r.session x y (bitOf (field c.bytes 0x22 1) 1) s.dev).1 = 0) ∧
    (∃ (s : State) (q : QueueId) (c : Cmd) (n : Nat) (r : GrowRetry) (x : Schedule) (y : ScheduleAt), (s.dev.qrun q.toNat).running = [c] ∧ c.completed = false ∧ c.work = .growRetry n ∧ s.dev.retries.find? (fun k => decide (k.1 = n)) = some (n, r) ∧ r.session.sched = some (x, y) ∧ (judgeRound r.session x y (bitOf (field c.bytes 0x22 1) 1) s.dev).1 = 5) ∧
    (∃ (s : State) (q : QueueId) (c : Cmd) (n : Nat) (r : GrowRetry) (x : Schedule) (y : ScheduleAt), (s.dev.qrun q.toNat).running = [c] ∧ c.completed = false ∧ c.work = .growRetry n ∧ s.dev.retries.find? (fun k => decide (k.1 = n)) = some (n, r) ∧ r.session.sched = some (x, y) ∧ (judgeRound r.session x y (bitOf (field c.bytes 0x22 1) 1) s.dev).1 ≠ 0 ∧ (judgeRound r.session x y (bitOf (field c.bytes 0x22 1) 1) s.dev).1 ≠ 5) ∧
    (∃ (s : State) (q : QueueId), (∀ c ∈ s.dev.live q.toNat, ∀ n, c.work ≠ .growRetry n)) :=
  ⟨⟨on (ring (growB 0) devG), 3, growB 0, (parseSchedule schedB).1, (parseSchedule schedB).2, (.frontier 0, 0), by unfold ReadyHead Alone; decide +kernel⟩,
   ⟨on (ring (growB 1) devG), 3, growB 1, (parseSchedule schedB).1, (parseSchedule schedB).2, (.frontier 0, 0), by unfold ReadyHead Alone; decide +kernel⟩,
   ⟨on (ring restageB (setCells 0x1000 schedB devE)), 3, restageB, (parseSchedule schedB).1, (parseSchedule schedB).2, (startRound 3 restageB (parseSchedule schedB).1 (parseSchedule schedB).2 1 (setCells 0x1000 schedB devE)).getD (Session.reset, []), by unfold ReadyHead Alone; decide +kernel⟩,
   ⟨on (ring restageB (setCells 0x1000 schedB dev1)), 3, restageB, (parseSchedule schedB).1, (parseSchedule schedB).2, by unfold ReadyHead Alone; decide +kernel⟩,
   ⟨on (ring (growB 2) devG), 3, growB 2, by unfold ReadyHead Alone; decide +kernel⟩,
   ⟨on (ring (growB 3) devG), 3, growB 3, by unfold ReadyHead Alone; decide +kernel⟩,
   ⟨on (ring (growB 4) devG), 3, growB 4, 0x21, 0, .growLevel 3 [], by unfold ReadyHead; decide +kernel, by unfold Alone; decide +kernel, by decide +kernel, by decide +kernel, Or.inr (Or.inr (Or.inr (Or.inr ⟨by decide +kernel, rfl⟩)))⟩,
   ⟨on { (busy (cmdOf (growB 1) (.growRetry 2)) devG) with retries := [(2, { session := sess0, report := report0 })] }, 3, cmdOf (growB 1) (.growRetry 2), 2, { session := sess0, report := report0 }, (parseSchedule schedB).1, (parseSchedule schedB).2, by decide +kernel⟩,
   ⟨on { (busy (cmdOf (growB 1) (.growRetry 2)) devGfull) with retries := [(2, { session := sess0, report := report0 })] }, 3, cmdOf (growB 1) (.growRetry 2), 2, { session := sess0, report := report0 }, (parseSchedule schedB).1, (parseSchedule schedB).2, by decide +kernel⟩,
   ⟨on { (busy (cmdOf (growB 1) (.growRetry 2)) devG) with retries := [(2, { session := { sess0 with base := 9 }, report := report0 })] }, 3, cmdOf (growB 1) (.growRetry 2), 2, { session := { sess0 with base := 9 }, report := report0 }, (parseSchedule schedB).1, (parseSchedule schedB).2, by decide +kernel⟩,
   ⟨on dev1, 3, (by intro c h; cases h)⟩⟩

/-- States and operands that meet the hypotheses of O45, clause by clause. -/
theorem witness_AbandonedStepsChangeNoRow :
    (∃ (s : State) (q : QueueId) (b : List Byte), ReadyHead s.dev q.toNat 5 b 1 ∧ Alone s.dev q.toNat 1 ∧ byteAt b 0 = 4 ∧ field b 0x22 1 = 2 ∧ embFault b = none ∧ s.dev.poisonedIn (field b 0x18 8) (16 * field b 0x20 2) = 0 ∧ blockFails s.dev 2 (BitVec.ofNat 64 (field b 0x10 8)) (stepEntries s.dev b) = false) :=
  ⟨on (ring (embB 2 0) (devT5 (some 5))), 3, embB 2 0, by unfold ReadyHead Alone; decide +kernel⟩

/-- States and operands that meet the hypotheses of O46, clause by clause. -/
theorem witness_StepsAndRequestsOfTables :
    (∃ (s : State) (q : QueueId) (b : List Byte), ReadyHead s.dev q.toNat 5 b 1 ∧ Alone s.dev q.toNat 1 ∧ byteAt b 0 = 4 ∧ field b 0x22 1 = 0 ∧ embFault b = none ∧ s.dev.poisonedIn (field b 0x18 8) (16 * field b 0x20 2) = 0 ∧ blockFails s.dev 0 (BitVec.ofNat 64 (field b 0x10 8)) (stepEntries s.dev b) = false) ∧
    (∃ (s : State) (q : QueueId) (b : List Byte) (i : Instr) (o : Nat), ReadyHead s.dev q.toNat 5 b 1 ∧ Alone s.dev q.toNat 1 ∧ byteAt b 0 = 4 ∧ ((field b 0x22 1 ≠ 1 ∧ field b 0x22 1 ≠ 2 ∧ i = .embStepBegin q) ∨ (field b 0x22 1 = 1 ∧ ∃ op, i = .embStepApply q op) ∨ (field b 0x22 1 = 2 ∧ i = .embStepAbandon q)) ∧ embFault b = some o) ∧
    (∃ (s : State) (q : QueueId) (b : List Byte) (i : Instr), ReadyHead s.dev q.toNat 5 b 1 ∧ Alone s.dev q.toNat 1 ∧ byteAt b 0 = 4 ∧ ((field b 0x22 1 ≠ 1 ∧ field b 0x22 1 ≠ 2 ∧ i = .embStepBegin q) ∨ (field b 0x22 1 = 1 ∧ ∃ op, i = .embStepApply q op) ∨ (field b 0x22 1 = 2 ∧ i = .embStepAbandon q)) ∧ embFault b = none ∧ s.dev.poisonedIn (field b 0x18 8) (16 * field b 0x20 2) = 0 ∧ blockFails s.dev (field b 0x22 1) (BitVec.ofNat 64 (field b 0x10 8)) (stepEntries s.dev b) = true) ∧
    (∃ (s : State) (q : QueueId) (b : List Byte) (rows : Nat), ReadyHead s.dev q.toNat 5 b 1 ∧ Alone s.dev q.toNat 1 ∧ byteAt b 0 = 4 ∧ field b 0x22 1 = 1 ∧ embFault b = none ∧ s.dev.poisonedIn (field b 0x18 8) (16 * field b 0x20 2) = 0 ∧ blockFails s.dev 1 (BitVec.ofNat 64 (field b 0x10 8)) (stepEntries s.dev b) = false ∧ applyGroups s.dev ((stepEntries s.dev b).map stepEntry) = [] ∧ ((stepEntries s.dev b).map (fun e => (s.dev.table (stepEntry e).table).staging.length)).sum ≤ rows ∧ (∀ e ∈ stepEntries s.dev b, (s.dev.table (stepEntry e).table).gathers = [])) ∧
    (∃ (s : State) (q : QueueId) (b : List Byte) (_rows : Nat) (_others : List StagedRow), ReadyHead s.dev q.toNat 5 b 1 ∧ Alone s.dev q.toNat 1 ∧ byteAt b 0 = 4 ∧ field b 0x22 1 = 1 ∧ embFault b = none ∧ s.dev.poisonedIn (field b 0x18 8) (16 * field b 0x20 2) = 0 ∧ blockFails s.dev 1 (BitVec.ofNat 64 (field b 0x10 8)) (stepEntries s.dev b) = false ∧ applyGroups s.dev ((stepEntries s.dev b).map stepEntry) ≠ []) ∧
    (∃ (s : State) (r : List Byte) (_slot : SlotId) (x : TableDesc) (g : Nat) (p : Nat), byteAt r 0 = 1 ∧ badRequest s.dev r = false ∧ (s.dev.table (field r 2 2)).desc = some x ∧ bits (field r 0x10 8) 45 32 = s.dev.fabric.cfg.moduleId.toNat ∧ x.rowOf (field r 8 5) = some g ∧ (s.dev.ownerRow x g).1 = s.dev.fabric.cfg.moduleId.toNat ∧ (s.dev.table (field r 2 2)).applying = false ∧ s.dev.placeOf (bits (field r 0x10 8) 30 20) = some p) ∧
    (∃ (s : State) (r : List Byte) (_slot : SlotId) (x : TableDesc) (p : Nat), byteAt r 0 = 1 ∧ badRequest s.dev r = false ∧ (s.dev.table (field r 2 2)).desc = some x ∧ bits (field r 0x10 8) 45 32 = s.dev.fabric.cfg.moduleId.toNat ∧ x.rowOf (field r 8 5) = none ∧ s.dev.placeOf (bits (field r 0x10 8) 30 20) = some p) ∧
    (∃ (s : State) (r : List Byte) (_slot : SlotId) (x : TableDesc) (g : Nat) (l : Nat) (k : Nat) (u : U64) (v : Staged), byteAt r 0 = 2 ∧ badRequest s.dev r = false ∧ (s.dev.table (field r 2 2)).desc = some x ∧ x.rowOf (field r 8 5) = some g ∧ s.dev.ownerRow x g = (s.dev.fabric.cfg.moduleId.toNat, l) ∧ k = s.dev.rowChannel (field r 2 2) x l ∧ x.opt ≠ 0 ∧ (s.dev.table (field r 2 2)).step = some u ∧ u.toNat % 2 ^ 32 = field r 4 4 ∧ (s.dev.table (field r 2 2)).staged l = some v) ∧
    (∃ (s : State) (r : List Byte) (_slot : SlotId) (x : TableDesc) (g : Nat) (l : Nat) (k : Nat) (u : U64), byteAt r 0 = 2 ∧ badRequest s.dev r = false ∧ (s.dev.table (field r 2 2)).desc = some x ∧ x.rowOf (field r 8 5) = some g ∧ s.dev.ownerRow x g = (s.dev.fabric.cfg.moduleId.toNat, l) ∧ k = s.dev.rowChannel (field r 2 2) x l ∧ x.opt ≠ 0 ∧ (s.dev.table (field r 2 2)).step = some u ∧ u.toNat % 2 ^ 32 = field r 4 4 ∧ (s.dev.table (field r 2 2)).staged l = none ∧ 8 * (((s.dev.table (field r 2 2)).inUse k).length + 1) ≤ 7 * x.slots.toNat) ∧
    (∃ (s : State) (r : List Byte) (_slot : SlotId) (x : TableDesc) (g : Nat) (l : Nat) (k : Nat) (u : U64), byteAt r 0 = 2 ∧ badRequest s.dev r = false ∧ (s.dev.table (field r 2 2)).desc = some x ∧ x.rowOf (field r 8 5) = some g ∧ s.dev.ownerRow x g = (s.dev.fabric.cfg.moduleId.toNat, l) ∧ k = s.dev.rowChannel (field r 2 2) x l ∧ x.opt ≠ 0 ∧ (s.dev.table (field r 2 2)).step = some u ∧ u.toNat % 2 ^ 32 = field r 4 4 ∧ (s.dev.table (field r 2 2)).staged l = none ∧ 7 * x.slots.toNat < 8 * (((s.dev.table (field r 2 2)).inUse k).length + 1)) ∧
    (∃ (s : State) (r : List Byte) (_slot : SlotId) (x : TableDesc) (g : Nat) (l : Nat) (k : Nat), byteAt r 0 = 2 ∧ badRequest s.dev r = false ∧ (s.dev.table (field r 2 2)).desc = some x ∧ x.rowOf (field r 8 5) = some g ∧ s.dev.ownerRow x g = (s.dev.fabric.cfg.moduleId.toNat, l) ∧ k = s.dev.rowChannel (field r 2 2) x l ∧ (x.opt = 0 ∨ (∀ u, (s.dev.table (field r 2 2)).step = some u → u.toNat % 2 ^ 32 ≠ field r 4 4))) ∧
    (∃ (s : State) (r : List Byte) (slot : SlotId) (i : Instr), badRequest s.dev r = true ∧ ((byteAt r 0 = 1 ∧ i = .gather r slot) ∨ (byteAt r 0 = 2 ∧ i = .scatterAdd r slot))) :=
  ⟨⟨on (ring (embB 0 0) (devT5 none)), 3, embB 0 0, by unfold ReadyHead Alone; decide +kernel⟩,
   ⟨on (ring (embB 0 4) (devT5 none)), 3, embB 0 4, .embStepBegin 3, 0x23, by unfold ReadyHead; decide +kernel, by unfold Alone; decide +kernel, by decide +kernel, Or.inl ⟨by decide +kernel, by decide +kernel, rfl⟩, by decide +kernel⟩,
   ⟨on (ring (embB 0 0) dev1), 3, embB 0 0, .embStepBegin 3, by unfold ReadyHead; decide +kernel, by unfold Alone; decide +kernel, by decide +kernel, Or.inl ⟨by decide +kernel, by decide +kernel, rfl⟩, by decide +kernel⟩,
   ⟨on (ring (embB 1 1) devTS), 3, embB 1 1, 1, by unfold ReadyHead Alone; decide +kernel⟩,
   ⟨on (ring (embB 1 1) { (modTable 9 (fun t => { t with desc := some { parseTable tabBytes with shard := 1, collective := 1 } }) (devT5 (some 5))) with fabric := devF.fabric }), 3, embB 1 1, 0, [], by unfold ReadyHead Alone; decide +kernel⟩,
   ⟨on devT, mk 32 [(0, 1, 1), (2, 2, 9), (8, 8, 99)], 0, parseTable tabBytes, 99, 0, by decide +kernel⟩,
   ⟨on devT, mk 32 [(0, 1, 1), (2, 2, 9), (8, 8, 100)], 0, parseTable tabBytes, 0, by decide +kernel⟩,
   ⟨on devTS, scatterB, 0, parseTable tabBytes, 99, 99, devT.rowChannel 9 (parseTable tabBytes) 99, 5, freshStaged (parseTable tabBytes) (devT.rowChannel 9 (parseTable tabBytes) 99) 0 99 5, by decide +kernel⟩,
   ⟨on (devT5 (some 5)), scatterB, 0, parseTable tabBytes, 99, 99, devT.rowChannel 9 (parseTable tabBytes) 99, 5, by decide +kernel⟩,
   ⟨on (modTable 9 (fun t => { t with staging := (List.range 14).map (fun i => freshStaged (parseTable tabBytes) (devT.rowChannel 9 (parseTable tabBytes) 99) i i 5) }) (devT5 (some 5))), scatterB, 0, parseTable tabBytes, 99, 99, devT.rowChannel 9 (parseTable tabBytes) 99, 5, by decide +kernel⟩,
   ⟨on (devT5 none), scatterB, 0, parseTable tabBytes, 99, 99, devT.rowChannel 9 (parseTable tabBytes) 99, by decide +kernel, by decide +kernel, by decide +kernel, by decide +kernel, by decide +kernel, by decide +kernel, Or.inr (of_none (by decide +kernel))⟩,
   ⟨on devT, mk 32 [(0, 1, 1), (2, 2, 1024)], 0, .gather (mk 32 [(0, 1, 1), (2, 2, 1024)]) 0, by decide +kernel⟩⟩

/-- States and operands that meet the hypotheses of O47, clause by clause. -/
theorem witness_ExactSumsHaveNoOrder :
    (∃ (_wide : Bool) (l : List Xs) (m : List Xs), l.Perm m ∧ (∀ x ∈ l, tagKind x.tag = 3 → tagClass x.tag ≠ 0)) :=
  ⟨true, [{ reg := 5, tag := 0 }, { reg := 7, tag := 0xFF }], [{ reg := 7, tag := 0xFF }, { reg := 5, tag := 0 }], List.Perm.swap _ _ _, by decide +kernel⟩

/-- States and operands that meet the hypotheses of O48, clause by clause. -/
theorem witness_ArrayStepsSumAndWeightsLoad :
    (∃ (s : State) (p : PosId) (op : ArrayOp) (ctl : AccCtl), s.dev.issues p.val = true ∧ accCtl op.ctl = some ctl ∧ (∀ e ∈ op.lmErrors, e.2 = false) ∧ op.left = .int8 ∧ op.weight = .int8 ∧ inLine 1 op.addr.toNat 64 = true) ∧
    (∃ (s : State) (p : PosId) (op : ArrayOp) (ctl : AccCtl), s.dev.issues p.val = true ∧ accCtl op.ctl = some ctl ∧ (∀ e ∈ op.lmErrors, e.2 = false) ∧ op.left = .lf32 ∧ op.weight = .lf32 ∧ inLine 4 op.addr.toNat 32 = true ∧ op.kEnd.toNat = op.k0.toNat + 1) ∧
    (∃ (s : State) (p : PosId) (op : ArrayOp) (q : Nat) (c : Cmd), s.dev.issues p.val = true ∧ accCtl op.ctl = none ∧ s.dev.ownerOf p.val = some (q, c.index) ∧ (s.dev.qrun q).running = [c] ∧ c.completed = false ∧ c.committed = false ∧ c.facts = [] ∧ (∀ j ∈ s.dev.mesh.jobs, j.preempted = false)) ∧
    (∃ (s : State) (p : PosId) (f : Fmt) (a : BitVec 20) (ks : Nat) (lm : LmErrors), s.dev.issues p.val = true ∧ stepShape f f = some ks ∧ inLines a.toNat (blockBytes f) = true ∧ (∀ e ∈ lm, e.2 = false)) ∧
    (∃ (s : State) (p : PosId), s.dev.issues p.val = true) ∧
    (∃ (s : State) (p : PosId) (op : PromoOp), s.dev.issues p.val = true ∧ promoFits op = true ∧ (∀ e ∈ op.lmErrors, e.2 = false)) ∧
    (∃ (s : State) (p : PosId) (op : PreloadOp), s.dev.issues p.val = true ∧ preloadFits op = true ∧ op.fmt.isXs = false ∧ (∀ e ∈ op.lmErrors, e.2 = false)) ∧
    (∃ (s : State) (p : PosId) (i : Instr), s.dev.issues p.val = false ∧ ((∃ op, i = .arrayStep p op) ∨ (∃ f op, i = .weightLoad p f op) ∨ i = .weightSwap p ∨ (∃ op, i = .promotion p op) ∨ ∃ op, i = .preload p op)) :=
  ⟨⟨on dev1, 0, arrayOp0, { order := .seq, chunk := 0, first := true, iov := false, rnd := .nearestEven }, by decide +kernel, by decide +kernel, List.forall_mem_nil _, by decide +kernel⟩,
   ⟨on dev1, 0, { arrayOp0 with left := .lf32, weight := .lf32, addr := 0xFFFE0, kEnd := 1 }, { order := .seq, chunk := 0, first := true, iov := false, rnd := .nearestEven }, by decide +kernel, by decide +kernel, List.forall_mem_nil _, by decide +kernel⟩,
   ⟨on (running job0), 0, { arrayOp0 with ctl := 0x80 }, 3, cmdOf launchB (.launch 5 1 [0] []), by decide +kernel⟩,
   ⟨on dev1, 0, .lf16, 0xFF800, 32, [], by decide +kernel, by decide +kernel, by decide +kernel, List.forall_mem_nil _⟩,
   ⟨on dev1, 0, by decide +kernel⟩,
   ⟨on dev1, 0, { row := 0, wide := true, base := 0, rnd := .nearestEven, ints := false, values := 0, tags := 0x10000, columns := 32, tensor := 0, index := 0, instr := 0, lmErrors := [] }, by decide +kernel, by decide +kernel, List.forall_mem_nil _⟩,
   ⟨on dev1, 0, { residual := true, src := 0, fmt := .lf16, ints := false, firstRow := 0, rows := 512, rnd := .nearestEven, sat := false, iov := false, base := 0, tags := 0, tensor := 0, index := 0, instr := 0, lmErrors := [] }, by decide +kernel, by decide +kernel, by decide +kernel, List.forall_mem_nil _⟩,
   ⟨on (running { job0 with held := true }), 0, .weightSwap 0, by decide +kernel, Or.inr (Or.inr (Or.inl rfl))⟩⟩

/-- States and operands that meet the hypotheses of O49, clause by clause. -/
theorem witness_VectorAndOutputUnitsCompute :
    (∃ (s : State) (p : PosId) (op : VecOp) (a : BitVec 20) (b : BitVec 20), s.dev.issues p.val = true ∧ op.op = .add ∧ op.a = .lm a ∧ op.b = .lm b ∧ vecFits op = true ∧ (∀ e ∈ op.lmErrors, e.2 = false) ∧ (op.fmt = .int16 ∨ op.fmt = .lf32)) ∧
    (∃ (s : State) (p : PosId) (op : MomOp), s.dev.issues p.val = true ∧ momFits op = true ∧ (∀ e ∈ op.lmErrors, e.2 = false) ∧ (∀ i, i < op.lanes.val → ((s.dev.core p.val).elemAt (momFmt op) (op.src.toNat + (momFmt op).size * i)).2 = false) ∧ (∀ x ∈ [op.t1.toNat, op.t2.toNat], ∀ y ∈ [op.t1Tag.toNat, op.t2Tag.toNat], y < x ∨ x + xsSize op.wide ≤ y) ∧ op.t1Tag ≠ op.t2Tag ∧ (op.t1.toNat + xsSize op.wide ≤ op.t2.toNat ∨ op.t2.toNat + xsSize op.wide ≤ op.t1.toNat)) ∧
    (∃ (s : State) (p : PosId) (op : MomFinOp) (x : Xs) (_y : Xs), s.dev.issues p.val = true ∧ momFinFits op = true ∧ (∀ e ∈ op.lmErrors, e.2 = false) ∧ (op.mean.toNat + 4 ≤ op.variance.toNat ∨ op.variance.toNat + 4 ≤ op.mean.toNat) ∧ (s.dev.core p.val).xsAt op.wide op.t1.toNat op.t1Tag.toNat 0 = (x, false) ∧ tagKind x.tag = 0 ∧ xsInRange op.wide (xsInt op.wide x) = true ∧ op.count ≠ 0) ∧
    (∃ (s : State) (p : PosId) (op : OutOp) (f : Fmt), s.dev.issues p.val = true ∧ outControlBad op.control.toNat = false ∧ outFmt (bits op.control.toNat 3 0) = some f ∧ outFits op f = true ∧ (∀ e ∈ op.lmErrors, e.2 = false)) ∧
    (∃ (s : State) (p : PosId) (op : OutOp) (q : Nat) (c : Cmd), s.dev.issues p.val = true ∧ outControlBad op.control.toNat = true ∧ s.dev.ownerOf p.val = some (q, c.index) ∧ (s.dev.qrun q).running = [c] ∧ c.completed = false ∧ c.committed = false ∧ c.facts = []) ∧
    (∃ (s : State) (p : PosId) (i : Instr), s.dev.issues p.val = false ∧ ((∃ op, i = .vectorOp p op) ∨ (∃ op, i = .moments p op) ∨ (∃ op, i = .sumsq p op) ∨ (∃ op, i = .momentsFinish p op) ∨ ∃ op, i = .outputStage p op)) :=
  ⟨⟨on dev1, 0, { op := .add, fmt := .lf32, a := .lm 0, b := .lm 256, c := .lm 0, lanes := 64, dst := 512, rnd := .nearestEven, tensor := 0, index := 0, instr := 0, lmErrors := [] }, 0, 256, by decide +kernel, by decide +kernel, by decide +kernel, by decide +kernel, by decide +kernel, List.forall_mem_nil _, by decide +kernel⟩,
   ⟨on dev1, 0, { lf16 := false, src := 0, lanes := 2, wide := true, base1 := 0, base2 := 0, t1 := 256, t1Tag := 512, t2 := 272, t2Tag := 513, rnd := .nearestEven, tensor := 0, index := 0, instr := 0, lmErrors := [] }, by decide +kernel, by decide +kernel, List.forall_mem_nil _, by decide +kernel⟩,
   ⟨on dev1, 0, { wide := true, base1 := 0, base2 := 0, t1 := 256, t1Tag := 512, t2 := 272, t2Tag := 513, count := 1, sample := false, rnd := .nearestEven, mean := 600, variance := 604, tensor := 0, index := 0, instr := 0, lmErrors := [] }, Xs.zero, Xs.zero, by decide +kernel, by decide +kernel, List.forall_mem_nil _, by decide +kernel⟩,
   ⟨on dev1, 0, { control := 0, row := 0, ints := false, values := 0, tags := 0, wide := false, base := 0, scale := 0, scaleAt := 0, biasAt := 0, second := 0, secondLf16 := false, columns := 2, dst := 0x1000, tensor := 0, index := 0, instr := 0, lmErrors := [] }, .lf32, by decide +kernel, by decide +kernel, by decide +kernel, by decide +kernel, List.forall_mem_nil _⟩,
   ⟨on (running job0), 0, { control := 0x40000, row := 0, ints := false, values := 0, tags := 0, wide := false, base := 0, scale := 0, scaleAt := 0, biasAt := 0, second := 0, secondLf16 := false, columns := 2, dst := 0x1000, tensor := 0, index := 0, instr := 0, lmErrors := [] }, 3, cmdOf launchB (.launch 5 1 [0] []), by decide +kernel⟩,
   ⟨on (running { job0 with held := true }), 0, .moments 0 { lf16 := false, src := 0, lanes := 2, wide := true, base1 := 0, base2 := 0, t1 := 256, t1Tag := 512, t2 := 272, t2Tag := 513, rnd := .nearestEven, tensor := 0, index := 0, instr := 0, lmErrors := [] }, by decide +kernel, Or.inr (Or.inl ⟨_, rfl⟩)⟩⟩

/-- States and operands that meet the hypotheses of O50, clause by clause. -/
theorem witness_DeferredItemsRun :
    (∃ (s : State) (p : PosId) (op : DeferOp) (i : DeferItem × Nat) (w : TowerDecl) (st : StageDecl) (td : TensorDecl) (o : Nat) (ctl : AccCtl) (ks : Nat), s.dev.issues p.val = true ∧ s.dev.placeOf i.1.owner.toNat = some o ∧ (∀ e ∈ op.lmErrors, e.2 = false) ∧ nextItem s.dev p.val true 1 = some i ∧ accCtl op.control = some ctl ∧ stepShape op.fmt op.fmt = some ks ∧ s.dev.sumTensor p.val i.1.layer 1 = some (w, st, td) ∧ wgradFits op ks = true) ∧
    (∃ (s : State) (p : PosId) (op : DeferOp) (i : DeferItem × Nat) (w : TowerDecl) (st : StageDecl) (td : TensorDecl) (o : Nat) (kind : Byte) (x : Instr) (products : Bool), s.dev.issues p.val = true ∧ s.dev.placeOf i.1.owner.toNat = some o ∧ (∀ e ∈ op.lmErrors, e.2 = false) ∧ nextItem s.dev p.val false kind = some i ∧ ((kind = 2 ∧ x = .biasSum p op ∧ products = false) ∨ (kind = 3 ∧ x = .scaleSum p op ∧ products = true) ∨ (kind = 4 ∧ x = .normSum p op ∧ products = true)) ∧ s.dev.sumTensor p.val i.1.layer kind.toNat = some (w, st, td) ∧ columnFits op products = true) ∧
    (∃ (s : State) (p : PosId) (op : DeferOp) (x : Instr), ((x = .wgradTile p op ∧ nextItem s.dev p.val true 1 = none) ∨ (x = .biasSum p op ∧ nextItem s.dev p.val false 2 = none) ∨ (x = .scaleSum p op ∧ nextItem s.dev p.val false 3 = none) ∨ (x = .normSum p op ∧ nextItem s.dev p.val false 4 = none) ∨ (x = .add p ∧ nextItem s.dev p.val false 5 = none))) ∧
    (∃ (s : State) (p : PosId) (i : DeferItem × Nat) (c : Contribution), s.dev.issues p.val = true ∧ nextItem s.dev p.val false 5 = some i ∧ (s.dev.core p.val).dense.taken i.1 = some c) ∧
    (∃ (s : State) (p : PosId) (op : UpdateOp) (j : Job) (v : ImageVersion) (w : TowerDecl) (st : StageDecl) (td : TensorDecl) (k : Nat), s.dev.issues p.val = true ∧ s.dev.jobAt (s.dev.logicalOf p.val) = some j ∧ s.dev.jobImage j = some v ∧ imageTensor v.image op.tensor = some (w, st, td) ∧ s.dev.updateDue j w op.update.toNat = true ∧ op.update = (s.dev.stash w.header.toNat).newest + 1 ∧ (takeStash w.header.toNat p.val op.update s.dev).1 = some k) ∧
    (∃ (s : State) (p : PosId) (op : UpdateOp) (j : Job) (v : ImageVersion) (w : TowerDecl) (st : StageDecl) (td : TensorDecl), s.dev.issues p.val = true ∧ s.dev.jobAt (s.dev.logicalOf p.val) = some j ∧ s.dev.jobImage j = some v ∧ imageTensor v.image op.tensor = some (w, st, td) ∧ (s.dev.updateDue j w op.update.toNat = false ∨ op.update ≠ (s.dev.stash w.header.toNat).newest + 1)) ∧
    (∃ (s : State) (n : SlotId) (j : Job) (v : ImageVersion) (x : DenseSwap) (h : BitVec 40) (m : U64) (a : BitVec 20) (w : TowerDecl), s.dev.jobAt (s.dev.logicalOf (n.val / 8)) = some j ∧ s.dev.jobImage j = some v ∧ j.preempted = false ∧ (s.dev.core (n.val / 8)).waiting = [] ∧ j.held = false ∧ (∀ w ∈ v.image.towers, (s.dev.stash w.header.toNat).ripe = none) ∧ denseReady s.dev (n.val / 8) (s.dev.logicalOf (n.val / 8)) v.image x = true ∧ x = .start h m a ∧ a.toNat + 16 ≤ 2 ^ 20 ∧ v.image.towers.find? (fun w => w.header = h) = some w) ∧
    (∃ (s : State) (n : SlotId) (j : Job) (v : ImageVersion) (x : DenseSwap) (h : BitVec 40) (a : BitVec 20), s.dev.jobAt (s.dev.logicalOf (n.val / 8)) = some j ∧ s.dev.jobImage j = some v ∧ j.preempted = false ∧ (s.dev.core (n.val / 8)).waiting = [] ∧ j.held = false ∧ (∀ w ∈ v.image.towers, (s.dev.stash w.header.toNat).ripe = none) ∧ denseReady s.dev (n.val / 8) (s.dev.logicalOf (n.val / 8)) v.image x = true ∧ x = .finish h a) ∧
    (∃ (s : State) (n : SlotId) (j : Job) (v : ImageVersion) (x : DenseSwap) (tensor : U32) (back : Bool) (r : Rotation) (k : Nat) (w : TowerDecl) (st : StageDecl) (td : TensorDecl), s.dev.jobAt (s.dev.logicalOf (n.val / 8)) = some j ∧ s.dev.jobImage j = some v ∧ j.preempted = false ∧ (s.dev.core (n.val / 8)).waiting = [] ∧ j.held = false ∧ (∀ w ∈ v.image.towers, (s.dev.stash w.header.toNat).ripe = none) ∧ denseReady s.dev (n.val / 8) (s.dev.logicalOf (n.val / 8)) v.image x = true ∧ x = .rotate tensor back ∧ imageTensor v.image tensor = some (w, st, td) ∧ (s.dev.core (n.val / 8)).dense.rotation td.id back = some r ∧ r.arrived = some k) ∧
    (∃ (s : State) (n : SlotId) (j : Job) (v : ImageVersion) (x : DenseSwap) (tensor : U32) (back : Bool) (a : BitVec 20) (w : TowerDecl) (st : StageDecl) (td : TensorDecl), s.dev.jobAt (s.dev.logicalOf (n.val / 8)) = some j ∧ s.dev.jobImage j = some v ∧ j.preempted = false ∧ (s.dev.core (n.val / 8)).waiting = [] ∧ j.held = false ∧ (∀ w ∈ v.image.towers, (s.dev.stash w.header.toNat).ripe = none) ∧ denseReady s.dev (n.val / 8) (s.dev.logicalOf (n.val / 8)) v.image x = true ∧ x = .product tensor back a ∧ imageTensor v.image tensor = some (w, st, td) ∧ td.sharded = true) ∧
    (∃ (s : State) (n : SlotId) (j : Job) (v : ImageVersion) (x : DenseSwap), s.dev.jobAt (s.dev.logicalOf (n.val / 8)) = some j ∧ s.dev.jobImage j = some v ∧ j.preempted = false ∧ (s.dev.core (n.val / 8)).waiting = [] ∧ j.held = false ∧ (∀ w ∈ v.image.towers, (s.dev.stash w.header.toNat).ripe = none) ∧ denseReady s.dev (n.val / 8) (s.dev.logicalOf (n.val / 8)) v.image x = false) ∧
    (∃ (s : State) (n : SlotId) (_x : DenseSwap), (∀ j, s.dev.jobAt (s.dev.logicalOf (n.val / 8)) = some j → j.preempted = true)) :=
  ⟨⟨on (denseOf (tensor0 1) { job0 with cycle := 100 } (fun x => { x with array := [item0 1] }) (stash0 0)), 0, deferOp0, (item0 1, 100), tower0 (tensor0 1), stage0 (tensor0 1), tensor0 1, 1, { order := .seq, chunk := 0, first := false, iov := false, rnd := .nearestEven }, 8, by decide +kernel, by decide +kernel, List.forall_mem_nil _, by decide +kernel⟩,
   ⟨on (denseOf (tensor0 4) { job0 with cycle := 100 } (fun x => { x with vector := [item0 4] }) (stash0 0)), 0, deferOp0, (item0 4, 100), tower0 (tensor0 4), stage0 (tensor0 4), tensor0 4, 1, 4, .normSum 0 deferOp0, true, by decide +kernel, by decide +kernel, List.forall_mem_nil _, by decide +kernel, Or.inr (Or.inr ⟨rfl, rfl, rfl⟩), by decide +kernel⟩,
   ⟨on dev1, 0, deferOp0, .add 0, Or.inr (Or.inr (Or.inr (Or.inr ⟨rfl, by decide +kernel⟩)))⟩,
   ⟨on (denseOf (tensor0 1) { job0 with cycle := 100 } (fun x => { x with vector := [item0 5], arrived := [contrib0] }) (stash0 0)), 0, (item0 5, 100), contrib0, by decide +kernel⟩,
   ⟨on (denseOf (tensor0 1) { job0 with stepClosed := true } id (stash0 1)), 0, { tensor := 1, update := 1, others := [], instr := 0 }, { job0 with stepClosed := true }, { ver1 with image := { img0 with towers := [tower0 (tensor0 1)] } }, tower0 (tensor0 1), stage0 (tensor0 1), tensor0 1, 1, by decide +kernel⟩,
   ⟨on (denseOf (tensor0 1) job0 id (stash0 0)), 0, { tensor := 1, update := 1, others := [], instr := 0 }, job0, { ver1 with image := { img0 with towers := [tower0 (tensor0 1)] } }, tower0 (tensor0 1), stage0 (tensor0 1), tensor0 1, by decide +kernel⟩,
   ⟨on (denseOf (tensor0 1) job0 id (stash0 0)), 0, job0, { ver1 with image := { img0 with towers := [tower0 (tensor0 1)] } }, .start 0x6000 0 0xFFFF0, 0x6000, 0, 0xFFFF0, tower0 (tensor0 1), by decide +kernel⟩,
   ⟨on (denseOf (tensor0 1) job0 id { stash0 0 with flight := [(0, 0, [0])] }), 0, job0, { ver1 with image := { img0 with towers := [tower0 (tensor0 1)] } }, .finish 0x6000 0x4000, 0x6000, 0x4000, by decide +kernel⟩,
   ⟨on (denseOf { tensor0 1 with sharded := true } job0 (fun x => { x with rotations := [{ tensor := 1, backward := false, halfB := false, held := 0, arrived := some 0, step := 0, version := 0 }] }) (stash0 0)), 0, job0, { ver1 with image := { img0 with towers := [tower0 { tensor0 1 with sharded := true }] } }, .rotate 1 false, 1, false, { tensor := 1, backward := false, halfB := false, held := 0, arrived := some 0, step := 0, version := 0 }, 0, tower0 { tensor0 1 with sharded := true }, stage0 { tensor0 1 with sharded := true }, { tensor0 1 with sharded := true }, by decide +kernel⟩,
   ⟨on (denseOf { tensor0 1 with sharded := true } job0 id (stash0 0)), 0, job0, { ver1 with image := { img0 with towers := [tower0 { tensor0 1 with sharded := true }] } }, .product 1 false 0x4000, 1, false, 0x4000, tower0 { tensor0 1 with sharded := true }, stage0 { tensor0 1 with sharded := true }, { tensor0 1 with sharded := true }, by decide +kernel⟩,
   ⟨on (denseOf (tensor0 1) job0 id { stash0 0 with slots := [] }), 0, job0, { ver1 with image := { img0 with towers := [tower0 (tensor0 1)] } }, .start 0x6000 0 0, by decide +kernel⟩,
   ⟨on dev1, 0, .rotate 1 false, of_none (by decide +kernel)⟩⟩

/-- States and operands that meet the hypotheses of O51, clause by clause. -/
theorem witness_FaultsReplayJobs :
    (∃ (s : State) (q : QueueId) (i : U32) (c : Cmd) (j : Job) (v : ImageVersion), s.dev.cmd q.toNat i = some c ∧ c.completed = false ∧ c.committed = false ∧ s.dev.job q.toNat i = some j ∧ s.dev.agreed 13 = true ∧ s.dev.replayFails q.toNat i = false ∧ s.dev.jobImage j = some v ∧ s.dev.jobGroup j = none ∧ j.segment ≠ 0) ∧
    (∃ (s : State) (q : QueueId) (i : U32) (c : Cmd) (j : Job) (v : ImageVersion) (p : PosId) (f : Fmt) (a : BitVec 20) (_x : BitVec 20) (ks : Nat), s.dev.cmd q.toNat i = some c ∧ c.completed = false ∧ c.committed = false ∧ s.dev.job q.toNat i = some j ∧ s.dev.agreed 13 = true ∧ s.dev.replayFails q.toNat i = false ∧ s.dev.jobImage j = some v ∧ s.dev.jobGroup j = none ∧ j.segment ≠ 0 ∧ s.dev.issues p.val = true ∧ stepShape f f = some ks ∧ inLines a.toNat (blockBytes f) = true ∧ s.dev.ownerOf p.val = some (q.toNat, i) ∧ (s.dev.core p.val).ueTimes = []) ∧
    (∃ (s : State) (q : QueueId) (i : U32) (c : Cmd) (j : Job), s.dev.cmd q.toNat i = some c ∧ c.completed = false ∧ c.committed = false ∧ s.dev.job q.toNat i = some j ∧ (s.dev.agreed 13 = false ∨ s.dev.replayFails q.toNat i = true) ∧ s.dev.embed.tables = [] ∧ (s.dev.qrun q.toNat).running = [c] ∧ c.facts = [] ∧ j.preempted = false) ∧
    (∃ (s : State) (q : QueueId) (i : U32), (∀ c, s.dev.cmd q.toNat i = some c → c.completed = true ∨ c.committed = true)) :=
  ⟨⟨on (running { job0 with segment := 1, attempts := 2 }), 3, 0, cmdOf launchB (.launch 5 1 [0] []), { job0 with segment := 1, attempts := 2 }, ver1, by decide +kernel⟩,
   ⟨on (running { job0 with segment := 1, attempts := 2 }), 3, 0, cmdOf launchB (.launch 5 1 [0] []), { job0 with segment := 1, attempts := 2 }, ver1, 0, .lf16, 0xFF800, 0xFFFFF, 32, by decide +kernel⟩,
   ⟨on (running { job0 with attempts := 3 }), 3, 0, cmdOf launchB (.launch 5 1 [0] []), { job0 with attempts := 3 }, by decide +kernel⟩,
   ⟨on (busy { cmdOf (mk 64 []) .plain with completed := true } dev1), 3, 0, of_some { cmdOf (mk 64 []) .plain with completed := true } (by decide +kernel) (Or.inl rfl)⟩⟩

/-- States and operands that meet the hypotheses of O52, clause by clause. -/
theorem witness_StreamAndMemoryFlitsAreTaken :
    (∃ (s : State) (n : LinkId) (f : Flit) (sl : Nat) (x : Desc), ForUs s.dev n.val 2 f ∧ judgeOpen f s.dev = .takes sl x ∧ (s.dev.replaying && s.dev.liveOutside f) = false) ∧
    (∃ (s : State) (n : LinkId) (f : Flit), ForUs s.dev n.val 2 f ∧ judgeOpen f s.dev = .waits ∧ (s.dev.replaying && s.dev.liveOutside f) = false) ∧
    (∃ (s : State) (n : LinkId) (f : Flit), ForUs s.dev n.val 2 f ∧ judgeOpen f s.dev = .drops) ∧
    (∃ (s : State) (n : LinkId) (f : Flit), ForUs s.dev n.val 2 f ∧ (s.dev.replaying && s.dev.liveOutside f) = true) ∧
    (∃ (s : State) (n : LinkId) (f : Flit) (sl : Nat) (x : Desc), ForUs s.dev n.val 1 f ∧ judgeData f s.dev = .takes sl x ∧ x.farKind = 5) ∧
    (∃ (s : State) (n : LinkId) (f : Flit), ForUs s.dev n.val 1 f ∧ judgeData f s.dev = .drops) ∧
    (∃ (s : State) (n : LinkId) (f : Flit) (sl : Nat) (x : Desc), ForUs s.dev n.val 3 f ∧ s.dev.slotOfStream (f.target.toNat % 2 ^ 14) = some sl ∧ (s.dev.slot sl).desc = some x ∧ x.out = true ∧ s.dev.overLinks x = true ∧ (x.farKind = 1 ∨ ((s.dev.slot sl).gen.toNat % 2 ^ 12 = bits f.target.toNat 25 14 ∧ field f.payload 0 4 = s.dev.ackedTransfer sl)) ∧ (s.dev.slot sl).state = .active ∧ (∀ w ∈ (s.dev.slotRun sl).owed, w.2 = 0)) ∧
    (∃ (s : State) (n : LinkId) (f : Flit) (sl : Nat) (x : Desc) (k : Nat) (m : Nat) (rest : List (Nat × Nat)), ForUs s.dev n.val 3 f ∧ s.dev.slotOfStream (f.target.toNat % 2 ^ 14) = some sl ∧ (s.dev.slot sl).desc = some x ∧ x.out = true ∧ s.dev.overLinks x = true ∧ (x.farKind = 1 ∨ ((s.dev.slot sl).gen.toNat % 2 ^ 12 = bits f.target.toNat 25 14 ∧ field f.payload 0 4 = s.dev.ackedTransfer sl)) ∧ (s.dev.slotRun sl).owed = (k, m + 1) :: rest) ∧
    (∃ (s : State) (n : LinkId) (f : Flit) (a : Nat) (k : Nat), ForUs s.dev n.val 4 f ∧ field f.payload 6 2 = 1 ∧ a = field (slice f.payload 8 16) 0 8 ∧ k = field (slice f.payload 8 16) 8 4 ∧ inSoft a k = true ∧ 0 < k ∧ a % 256 + k ≤ 256) ∧
    (∃ (s : State) (n : LinkId) (f : Flit) (a : Nat) (k : Nat), ForUs s.dev n.val 4 f ∧ field f.payload 6 2 = 1 ∧ a = field (slice f.payload 8 16) 0 8 ∧ k = field (slice f.payload 8 16) 8 4 ∧ inSoft a k = false) ∧
    (∃ (s : State) (n : LinkId) (f : Flit) (a : Nat) (b : List Byte), ForUs s.dev n.val 5 f ∧ a = f.target.toNat % 2 ^ 40 ∧ b = f.payload.take f.len.toNat ∧ inSoft a b.length = true) ∧
    (∃ (s : State) (n : LinkId) (f : Flit) (a : Nat) (b : List Byte), ForUs s.dev n.val 5 f ∧ a = f.target.toNat % 2 ^ 40 ∧ b = f.payload.take f.len.toNat ∧ inSoft a b.length = false) ∧
    (∃ (s : State) (n : LinkId) (f : Flit), (s.dev.link n.val).reg.state = .active ∧ f.type = 5 ∧ f.dest = s.dev.fabric.cfg.moduleId ∧ f.seq ≠ (s.dev.link n.val).run.rxSeq) ∧
    (∃ (s : State) (n : LinkId) (f : Flit) (r : List Byte) (tb : Nat), ForUs s.dev n.val 6 f ∧ bits f.target.toNat 38 37 = 0 ∧ s.dev.fabric.parts = [] ∧ r = f.payload.take f.len.toNat ∧ tb = field r 2 2 ∧ bitOf f.target.toNat 0 = true) ∧
    (∃ (s : State) (n : LinkId) (f : Flit) (r : List Byte) (tb : Nat), ForUs s.dev n.val 6 f ∧ bits f.target.toNat 38 37 = 0 ∧ s.dev.fabric.parts = [] ∧ r = f.payload.take f.len.toNat ∧ tb = field r 2 2 ∧ bitOf f.target.toNat 0 = false ∧ badRequest s.dev r = true) ∧
    (∃ (s : State) (n : LinkId) (f : Flit) (r : List Byte) (tb : Nat) (x : TableDesc) (g : Nat) (l : Nat) (p : Nat), ForUs s.dev n.val 6 f ∧ bits f.target.toNat 38 37 = 0 ∧ s.dev.fabric.parts = [] ∧ r = f.payload.take f.len.toNat ∧ tb = field r 2 2 ∧ bitOf f.target.toNat 0 = false ∧ badRequest s.dev r = false ∧ (s.dev.table tb).desc = some x ∧ x.rowOf (field r 8 5) = some g ∧ s.dev.ownerRow x g = (s.dev.fabric.cfg.moduleId.toNat, l) ∧ byteAt r 0 = 1 ∧ (s.dev.table tb).applying = false ∧ bits (field r 0x10 8) 45 32 = s.dev.fabric.cfg.moduleId.toNat ∧ s.dev.placeOf (bits (field r 0x10 8) 30 20) = some p) ∧
    (∃ (s : State) (n : LinkId) (f : Flit) (r : List Byte) (tb : Nat) (x : TableDesc) (g : Nat) (l : Nat), ForUs s.dev n.val 6 f ∧ bits f.target.toNat 38 37 = 0 ∧ s.dev.fabric.parts = [] ∧ r = f.payload.take f.len.toNat ∧ tb = field r 2 2 ∧ bitOf f.target.toNat 0 = false ∧ badRequest s.dev r = false ∧ (s.dev.table tb).desc = some x ∧ x.rowOf (field r 8 5) = some g ∧ s.dev.ownerRow x g = (s.dev.fabric.cfg.moduleId.toNat, l) ∧ byteAt r 0 = 1 ∧ (s.dev.table tb).applying = true) ∧
    (∃ (s : State) (n : LinkId) (f : Flit) (r : List Byte) (tb : Nat) (x : TableDesc) (g : Nat) (l : Nat), ForUs s.dev n.val 6 f ∧ bits f.target.toNat 38 37 = 0 ∧ s.dev.fabric.parts = [] ∧ r = f.payload.take f.len.toNat ∧ tb = field r 2 2 ∧ bitOf f.target.toNat 0 = false ∧ badRequest s.dev r = false ∧ (s.dev.table tb).desc = some x ∧ x.rowOf (field r 8 5) = some g ∧ s.dev.ownerRow x g = (s.dev.fabric.cfg.moduleId.toNat, l) ∧ byteAt r 0 = 2 ∧ (x.opt = 0 ∨ (s.dev.table tb).step = none)) ∧
    (∃ (s : State) (n : LinkId) (f : Flit) (j : Nat × U32), ForUs s.dev n.val 6 f ∧ j = (2 ^ 18 * (f.origin.toNat + 1) + bits f.target.toNat 18 1, BitVec.ofNat 32 (if bitOf f.target.toNat 39 then bits f.target.toNat 36 19 else 2 ^ 20)) ∧ bits f.target.toNat 38 37 = 1 ∧ field f.payload 3 1 = 1 ∧ field f.payload 0 1 = 0) ∧
    (∃ (s : State) (n : LinkId) (f : Flit) (j : Nat × U32) (c : Cmd), ForUs s.dev n.val 6 f ∧ j = (2 ^ 18 * (f.origin.toNat + 1) + bits f.target.toNat 18 1, BitVec.ofNat 32 (if bitOf f.target.toNat 39 then bits f.target.toNat 36 19 else 2 ^ 20)) ∧ bits f.target.toNat 38 37 = 1 ∧ field f.payload 3 1 = 0 ∧ field f.payload 0 1 = 1 ∧ s.dev.live (bits f.target.toNat 18 1) = [c] ∧ c.index.toNat % 2 ^ 18 = j.2.toNat) ∧
    (∃ (s : State) (n : LinkId) (f : Flit) (j : Nat × U32) (x : TableDesc), ForUs s.dev n.val 6 f ∧ j = (2 ^ 18 * (f.origin.toNat + 1) + bits f.target.toNat 18 1, BitVec.ofNat 32 (if bitOf f.target.toNat 39 then bits f.target.toNat 36 19 else 2 ^ 20)) ∧ bits f.target.toNat 38 37 = 2 ∧ (s.dev.table (field f.payload 1 2)).desc = some x) ∧
    (∃ (s : State) (n : LinkId) (f : Flit) (core : Nat) (a : Nat) (left : Nat) (p : Nat), ForUs s.dev n.val 7 f ∧ core = bits f.target.toNat 30 20 ∧ a = f.target.toNat % 2 ^ 20 ∧ left = 16 * bits f.target.toNat 37 31 ∧ s.dev.placeOf core = some p ∧ a + left ≤ 2 ^ 20 ∧ s.dev.askerGone (rowAsker f) = false) ∧
    (∃ (s : State) (n : LinkId) (f : Flit) (core : Nat) (a : Nat) (left : Nat) (p : Nat), ForUs s.dev n.val 7 f ∧ core = bits f.target.toNat 30 20 ∧ a = f.target.toNat % 2 ^ 20 ∧ left = 16 * bits f.target.toNat 37 31 ∧ s.dev.placeOf core = some p ∧ a + left ≤ 2 ^ 20 ∧ s.dev.askerGone (rowAsker f) = true) ∧
    (∃ (s : State) (n : LinkId) (f : Flit) (core : Nat) (a : Nat) (left : Nat), ForUs s.dev n.val 7 f ∧ core = bits f.target.toNat 30 20 ∧ a = f.target.toNat % 2 ^ 20 ∧ left = 16 * bits f.target.toNat 37 31 ∧ (s.dev.placeOf core = none ∨ 2 ^ 20 < a + left) ∧ left ≤ (rowData f).length) :=
  ⟨⟨on (linked (slot0 (descB 5 0 0x3FFF 0 0x4000 8) id devF)), 8, flit0 2 0 (mk 64 [(0, 4, 0x4000)]), 0, parseDesc (descB 5 0 0x3FFF 0 0x4000 8), by unfold ForUs; decide +kernel⟩,
   ⟨on (linked (slot0 (descB 5 0 0x3FFF 0 0x4000 8) id devF)), 8, flit0 2 0 (mk 64 [(0, 4, 0x4000), (8, 4, 1)]), by unfold ForUs; decide +kernel⟩,
   ⟨on (linked devF), 8, flit0 2 0 (mk 64 [(0, 4, 0x4000)]), by unfold ForUs; decide +kernel⟩,
   ⟨on (linked (modSlotRun 0 (fun r => { r with owner := some (3, 0) }) (slot0 (descB 5 0 0x3FFF 0 0x4000 8) id { devF with mode := { devF.mode with traceCtl := 2 } }))), 8, flit0 2 0 (mk 64 [(0, 4, 0x4000)]), by unfold ForUs; decide +kernel⟩,
   ⟨on (linked (modSlotRun 0 (fun r => { r with opened := true }) (slot0 (descB 5 0 0x3FFF 0 0x4000 8) id devF))), 8, { flit0 1 0 (zeros 64) with cls := false }, 0, parseDesc (descB 5 0 0x3FFF 0 0x4000 8), by unfold ForUs; decide +kernel⟩,
   ⟨on (linked (slot0 (descB 5 0 0x3FFF 0 0x4000 8) id devF)), 8, { flit0 1 0 (zeros 64) with cls := false }, by unfold ForUs; decide +kernel⟩,
   ⟨on (linked (slot0 (descB 1 1 0x3FFF 0 0x10000004000 8) id devF)), 8, flit0 3 0 [], 0, parseDesc (descB 1 1 0x3FFF 0 0x10000004000 8), by unfold ForUs; decide +kernel⟩,
   ⟨on (linked (modSlotRun 0 (fun r => { r with owed := [(0, 2)] }) (slot0 (descB 1 1 0x3FFF 0 0x10000004000 8) id devF))), 8, flit0 3 0 [], 0, parseDesc (descB 1 1 0x3FFF 0 0x10000004000 8), 0, 1, [], by unfold ForUs; decide +kernel⟩,
   ⟨on (linked devF), 8, flit0 4 0 (mk 64 [(6, 2, 1), (8, 8, 0x4000), (16, 4, 64)]), 0x4000, 64, by unfold ForUs; decide +kernel⟩,
   ⟨on (linked devF), 8, flit0 4 0 (mk 64 [(6, 2, 1), (8, 8, 0xFFFFFFFFFF), (16, 4, 64)]), 0xFFFFFFFFFF, 64, by unfold ForUs; decide +kernel⟩,
   ⟨on (linked devF), 8, flit0 5 0x4000 (mk 64 [(6, 2, 1)]), 0x4000, mk 64 [(6, 2, 1)], by unfold ForUs; decide +kernel⟩,
   ⟨on (linked devF), 8, flit0 5 0xFFFFFFFFFF (mk 64 [(6, 2, 1)]), 0xFFFFFFFFFF, mk 64 [(6, 2, 1)], by unfold ForUs; decide +kernel⟩,
   ⟨on (linked devF), 8, { flit0 5 0x4000 (mk 64 [(6, 2, 1)]) with seq := 1 }, by decide +kernel⟩,
   ⟨on (linked devF), 8, flit0 6 1 gatherB, gatherB, 9, by unfold ForUs; decide +kernel⟩,
   ⟨on (linked devF), 8, flit0 6 0 gatherB, gatherB, 9, by unfold ForUs; decide +kernel⟩,
   ⟨on (linked { devT with fabric := devF.fabric }), 8, flit0 6 0 gatherB, gatherB, 9, parseTable tabBytes, 99, 99, 0, by unfold ForUs; decide +kernel⟩,
   ⟨on (linked { (modTable 9 (fun t => { t with applying := true }) devT) with fabric := devF.fabric }), 8, flit0 6 0 gatherB, gatherB, 9, parseTable tabBytes, 99, 99, by unfold ForUs; decide +kernel⟩,
   ⟨on (linked { devT with fabric := devF.fabric }), 8, flit0 6 0 scatterB, scatterB, 9, parseTable tabBytes, 99, 99, by unfold ForUs; decide +kernel⟩,
   ⟨on (linked { devT with fabric := devF.fabric }), 8, flit0 6 0x2000000000 (mk 8 [(1, 2, 9), (3, 1, 1)]), (0x80000, 0x100000), by unfold ForUs; decide +kernel⟩,
   ⟨on (linked { (busy (cmdOf (mk 64 []) .plain) devT) with fabric := devF.fabric }), 8, flit0 6 0xA000000006 (mk 8 [(0, 1, 1), (1, 2, 9)]), (0x80003, 0), cmdOf (mk 64 []) .plain, by unfold ForUs; decide +kernel⟩,
   ⟨on (linked { devTS with fabric := devF.fabric }), 8, flit0 6 0x4000000000 (mk 8 [(1, 2, 9)]), (0x80000, 0x100000), parseTable tabBytes, by unfold ForUs; decide +kernel⟩,
   ⟨on (linked devF), 8, flit0 7 0x2000FFFC0 (mk 72 [(0, 1, 7), (64, 2, 5)]), 0, 0xFFFC0, 64, 0, by unfold ForUs; decide +kernel⟩,
   ⟨on (linked devF), 8, flit0 7 0x2000FFFC0 (mk 72 [(0, 1, 7)]), 0, 0xFFFC0, 64, 0, by unfold ForUs; decide +kernel⟩,
   ⟨on (linked devF), 8, flit0 7 0x2800FFFC0 (mk 88 [(80, 2, 5)]), 0, 0xFFFC0, 80, by unfold ForUs; decide +kernel⟩⟩

/-- States and operands that meet the hypotheses of O53, clause by clause. -/
theorem witness_GroupAndTimeFlitsAreTaken :
    (∃ (s : State) (n : LinkId) (f : Flit) (g : Nat), ForUs s.dev n.val 8 f ∧ g = bits f.target.toNat 11 0 ∧ bitOf (trailField f 8 1) 2 = true) ∧
    (∃ (s : State) (n : LinkId) (f : Flit) (g : Nat), ForUs s.dev n.val 8 f ∧ g = bits f.target.toNat 11 0 ∧ bitOf (trailField f 8 1) 2 = false ∧ (s.dev.group g).running = none) ∧
    (∃ (s : State) (n : LinkId) (f : Flit) (g : Nat) (c : Collective) (x : CollDesc), ForUs s.dev n.val 8 f ∧ g = bits f.target.toNat 11 0 ∧ bitOf (trailField f 8 1) 2 = false ∧ (s.dev.group g).running = some c ∧ x = parseColl c.descriptor ∧ c.failed = false ∧ trailField f 4 2 ≠ x.seq.toNat % 65536) ∧
    (∃ (s : State) (n : LinkId) (f : Flit) (g : Nat) (c : Collective) (x : CollDesc), ForUs s.dev n.val 8 f ∧ g = bits f.target.toNat 11 0 ∧ bitOf (trailField f 8 1) 2 = false ∧ (s.dev.group g).running = some c ∧ x = parseColl c.descriptor ∧ c.failed = false ∧ trailField f 4 2 = x.seq.toNat % 65536 ∧ c.owner = none ∧ (bitOf (trailField f 8 1) 1 = true ∨ (bitOf (trailField f 8 1) 0 = true ∧ trailField f 0 4 ≠ c.crc.toNat))) ∧
    (∃ (s : State) (n : LinkId) (f : Flit) (g : Nat) (c : Collective) (x : CollDesc) (b : Box) (st : RingStep), ForUs s.dev n.val 8 f ∧ g = bits f.target.toNat 11 0 ∧ bitOf (trailField f 8 1) 2 = false ∧ (s.dev.group g).running = some c ∧ x = parseColl c.descriptor ∧ c.failed = false ∧ trailField f 4 2 = x.seq.toNat % 65536 ∧ bitOf (trailField f 8 1) 1 = false ∧ (bitOf (trailField f 8 1) 0 = true → trailField f 0 4 = c.crc.toNat) ∧ s.dev.memberBox g = some b ∧ x.ringStep b s.dev.fabric.cfg.moduleId.toNat c = some st ∧ c.inbox = [] ∧ c.stepDone x st = false ∧ c.takes st f = false) ∧
    (∃ (s : State) (n : LinkId) (f : Flit) (g : Nat) (c : Collective) (x : CollDesc) (b : Box) (st : RingStep), ForUs s.dev n.val 8 f ∧ g = bits f.target.toNat 11 0 ∧ bitOf (trailField f 8 1) 2 = false ∧ (s.dev.group g).running = some c ∧ x = parseColl c.descriptor ∧ c.failed = false ∧ trailField f 4 2 = x.seq.toNat % 65536 ∧ bitOf (trailField f 8 1) 1 = false ∧ (bitOf (trailField f 8 1) 0 = true → trailField f 0 4 = c.crc.toNat) ∧ s.dev.memberBox g = some b ∧ x.ringStep b s.dev.fabric.cfg.moduleId.toNat c = some st ∧ c.inbox = [] ∧ c.stepDone x st = false ∧ c.takes st f = true ∧ (x.linesOf st.comes).all (c.lines ++ [f.target.toNat / 2 ^ 12]).contains = false) ∧
    (∃ (s : State) (n : LinkId) (f : Flit) (g : Nat) (c : Collective) (x : CollDesc) (b : Box) (st : RingStep), ForUs s.dev n.val 8 f ∧ g = bits f.target.toNat 11 0 ∧ bitOf (trailField f 8 1) 2 = false ∧ (s.dev.group g).running = some c ∧ x = parseColl c.descriptor ∧ c.failed = false ∧ trailField f 4 2 = x.seq.toNat % 65536 ∧ bitOf (trailField f 8 1) 1 = false ∧ (bitOf (trailField f 8 1) 0 = true → trailField f 0 4 = c.crc.toNat) ∧ s.dev.memberBox g = some b ∧ x.ringStep b s.dev.fabric.cfg.moduleId.toNat c = some st ∧ c.inbox = [] ∧ c.stepDone x st = false ∧ c.takes st f = true ∧ (x.linesOf st.comes).all (c.lines ++ [f.target.toNat / 2 ^ 12]).contains = true ∧ x.ringStep b s.dev.fabric.cfg.moduleId.toNat (c.next st) = none) ∧
    (∃ (s : State) (n : LinkId) (f : Flit) (g : Nat) (b : Box) (x : GroupBarrier), ForUs s.dev n.val 9 f ∧ g = field f.payload 0 4 ∧ x = (s.dev.group g).barrier ∧ s.dev.memberBox g = some b ∧ s.dev.groupAlone g = false ∧ field f.payload 4 1 = 0 ∧ x.begun = false ∧ x.ownNow = false) ∧
    (∃ (s : State) (n : LinkId) (f : Flit) (g : Nat) (b : Box) (x : GroupBarrier), ForUs s.dev n.val 9 f ∧ g = field f.payload 0 4 ∧ x = (s.dev.group g).barrier ∧ s.dev.memberBox g = some b ∧ s.dev.groupAlone g = false ∧ field f.payload 4 1 = 0 ∧ x.begun = true ∧ BitVec.ofNat 64 (field f.payload 8 8) = x.seq ∧ x.ownNow = false) ∧
    (∃ (s : State) (n : LinkId) (f : Flit) (g : Nat) (b : Box) (x : GroupBarrier) (p : Nat) (_m : Nat), ForUs s.dev n.val 9 f ∧ g = field f.payload 0 4 ∧ x = (s.dev.group g).barrier ∧ s.dev.memberBox g = some b ∧ s.dev.groupAlone g = false ∧ field f.payload 4 1 = 0 ∧ x.begun = true ∧ BitVec.ofNat 64 (field f.payload 8 8) = x.seq ∧ x.ownNow = true ∧ (∀ m ∈ s.dev.groupChildren b, m ∈ x.now ∨ m = f.origin.toNat) ∧ s.dev.groupParent b = some p ∧ x.sentUp = false) ∧
    (∃ (s : State) (n : LinkId) (f : Flit) (g : Nat) (b : Box) (x : GroupBarrier), ForUs s.dev n.val 9 f ∧ g = field f.payload 0 4 ∧ x = (s.dev.group g).barrier ∧ s.dev.memberBox g = some b ∧ s.dev.groupAlone g = false ∧ field f.payload 4 1 = 0 ∧ x.begun = true ∧ BitVec.ofNat 64 (field f.payload 8 8) = x.seq ∧ x.ownNow = true ∧ (∀ m ∈ s.dev.groupChildren b, m ∈ x.now ∨ m = f.origin.toNat) ∧ s.dev.groupParent b = none ∧ x.ownNext = false) ∧
    (∃ (s : State) (n : LinkId) (f : Flit) (g : Nat) (b : Box) (x : GroupBarrier), ForUs s.dev n.val 9 f ∧ g = field f.payload 0 4 ∧ x = (s.dev.group g).barrier ∧ s.dev.memberBox g = some b ∧ s.dev.groupAlone g = false ∧ field f.payload 4 1 = 0 ∧ x.begun = true ∧ BitVec.ofNat 64 (field f.payload 8 8) = x.seq + 1) ∧
    (∃ (s : State) (n : LinkId) (f : Flit) (g : Nat) (b : Box) (x : GroupBarrier), ForUs s.dev n.val 9 f ∧ g = field f.payload 0 4 ∧ x = (s.dev.group g).barrier ∧ s.dev.memberBox g = some b ∧ s.dev.groupAlone g = false ∧ field f.payload 4 1 = 0 ∧ x.begun = true ∧ BitVec.ofNat 64 (field f.payload 8 8) ≠ x.seq ∧ BitVec.ofNat 64 (field f.payload 8 8) ≠ x.seq + 1) ∧
    (∃ (s : State) (n : LinkId) (f : Flit) (g : Nat) (b : Box) (x : GroupBarrier), ForUs s.dev n.val 9 f ∧ g = field f.payload 0 4 ∧ x = (s.dev.group g).barrier ∧ s.dev.memberBox g = some b ∧ s.dev.groupAlone g = false ∧ field f.payload 4 1 = 1 ∧ BitVec.ofNat 64 (field f.payload 8 8) = x.seq ∧ x.ownNext = false) ∧
    (∃ (s : State) (n : LinkId) (f : Flit) (g : Nat) (b : Box) (x : GroupBarrier), ForUs s.dev n.val 9 f ∧ g = field f.payload 0 4 ∧ x = (s.dev.group g).barrier ∧ s.dev.memberBox g = some b ∧ s.dev.groupAlone g = false ∧ field f.payload 4 1 = 1 ∧ BitVec.ofNat 64 (field f.payload 8 8) ≠ x.seq) ∧
    (∃ (s : State) (n : LinkId) (f : Flit) (m : Nat), ForUs s.dev n.val 10 f ∧ field f.payload 0 1 = 0 ∧ Direct s.dev f.origin.toNat m) ∧
    (∃ (s : State) (n : LinkId) (f : Flit), ForUs s.dev n.val 10 f ∧ field f.payload 0 1 ≠ 0 ∧ s.dev.time.syncSent ≠ some (BitVec.ofNat 64 (field f.payload 8 8))) ∧
    (∃ (s : State) (n : LinkId) (f : Flit) (est : U64), ForUs s.dev n.val 10 f ∧ field f.payload 0 1 ≠ 0 ∧ s.dev.time.syncSent = some (BitVec.ofNat 64 (field f.payload 8 8)) ∧ s.dev.fabric.cfg.parentTo s.dev.time.rootId.toNat s.dev.fabric.cfg.moduleId.toNat = some f.origin.toNat ∧ est = BitVec.ofNat 64 (field f.payload 0x10 8) + BitVec.ofNat 64 ((s.dev.time.ft - BitVec.ofNat 64 (field f.payload 8 8)).toNat / 2)) ∧
    (∃ (s : State) (n : LinkId) (f : Flit) (j : Job) (v : ImageVersion), ForUs s.dev n.val 11 f ∧ s.dev.mesh.jobs = [j] ∧ s.dev.jobGroup j = some (field f.payload 0 4) ∧ field f.payload 4 4 ≠ 0 ∧ s.dev.agreed 13 = true ∧ s.dev.replayFails j.queue j.index = false ∧ s.dev.jobImage j = some v ∧ (j.segment = field f.payload 4 4 ∨ j.segment = field f.payload 4 4 + 1)) ∧
    (∃ (s : State) (n : LinkId) (f : Flit), ForUs s.dev n.val 12 f ∧ field f.payload 0 1 = 0 ∧ s.dev.fabric.cfg.resetDone = false) ∧
    (∃ (s : State) (n : LinkId) (f : Flit) (m : Nat), ForUs s.dev n.val 12 f ∧ field f.payload 0 1 = 0 ∧ s.dev.fabric.cfg.resetDone = true ∧ Direct s.dev f.origin.toNat m) ∧
    (∃ (s : State) (n : LinkId) (f : Flit), ForUs s.dev n.val 12 f ∧ field f.payload 0 1 = 1 ∧ s.dev.awaitsReset = true ∧ s.dev.fabric.cfg.t0 = none) ∧
    (∃ (s : State) (n : LinkId) (f : Flit), ForUs s.dev n.val 12 f ∧ (s.dev.awaitsReset = false ∨ s.dev.fabric.cfg.t0.isSome = true)) ∧
    (∃ (s : State) (n : LinkId) (f : Flit), ForUs s.dev n.val 13 f) ∧
    (∃ (s : State) (n : LinkId) (f : Flit), (ForUs s.dev n.val 0 f ∨ ForUs s.dev n.val 14 f ∨ ForUs s.dev n.val 15 f)) :=
  ⟨⟨on (collecting coll0), 8, collFlit 0 1 0 0 4, 1, by unfold ForUs; decide +kernel⟩,
   ⟨on (linked devF), 8, collFlit 0 1 0 0 0, 1, by unfold ForUs; decide +kernel⟩,
   ⟨on (collecting coll0), 8, collFlit 0 2 0 0 0, 1, coll0, parseColl coll0.descriptor, by unfold ForUs; decide +kernel⟩,
   ⟨on (collecting coll0), 8, collFlit 0 1 0 0 2, 1, coll0, parseColl coll0.descriptor, by unfold ForUs; decide +kernel⟩,
   ⟨on (collecting coll0), 8, collFlit 0 1 9 0 1, 1, coll0, parseColl coll0.descriptor, box01, step0 coll0, by unfold ForUs; decide +kernel⟩,
   ⟨on (collecting coll0), 8, collFlit 0 1 0 0 1, 1, coll0, parseColl coll0.descriptor, box01, step0 coll0, by unfold ForUs; decide +kernel⟩,
   ⟨on (collecting coll1), 8, collFlit 0 1 0 0 1, 1, coll1, parseColl coll1.descriptor, box01, step0 coll1, by unfold ForUs; decide +kernel⟩,
   ⟨on (linked devF), 8, barFlit 0 1, 1, box01, GroupBarrier.reset, by unfold ForUs; decide +kernel⟩,
   ⟨on (barred { GroupBarrier.reset with begun := true }), 8, barFlit 0 1, 1, box01, { GroupBarrier.reset with begun := true }, by unfold ForUs; decide +kernel⟩,
   ⟨on (barredM { GroupBarrier.reset with begun := true, ownNow := true }), 8, { barFlit 0 1 with dest := 1, origin := 2 }, 1, { loX := 0, hiX := 2, loY := 0, hiY := 0, loZ := 0, hiZ := 0 }, { GroupBarrier.reset with begun := true, ownNow := true }, 0, 0, by unfold ForUs; decide +kernel⟩,
   ⟨on (barred { GroupBarrier.reset with begun := true, ownNow := true }), 8, barFlit 0 1, 1, box01, { GroupBarrier.reset with begun := true, ownNow := true }, by unfold ForUs; decide +kernel⟩,
   ⟨on (barred { GroupBarrier.reset with begun := true }), 8, barFlit 0 2, 1, box01, { GroupBarrier.reset with begun := true }, by unfold ForUs; decide +kernel⟩,
   ⟨on (barred { GroupBarrier.reset with begun := true }), 8, barFlit 0 3, 1, box01, { GroupBarrier.reset with begun := true }, by unfold ForUs; decide +kernel⟩,
   ⟨on (barred { GroupBarrier.reset with begun := true }), 8, barFlit 1 1, 1, box01, { GroupBarrier.reset with begun := true }, by unfold ForUs; decide +kernel⟩,
   ⟨on (barred { GroupBarrier.reset with begun := true }), 8, barFlit 1 2, 1, box01, { GroupBarrier.reset with begun := true }, by unfold ForUs; decide +kernel⟩,
   ⟨on (linked devF), 8, flit0 10 0 (zeros 24), 8, by unfold ForUs; decide +kernel, by decide +kernel, direct_of _ _ _ (by decide +kernel)⟩,
   ⟨on (linked devF), 8, flit0 10 0 (mk 24 [(0, 1, 1), (8, 8, 50), (16, 8, 1000)]), by unfold ForUs; decide +kernel⟩,
   ⟨on (linked { devF with time := { devF.time with ft := 100, syncSent := some 50, rootId := 1 } }), 8, flit0 10 0 (mk 24 [(0, 1, 1), (8, 8, 50), (16, 8, 1000)]), 1025, by unfold ForUs; decide +kernel⟩,
   ⟨on (linked (modImage 5 (fun o => { o with versions := [{ ver1 with image := { img0 with group := some 1 } }] }) { (running { job0 with segment := 1 }) with fabric := devF.fabric })), 8, flit0 11 0 (mk 8 [(0, 4, 1), (4, 4, 1)]), { job0 with segment := 1 }, { ver1 with image := { img0 with group := some 1 } }, by unfold ForUs; decide +kernel⟩,
   ⟨on (linked devF), 8, flit0 12 0 (zeros 32), by unfold ForUs; decide +kernel⟩,
   ⟨on (linked { devF with fabric := { devF.fabric with cfg := { devF.fabric.cfg with resetDone := true } } }), 8, flit0 12 0 (zeros 32), 8, by unfold ForUs; decide +kernel, by decide +kernel, by decide +kernel, direct_of _ _ _ (by decide +kernel)⟩,
   ⟨on (linked { devF with start := { Start.reset with running := true, step := 7 } }), 8, flit0 12 0 (mk 32 [(0, 1, 1), (8, 8, 500), (16, 8, 400)]), by unfold ForUs; decide +kernel⟩,
   ⟨on (linked devF), 8, flit0 12 0 (mk 32 [(0, 1, 1), (8, 8, 500), (16, 8, 400)]), by unfold ForUs; decide +kernel⟩,
   ⟨on (linked devF), 8, flit0 13 0 (mk 8 [(1, 1, 2), (3, 1, 1)]), by unfold ForUs; decide +kernel⟩,
   ⟨on (linked devF), 8, flit0 14 0 [], Or.inr (Or.inl (by unfold ForUs; decide +kernel))⟩⟩

/-- States and operands that meet the hypotheses of O54, clause by clause. -/
theorem witness_LinksPassKeepAndReturnFlits :
    (∃ (s : State) (n : LinkId) (f : Flit) (m : Nat), (s.dev.link n.val).reg.state = .active ∧ f.dest ≠ s.dev.fabric.cfg.moduleId ∧ 1 ≤ f.type.toNat ∧ f.type.toNat ≤ 13 ∧ f.seq = (s.dev.link n.val).run.rxSeq ∧ Direct s.dev f.dest.toNat m) ∧
    (∃ (s : State) (n : LinkId) (f : Flit), (s.dev.link n.val).reg.state = .active ∧ f.dest ≠ s.dev.fabric.cfg.moduleId ∧ 1 ≤ f.type.toNat ∧ f.type.toNat ≤ 13 ∧ f.seq = (s.dev.link n.val).run.rxSeq ∧ s.dev.reachable f.dest.toNat = false) ∧
    (∃ (s : State) (n : LinkId) (f : Flit), (s.dev.link n.val).reg.state = .active ∧ f.dest ≠ s.dev.fabric.cfg.moduleId ∧ 1 ≤ f.type.toNat ∧ f.type.toNat ≤ 13 ∧ f.seq ≠ (s.dev.link n.val).run.rxSeq) ∧
    (∃ (s : State) (n : LinkId) (_q : BitVec 12), (s.dev.link n.val).reg.state = .active ∧ (s.dev.link n.val).run.discarding = false) ∧
    (∃ (s : State) (n : LinkId) (q : BitVec 12), (s.dev.link n.val).reg.state = .active ∧ (s.dev.link n.val).run.discarding = true ∧ q ≠ (s.dev.link n.val).run.rxSeq) ∧
    (∃ (s : State) (n : LinkId) (c : CtlFlit), (s.dev.link n.val).reg.state = .active ∧ (s.dev.link n.val).run.waiting = [] ∧ c.lanesOk ||| (s.dev.link n.val).reg.dropped = 0xF ∧ c.resend = none) ∧
    (∃ (s : State) (n : LinkId) (c : CtlFlit), (s.dev.link n.val).reg.state = .active ∧ (s.dev.link n.val).run.waiting = [] ∧ c.lanesOk ||| (s.dev.link n.val).reg.dropped ≠ 0xF) ∧
    (∃ (s : State) (n : LinkId) (c : CtlFlit) (q : BitVec 12) (fs : List Flit), (s.dev.link n.val).reg.state = .active ∧ (s.dev.link n.val).run.waiting = [] ∧ c.lanesOk ||| (s.dev.link n.val).reg.dropped = 0xF ∧ c.resend = some q ∧ afterAck c.ackSeq (s.dev.link n.val).run.unacked = (s.dev.link n.val).run.unacked ∧ fs = (s.dev.link n.val).run.unacked.dropWhile (fun f => decide (f.seq ≠ q)) ∧ fs ≠ [] ∧ (s.dev.link n.val).run.resends < 7) ∧
    (∃ (s : State) (n : LinkId) (c : CtlFlit) (q : BitVec 12) (fs : List Flit), (s.dev.link n.val).reg.state = .active ∧ (s.dev.link n.val).run.waiting = [] ∧ c.lanesOk ||| (s.dev.link n.val).reg.dropped = 0xF ∧ c.resend = some q ∧ afterAck c.ackSeq (s.dev.link n.val).run.unacked = (s.dev.link n.val).run.unacked ∧ fs = (s.dev.link n.val).run.unacked.dropWhile (fun f => decide (f.seq ≠ q)) ∧ fs ≠ [] ∧ 7 ≤ (s.dev.link n.val).run.resends) ∧
    (∃ (s : State) (n : LinkId) (_f : Flit), (s.dev.link n.val).reg.state ≠ .active) ∧
    (∃ (s : State) (n : LinkId) (_q : BitVec 12), (s.dev.link n.val).reg.state ≠ .active) ∧
    (∃ (s : State) (n : LinkId) (_c : CtlFlit), (s.dev.link n.val).reg.state ≠ .active) :=
  ⟨⟨on devM, 0, { flit0 13 0 (zeros 8) with dest := 2, origin := 0 }, 8, by decide +kernel, by decide +kernel, by decide +kernel, by decide +kernel, by decide +kernel, direct_of _ _ _ (by decide +kernel)⟩,
   ⟨on { devM with fabric := { devM.fabric with cfg := { devM.fabric.cfg with unreachable := [2] } } }, 0, { flit0 13 0 (zeros 8) with dest := 2, origin := 0 }, by decide +kernel⟩,
   ⟨on devM, 0, { flit0 13 0 (zeros 8) with dest := 2, origin := 0, seq := 1 }, by decide +kernel⟩,
   ⟨on (linked devF), 8, 9, by decide +kernel⟩,
   ⟨on (modLink 8 (fun l => { l with run := { l.run with discarding := true } }) (linked devF)), 8, 9, by decide +kernel⟩,
   ⟨on (linked devF), 8, { ackSeq := 0, resend := none, credits := [1, 0, 0, 0], lanesOk := 0xF, fec := 0 }, by decide +kernel⟩,
   ⟨on (linked devF), 8, { ackSeq := 0, resend := none, credits := [0, 0, 0, 0], lanesOk := 0xE, fec := 0 }, by decide +kernel⟩,
   ⟨on (keeping 6), 8, { ackSeq := 0, resend := some 1, credits := [0, 0, 0, 0], lanesOk := 0xF, fec := 0 }, 1, [{ flit0 13 0 (zeros 8) with seq := 1 }], by decide +kernel⟩,
   ⟨on (keeping 7), 8, { ackSeq := 0, resend := some 1, credits := [0, 0, 0, 0], lanesOk := 0xF, fec := 0 }, 1, [{ flit0 13 0 (zeros 8) with seq := 1 }], by decide +kernel⟩,
   ⟨on dev1, 8, flit0 13 0 [], by decide +kernel⟩,
   ⟨on dev1, 8, 9, by decide +kernel⟩,
   ⟨on dev1, 8, { ackSeq := 0, resend := none, credits := [], lanesOk := 0xF, fec := 0 }, by decide +kernel⟩⟩

/-- States and operands that meet the hypotheses of O55, clause by clause. -/
theorem witness_LinksTrainAndAreLost :
    (∃ (s : State) (n : LinkId), (s.dev.link n.val).reg.state = .disabled ∧ s.dev.fabric.cfg.usesFace (linkDim n.val) (linkPlus n.val) = true) ∧
    (∃ (s : State) (n : LinkId), (s.dev.link n.val).reg.state = .disabled ∧ s.dev.fabric.cfg.usesFace (linkDim n.val) (linkPlus n.val) = false) ∧
    (∃ (s : State) (n : LinkId), (s.dev.link n.val).reg.state = .ethernet) ∧
    (∃ (s : State) (n : LinkId), (s.dev.link n.val).reg.state ≠ .ethernet) ∧
    (∃ (s : State) (n : LinkId), (s.dev.link n.val).reg.state = .active) ∧
    (∃ (s : State) (n : LinkId), (s.dev.link n.val).reg.state ≠ .active) ∧
    (∃ (s : State) (n : LinkId) (x : U64), (s.dev.link n.val).run.retrainAt = some x ∧ (s.dev.link n.val).reg.state ≠ .active ∧ 1600000000 ≤ (s.dev.time.ft - x).toNat) ∧
    (∃ (s : State) (n : LinkId) (x : U64), (s.dev.link n.val).run.retrainAt = some x ∧ (s.dev.time.ft - x).toNat < 1600000000) ∧
    (∃ (s : State) (n : LinkId), (s.dev.link n.val).run.retrainAt = none) ∧
    (∃ (s : State) (n : LinkId), (s.dev.link n.val).reg.state = .detect) ∧
    (∃ (s : State) (n : LinkId), (s.dev.link n.val).reg.state ≠ .detect) ∧
    (∃ (s : State) (n : LinkId) (r : TrainResult), (s.dev.link n.val).reg.state.training = true ∧ s.dev.trains n.val = true ∧ lanesBad r < 2 ∧ laneOrderOk r = true ∧ peerExpected r s.dev.fabric.cfg n.val = true) ∧
    (∃ (s : State) (n : LinkId) (r : TrainResult), (s.dev.link n.val).reg.state.training = true ∧ s.dev.trains n.val = true ∧ lanesBad r < 2 ∧ (laneOrderOk r && peerExpected r s.dev.fabric.cfg n.val) = false) ∧
    (∃ (s : State) (n : LinkId) (r : TrainResult), (s.dev.link n.val).reg.state.training = true ∧ s.dev.trains n.val = true ∧ (2 ≤ lanesBad r ∨ (laneOrderOk r = true ∧ peerExpected r s.dev.fabric.cfg n.val = true)) ∧ (s.dev.link n.val).reg.state ≠ .retrain) ∧
    (∃ (s : State) (n : LinkId) (r : TrainResult), (s.dev.link n.val).reg.state.training = true ∧ s.dev.trains n.val = true ∧ (2 ≤ lanesBad r ∨ (laneOrderOk r = true ∧ peerExpected r s.dev.fabric.cfg n.val = true)) ∧ (s.dev.link n.val).reg.state = .retrain) ∧
    (∃ (s : State) (n : LinkId) (_r : TrainResult), ((s.dev.link n.val).reg.state.training = false ∨ s.dev.trains n.val = false)) ∧
    (∃ (s : State) (n : LinkId), (s.dev.link n.val).reg.state = .active ∧ (s.dev.link n.val).run.live = false ∧ (∀ m ∈ rangeFrom (8 * (n.val / 8)) 8, m ≠ n.val → ∀ f ∈ (s.dev.link m).run.unacked, flitUrgent f = true)) ∧
    (∃ (s : State) (n : LinkId) (m : Nat) (f : Flit), m ∈ rangeFrom (8 * (n.val / 8)) 8 ∧ f ∈ (s.dev.link m).run.unacked ∧ (s.dev.link n.val).reg.state = .active ∧ (s.dev.link n.val).run.live = false ∧ m ≠ n.val ∧ flitUrgent f = false) :=
  ⟨⟨on (linkIn .disabled), 8, by decide +kernel⟩,
   ⟨on dev1, 8, by decide +kernel⟩,
   ⟨on devP, 2, by decide +kernel⟩,
   ⟨on (linkIn .detect), 8, by decide +kernel⟩,
   ⟨on (linkIn .active), 8, by decide +kernel⟩,
   ⟨on dev1, 8, by decide +kernel⟩,
   ⟨on (modLink 8 (fun l => { l with run := { l.run with retrainAt := some 0 } }) { (linkIn .retrain) with time := { Time.reset with ft := 1600000000 } }), 8, 0, by decide +kernel⟩,
   ⟨on (modLink 8 (fun l => { l with run := { l.run with retrainAt := some 0 } }) { (linkIn .retrain) with time := { Time.reset with ft := 1599999999 } }), 8, 0, by decide +kernel⟩,
   ⟨on dev1, 8, by decide +kernel⟩,
   ⟨on (linkIn .detect), 8, by decide +kernel⟩,
   ⟨on dev1, 8, by decide +kernel⟩,
   ⟨on (linkIn .identify), 8, train0, by decide +kernel⟩,
   ⟨on (linkIn .laneMap), 8, { train0 with laneOrder := [0, 2, 1, 3] }, by decide +kernel⟩,
   ⟨on (linkIn .identify), 8, train0, by decide +kernel⟩,
   ⟨on (linkIn .retrain), 8, { train0 with badLanes := 3 }, by decide +kernel⟩,
   ⟨on dev1, 8, train0, by decide +kernel⟩,
   ⟨on (linkIn .active), 8, by decide +kernel⟩,
   ⟨on (modLink 9 (fun l => { l with run := { l.run with unacked := [flit0 1 0 []] } }) (linkIn .active)), 8, 9, flit0 1 0 [], by decide +kernel⟩⟩

/-- States and operands that meet the hypotheses of O56, clause by clause. -/
theorem witness_TimeOfTheFabric :
    (∃ (s : State) (l : List ModId) (root : Nat), root = selectRoot s.dev.fabric.cfg.timeSource.toNat ((l.map (·.toNat)).filter s.dev.fabric.cfg.holds) s.dev.fabric.cfg.moduleId.toNat) ∧
    (∃ (s : State), s.dev.time.isRoot = false) ∧
    (∃ (s : State), s.dev.time.isRoot = false ∧ 3 ≤ s.dev.time.missedSync) ∧
    (∃ (s : State), s.dev.time.isRoot = false ∧ s.dev.time.missedSync < 3) ∧
    (∃ (s : State), s.dev.time.isRoot = true) ∧
    (∃ (s : State) (t0 : U64) (off : U64), s.dev.fabric.cfg.t0 = some (t0, off) ∧ s.dev.awaitsReset = true ∧ t0.toNat ≤ (s.dev.time.ft + off).toNat) ∧
    (∃ (s : State) (t0 : U64) (off : U64), s.dev.fabric.cfg.t0 = some (t0, off) ∧ s.dev.awaitsReset = true ∧ (s.dev.time.ft + off).toNat < t0.toNat) ∧
    (∃ (s : State), (s.dev.fabric.cfg.t0 = none ∨ s.dev.awaitsReset = false)) :=
  ⟨⟨on devF, [1], 0, by decide +kernel⟩,
   ⟨on devF, by decide +kernel⟩,
   ⟨on { devF with time := { devF.time with missedSync := 3 } }, by decide +kernel⟩,
   ⟨on { devF with time := { devF.time with isRoot := false, missedSync := 2 } }, by decide +kernel⟩,
   ⟨on { devF with time := { devF.time with isRoot := true } }, by decide +kernel⟩,
   ⟨on { devF with fabric := { devF.fabric with cfg := { devF.fabric.cfg with t0 := some (500, 400) } }, start := { Start.reset with running := true, step := 7 }, time := { devF.time with ft := 100 } }, 500, 400, by decide +kernel⟩,
   ⟨on { devF with fabric := { devF.fabric with cfg := { devF.fabric.cfg with t0 := some (500, 400) } }, start := { Start.reset with running := true, step := 7 }, time := { devF.time with ft := 99 } }, 500, 400, by decide +kernel⟩,
   ⟨on devF, by decide +kernel⟩⟩

/-- States and operands that meet the hypotheses of O57, clause by clause. -/
theorem witness_EthernetPortsReceiveAndSend :
    (∃ (s : State) (n : Fin 8) (_f : List Byte) (_ok : Bool) (_k : Nat) (c : PortCfg), (s.dev.port n.val).cfg = some c ∧ (s.dev.port n.val).up = true ∧ s.dev.replaying = true) ∧
    (∃ (s : State) (n : Fin 8) (_f : List Byte) (ok : Bool) (_k : Nat) (c : PortCfg), (s.dev.port n.val).cfg = some c ∧ (s.dev.port n.val).up = true ∧ s.dev.replaying = false ∧ ok = false) ∧
    (∃ (s : State) (n : Fin 8) (f : List Byte) (ok : Bool) (_k : Nat) (c : PortCfg), (s.dev.port n.val).cfg = some c ∧ (s.dev.port n.val).up = true ∧ s.dev.replaying = false ∧ ok = true ∧ (f.length + 4 < 64 ∨ 9216 < f.length + 4)) ∧
    (∃ (s : State) (n : Fin 8) (f : List Byte) (ok : Bool) (_k : Nat) (c : PortCfg), (s.dev.port n.val).cfg = some c ∧ (s.dev.port n.val).up = true ∧ s.dev.replaying = false ∧ ok = true ∧ 64 ≤ f.length + 4 ∧ f.length + 4 ≤ 9216 ∧ c.rxBytes.toNat < (s.dev.port n.val).rxUsed + alignUp f.length 64) ∧
    (∃ (s : State) (n : Fin 8) (f : List Byte) (ok : Bool) (_k : Nat) (c : PortCfg) (m : Nat) (p : Option Pkt), (s.dev.port n.val).cfg = some c ∧ (s.dev.port n.val).up = true ∧ s.dev.replaying = false ∧ ok = true ∧ 64 ≤ f.length + 4 ∧ f.length + 4 ≤ 9216 ∧ (s.dev.port n.val).rxUsed + alignUp f.length 64 ≤ c.rxBytes.toNat ∧ judgeFrame c f = (.drop m, p) ∧ 2 < m) ∧
    (∃ (s : State) (n : Fin 8) (f : List Byte) (ok : Bool) (_k : Nat) (c : PortCfg) (mac : List Byte) (ip : List Byte) (p : Pkt), (s.dev.port n.val).cfg = some c ∧ (s.dev.port n.val).up = true ∧ s.dev.replaying = false ∧ ok = true ∧ 64 ≤ f.length + 4 ∧ f.length + 4 ≤ 9216 ∧ (s.dev.port n.val).rxUsed + alignUp f.length 64 ≤ c.rxBytes.toNat ∧ judgeFrame c f = (.arp mac ip, some p)) ∧
    (∃ (s : State) (n : Fin 8) (f : List Byte) (ok : Bool) (_k : Nat) (c : PortCfg) (src : List Byte) (x : List Byte) (p : Pkt), (s.dev.port n.val).cfg = some c ∧ (s.dev.port n.val).up = true ∧ s.dev.replaying = false ∧ ok = true ∧ 64 ≤ f.length + 4 ∧ f.length + 4 ≤ 9216 ∧ (s.dev.port n.val).rxUsed + alignUp f.length 64 ≤ c.rxBytes.toNat ∧ judgeFrame c f = (.solicit src x, some p)) ∧
    (∃ (s : State) (n : Fin 8) (f : List Byte) (ok : Bool) (_k : Nat) (c : PortCfg) (u : Udp) (p : Pkt), (s.dev.port n.val).cfg = some c ∧ (s.dev.port n.val).up = true ∧ s.dev.replaying = false ∧ ok = true ∧ 64 ≤ f.length + 4 ∧ f.length + 4 ≤ 9216 ∧ (s.dev.port n.val).rxUsed + alignUp f.length 64 ≤ c.rxBytes.toNat ∧ judgeFrame c f = (.udp u, some p) ∧ bitOf c.flags.toNat 2 = true ∧ (u.dport = 319 ∨ u.dport = 320)) ∧
    (∃ (s : State) (n : Fin 8) (f : List Byte) (ok : Bool) (_k : Nat) (c : PortCfg) (u : Udp) (p : Pkt), (s.dev.port n.val).cfg = some c ∧ (s.dev.port n.val).up = true ∧ s.dev.replaying = false ∧ ok = true ∧ 64 ≤ f.length + 4 ∧ f.length + 4 ≤ 9216 ∧ (s.dev.port n.val).rxUsed + alignUp f.length 64 ≤ c.rxBytes.toNat ∧ judgeFrame c f = (.udp u, some p) ∧ (bitOf c.flags.toNat 2 = false ∨ (u.dport ≠ 319 ∧ u.dport ≠ 320)) ∧ s.dev.listener n.val u.dport = none) ∧
    (∃ (s : State) (n : Fin 8) (f : List Byte) (ok : Bool) (_k : Nat) (c : PortCfg) (u : Udp) (p : Pkt) (e : Nat) (x : ServiceCfg) (l : Layout), (s.dev.port n.val).cfg = some c ∧ (s.dev.port n.val).up = true ∧ s.dev.replaying = false ∧ ok = true ∧ 64 ≤ f.length + 4 ∧ f.length + 4 ≤ 9216 ∧ (s.dev.port n.val).rxUsed + alignUp f.length 64 ≤ c.rxBytes.toNat ∧ judgeFrame c f = (.udp u, some p) ∧ (bitOf c.flags.toNat 2 = false ∨ (u.dport ≠ 319 ∧ u.dport ≠ 320)) ∧ s.dev.listener n.val u.dport = some e ∧ (s.dev.serv e).cfg = some x ∧ (s.dev.serv e).layout = some l ∧ ((s.dev.serv e).state = .draining ∨ ((s.dev.serv e).state = .enabled ∧ goodRequest s.dev l u.data = false))) ∧
    (∃ (s : State) (n : Fin 8) (f : List Byte) (ok : Bool) (_k : Nat) (c : PortCfg) (u : Udp) (p : Pkt) (e : Nat) (x : ServiceCfg) (l : Layout), (s.dev.port n.val).cfg = some c ∧ (s.dev.port n.val).up = true ∧ s.dev.replaying = false ∧ ok = true ∧ 64 ≤ f.length + 4 ∧ f.length + 4 ≤ 9216 ∧ (s.dev.port n.val).rxUsed + alignUp f.length 64 ≤ c.rxBytes.toNat ∧ judgeFrame c f = (.udp u, some p) ∧ (bitOf c.flags.toNat 2 = false ∨ (u.dport ≠ 319 ∧ u.dport ≠ 320)) ∧ s.dev.listener n.val u.dport = some e ∧ (s.dev.serv e).cfg = some x ∧ (s.dev.serv e).layout = some l ∧ (s.dev.serv e).state = .enabled ∧ goodRequest s.dev l u.data = true ∧ recordCount (s.dev.serv e).openBatch + field u.data 4 2 ≤ l.capacity) ∧
    (∃ (s : State) (n : Fin 8) (f : List Byte) (ok : Bool) (_k : Nat) (c : PortCfg) (u : Udp) (p : Pkt) (e : Nat) (x : ServiceCfg) (l : Layout), (s.dev.port n.val).cfg = some c ∧ (s.dev.port n.val).up = true ∧ s.dev.replaying = false ∧ ok = true ∧ 64 ≤ f.length + 4 ∧ f.length + 4 ≤ 9216 ∧ (s.dev.port n.val).rxUsed + alignUp f.length 64 ≤ c.rxBytes.toNat ∧ judgeFrame c f = (.udp u, some p) ∧ (bitOf c.flags.toNat 2 = false ∨ (u.dport ≠ 319 ∧ u.dport ≠ 320)) ∧ s.dev.listener n.val u.dport = some e ∧ (s.dev.serv e).cfg = some x ∧ (s.dev.serv e).layout = some l ∧ (s.dev.serv e).state = .enabled ∧ goodRequest s.dev l u.data = true ∧ l.capacity < recordCount (s.dev.serv e).openBatch + field u.data 4 2 ∧ (s.dev.serv e).openBatch ≠ [] ∧ (s.dev.serv e).closed.length + 1 < x.backlog.toNat * x.groups.toNat) ∧
    (∃ (s : State) (n : Fin 8) (_f : List Byte) (_ok : Bool) (_k : Nat), ((s.dev.port n.val).cfg = none ∨ (s.dev.port n.val).up = false)) ∧
    (∃ (s : State) (n : Fin 8) (f : List Byte) (w : Option (Nat × Nat × U32)) (rest : List (List Byte × Option (Nat × Nat × U32))), (s.dev.port n.val).tx = (f, w) :: rest ∧ (s.dev.port n.val).up = true) ∧
    (∃ (s : State) (n : Fin 8), ((s.dev.port n.val).tx = [] ∨ (s.dev.port n.val).up = false)) ∧
    (∃ (s : State) (n : Fin 8) (_o : U64) (_i : U64), s.dev.ptpOn n.val = true) ∧
    (∃ (s : State) (n : Fin 8) (_b : List Byte), s.dev.ptpOn n.val = true ∧ s.dev.time.transmitter = none) ∧
    (∃ (s : State) (n : Fin 8) (_b : List Byte) (a : List Byte), s.dev.ptpOn n.val = true ∧ s.dev.time.transmitter = some a) ∧
    (∃ (s : State) (n : Fin 8), s.dev.ptpOn n.val = true) ∧
    (∃ (s : State) (n : Fin 8), s.dev.ptpOn n.val = true ∧ (s.dev.port n.val).ptpLocked = true ∧ 3 * (s.dev.port n.val).syncEvery.toNat ≤ (s.dev.time.ft - (s.dev.port n.val).lastSync).toNat) ∧
    (∃ (s : State) (n : Fin 8), s.dev.ptpOn n.val = true ∧ (s.dev.time.ft - (s.dev.port n.val).lastSync).toNat < 3 * (s.dev.port n.val).syncEvery.toNat) ∧
    (∃ (s : State) (n : Fin 8) (_o : U64) (_i : U64), s.dev.ptpOn n.val = false) ∧
    (∃ (s : State) (n : Fin 8) (_b : List Byte), s.dev.ptpOn n.val = false) ∧
    (∃ (s : State) (n : Fin 8), s.dev.ptpOn n.val = false) :=
  ⟨⟨on { devU with mode := { devU.mode with traceCtl := 2 } }, 2, arpFrame, true, 0, parsePort portBytes, by decide +kernel⟩,
   ⟨on devU, 2, arpFrame, false, 0, parsePort portBytes, by decide +kernel⟩,
   ⟨on devU, 2, zeros 59, true, 0, parsePort portBytes, by decide +kernel⟩,
   ⟨on (modPort 2 (fun p => { p with rxUsed := 0xFFFC1 }) devU), 2, arpFrame, true, 0, parsePort portBytes, by decide +kernel⟩,
   ⟨on devU, 2, zeros 60, true, 0, parsePort portBytes, 6, (judgeFrame (parsePort portBytes) (zeros 60)).2, by decide +kernel⟩,
   ⟨on devU, 2, arpFrame, true, 0, parsePort portBytes, [2, 0, 0, 0, 0, 9], [10, 0, 0, 9], { dst := List.replicate 6 0xFF, src := [2, 0, 0, 0, 0, 9], tag := none, type := 0x806, body := arpFrame.drop 14 }, by decide +kernel⟩,
   ⟨on (modPort 2 (fun p => { p with cfg := some cfg6 }) devU), 2, solicitFrame, true, 0, cfg6, ip6 2, ip6 1, { dst := [0xFE, 5, 4, 3, 2, 1], src := [2, 0, 0, 0, 0, 9], tag := none, type := 0x86DD, body := solicitFrame.drop 14 }, by decide +kernel⟩,
   ⟨on devPtp, 2, udpTo 319, true, 0, { parsePort portBytes with flags := 5 }, udp0 319, pktTo 319, by decide +kernel⟩,
   ⟨on devU, 2, udpTo 5000, true, 0, parsePort portBytes, udp0 5000, pktTo 5000, by decide +kernel⟩,
   ⟨on (devLs .draining []), 2, udpTo 5000, true, 0, parsePort portBytes, udp0 5000, pktTo 5000, 6, { parseEntry entBytes with ports := 4, udpPort := 5000 }, lay0, by decide +kernel⟩,
   ⟨on (devLs .enabled [gram0 63]), 2, udpTo 5000, true, 0, parsePort portBytes, udp0 5000, pktTo 5000, 6, { parseEntry entBytes with ports := 4, udpPort := 5000 }, lay0, by decide +kernel⟩,
   ⟨on (modServ 6 (fun y => { y with cfg := some { parseEntry entBytes with ports := 4, udpPort := 5000, backlog := 4 } }) (devLs .enabled [gram0 64])), 2, udpTo 5000, true, 0, parsePort portBytes, udp0 5000, pktTo 5000, 6, { parseEntry entBytes with ports := 4, udpPort := 5000, backlog := 4 }, lay0, by decide +kernel⟩,
   ⟨on dev1, 2, arpFrame, true, 0, by decide +kernel⟩,
   ⟨on (modPort 2 (fun p => { p with tx := [([1], none)] }) devU), 2, [1], none, [], by decide +kernel⟩,
   ⟨on devU, 2, by decide +kernel⟩,
   ⟨on devPtp, 2, 5, 1000, by decide +kernel⟩,
   ⟨on devPtp, 2, [1], by decide +kernel⟩,
   ⟨on { devPtp with time := { devPtp.time with transmitter := some [2] } }, 2, [1], [2], by decide +kernel⟩,
   ⟨on devPtp, 2, by decide +kernel⟩,
   ⟨on (modPort 2 (fun p => { p with ptpLocked := true, syncEvery := 10 }) { devPtp with time := { devPtp.time with ft := 30 } }), 2, by decide +kernel⟩,
   ⟨on (modPort 2 (fun p => { p with ptpLocked := true, syncEvery := 10 }) { devPtp with time := { devPtp.time with ft := 29 } }), 2, by decide +kernel⟩,
   ⟨on devU, 2, 5, 5, by decide +kernel⟩,
   ⟨on devU, 2, [1], by decide +kernel⟩,
   ⟨on devU, 2, by decide +kernel⟩⟩

/-- States and operands that meet the hypotheses of O58, clause by clause. -/
theorem witness_LimitsStopTheModule :
    (∃ (s : State) (n : Fin 16) (r : U16) (l : Int), s.dev.powered = true ∧ (s.dev.sensor n.val).isOpen = false ∧ (sensorLimits n.val).2 = some l ∧ l ≤ r.toInt) ∧
    (∃ (s : State) (mv : U16), s.dev.powered = true ∧ (mv.toNat < 44000 ∨ 60000 < mv.toNat)) ∧
    (∃ (s : State) (_mv : U16), s.dev.powered = true) ∧
    (∃ (s : State) (n : Fin 16) (r : U16) (_mv : U16), (s.dev.powered = false ∨ (s.dev.sensor n.val).isOpen = true ∨ (∀ l, (sensorLimits n.val).2 = some l → r.toInt < l))) ∧
    (∃ (s : State) (_n : Fin 16) (_r : U16) (mv : U16), (s.dev.powered = false ∨ (44000 ≤ mv.toNat ∧ mv.toNat ≤ 60000))) ∧
    (∃ (s : State) (_mv : U16), s.dev.powered = false ∧ s.dev.power.state ≠ .off) ∧
    (∃ (s : State) (_mv : U16), s.dev.power.state = .off) ∧
    (∃ (s : State) (r : Fin 30), (s.dev.row r.val).fault = false) ∧
    (∃ (s : State) (r : Fin 30), (s.dev.row r.val).fault = true) ∧
    (∃ (s : State) (a : U16), 3600 ≤ a.toNat ∧ s.dev.power.state = .active) ∧
    (∃ (s : State) (a : U16), (a.toNat < 3600 ∨ s.dev.power.state ≠ .active)) :=
  ⟨⟨on dev1, 0, 880, 880, by decide +kernel⟩,
   ⟨on dev1, 60001, by decide +kernel⟩,
   ⟨on dev1, 0, by decide +kernel⟩,
   ⟨on dev1, 0, 879, 0, Or.inr (Or.inr (of_some 880 (by decide) (by decide +kernel)))⟩,
   ⟨on dev1, 0, 0, 44000, by decide +kernel⟩,
   ⟨State.reset, 0, by decide +kernel⟩,
   ⟨on { dev1 with power := { dev1.power with state := .off } }, 0, by decide +kernel⟩,
   ⟨on dev1, 0, by decide +kernel⟩,
   ⟨on (modRow 29 (fun r => { r with fault := true }) dev1), 29, by decide +kernel⟩,
   ⟨on dev1, 3600, by decide +kernel⟩,
   ⟨on dev1, 3599, by decide +kernel⟩⟩

/-- States and operands that meet the hypotheses of O59, clause by clause. -/
theorem witness_HealthAndRowsAreKept :
    (∃ (s : State) (_env : TickEnv), s.dev.power.state ≠ .off) ∧
    (∃ (s : State) (_env : TickEnv), s.dev.power.state = .off) ∧
    (∃ (s : State) (r : Fin 30) (_mv : BitVec 10) (_da : U16), (s.dev.row r.val).awake = true) ∧
    (∃ (s : State) (r : Fin 30), (s.dev.row r.val).awake = true) ∧
    (∃ (s : State) (r : Fin 30) (_mv : BitVec 10) (_da : U16), (s.dev.row r.val).awake = false) ∧
    (∃ (s : State) (r : Fin 30), (s.dev.row r.val).awake = false) ∧
    (∃ (s : State) (r : Fin 30), s.dev.power.state = .active ∧ s.dev.rowNeeded s.bounds r.val = false) ∧
    (∃ (s : State) (r : Fin 30), (s.dev.power.state ≠ .active ∨ s.dev.rowNeeded s.bounds r.val = true)) ∧
    (∃ (s : State), s.dev.power.state = .active ∧ s.dev.mayIdle s.bounds = true) ∧
    (∃ (s : State), (s.dev.power.state ≠ .active ∨ s.dev.mayIdle s.bounds = false)) ∧
    (∃ (s : State) (i : Bool), (s.dev.mgmt i).recovering = true) ∧
    (∃ (s : State) (i : Bool), (s.dev.mgmt i).recovering = false) :=
  ⟨⟨on dev1, { p1 := 100, inputMv := 54000, inputCa := 100, readings := List.replicate 16 400, opens := [], effLower := false, energyMj := 1, innerCounts := [], views := [] }, by decide +kernel⟩,
   ⟨on { dev1 with power := { dev1.power with state := .off } }, { p1 := 100, inputMv := 54000, inputCa := 100, readings := List.replicate 16 400, opens := [], effLower := false, energyMj := 1, innerCounts := [], views := [] }, by decide +kernel⟩,
   ⟨on (modRow 0 (fun r => { r with awake := true }) dev1), 0, 1000, 1, by decide +kernel⟩,
   ⟨on (modRow 0 (fun r => { r with awake := true }) dev1), 0, by decide +kernel⟩,
   ⟨on dev1, 0, 1000, 1, by decide +kernel⟩,
   ⟨on dev1, 0, by decide +kernel⟩,
   ⟨on (modRow 29 (fun r => { r with awake := true }) dev1), 29, by decide +kernel⟩,
   ⟨on { dev1 with power := { dev1.power with state := .starting } }, 0, by decide +kernel⟩,
   ⟨on dev1, by decide +kernel⟩,
   ⟨on { dev1 with power := { dev1.power with state := .starting } }, by decide +kernel⟩,
   ⟨on { dev1 with owl := { dev1.owl with i3c := { dev1.owl.i3c with recovering := true } } }, true, by decide +kernel⟩,
   ⟨on dev1, true, by decide +kernel⟩⟩

/-- States and operands that meet the hypotheses of O60, clause by clause. -/
theorem witness_StartsResetsAndEdges :
    (∃ (s : State) (env : StartEnv) (v : U64), 44000 ≤ env.inputMv.toNat ∧ env.inputMv.toNat ≤ 60000 ∧ env.reversed = false ∧ env.regulatorFail = false ∧ env.trainingFail = false ∧ s.dev.power.state ≠ .off ∧ bits v.toNat 1 0 = 1 ∧ s.dev.start.retainValid = true ∧ s.dev.start.completed = true ∧ s.dev.start.running = false) ∧
    (∃ (s : State) (env : StartEnv) (v : U64), 44000 ≤ env.inputMv.toNat ∧ env.inputMv.toNat ≤ 60000 ∧ env.reversed = false ∧ env.regulatorFail = false ∧ env.trainingFail = false ∧ s.dev.power.state ≠ .off ∧ bits v.toNat 1 0 = 2) ∧
    (∃ (s : State) (env : StartEnv), 44000 ≤ env.inputMv.toNat ∧ env.inputMv.toNat ≤ 60000 ∧ env.reversed = false ∧ env.regulatorFail = false ∧ env.trainingFail = false ∧ s.dev.power.state = .off) ∧
    (∃ (s : State) (env : StartEnv), 44000 ≤ env.inputMv.toNat ∧ env.inputMv.toNat ≤ 60000 ∧ env.reversed = false ∧ env.regulatorFail = false ∧ env.trainingFail = false ∧ s.dev.power.state ≠ .off) ∧
    (∃ (s : State) (env : StartEnv) (v : U64), s.dev.power.state ≠ .off ∧ bits v.toNat 1 0 = 2 ∧ env.reversed = false ∧ (env.inputMv.toNat < 44000 ∨ 60000 < env.inputMv.toNat)) ∧
    (∃ (s : State) (env : StartEnv) (v : U64), s.dev.power.state ≠ .off ∧ bits v.toNat 1 0 = 2 ∧ env.reversed = false ∧ 44000 ≤ env.inputMv.toNat ∧ env.inputMv.toNat ≤ 60000 ∧ env.regulatorFail = true) ∧
    (∃ (s : State) (_env : StartEnv) (_v : U64), s.dev.power.state = .off) ∧
    (∃ (s : State) (_img : List Byte) (_u : SelfTest), s.dev.awaitsFirmware = true ∧ s.dev.mode.d3hot = false) ∧
    (∃ (s : State) (_img : List Byte) (_u : SelfTest), (s.dev.awaitsFirmware = false ∨ s.dev.mode.d3hot = true) ∧ s.dev.power.state ≠ .off) ∧
    (∃ (s : State), s.dev.awaitsFirmware = true) ∧
    (∃ (s : State), s.dev.awaitsFirmware = false) ∧
    (∃ (s : State), s.dev.start.running = true) ∧
    (∃ (s : State) (k : BitVec 4), (s.dev.start.running = false ∨ k ≠ s.dev.start.step)) ∧
    (∃ (s : State), s.dev.power.state ≠ .off) ∧
    (∃ (s : State) (_env : StartEnv), s.dev.power.state ≠ .off ∧ s.dev.start ≠ Start.reset) :=
  ⟨⟨on { dev1 with start := { Start.reset with retainValid := true, completed := true } }, env0, 5, by decide +kernel⟩,
   ⟨on (starting 5), env0, 2, by decide +kernel⟩,
   ⟨on { dev1 with power := { dev1.power with state := .off } }, env0, by decide +kernel⟩,
   ⟨on dev1, { env0 with inputMv := 60000 }, by decide +kernel⟩,
   ⟨on dev1, { env0 with inputMv := 43999 }, 2, by decide +kernel⟩,
   ⟨on dev1, { env0 with inputMv := 44000, regulatorFail := true }, 2, by decide +kernel⟩,
   ⟨on { dev1 with power := { dev1.power with state := .off } }, env0, 1, by decide +kernel⟩,
   ⟨on (starting 5), [], test0, by decide +kernel⟩,
   ⟨on dev1, [], test0, by decide +kernel⟩,
   ⟨on (starting 5), by decide +kernel⟩,
   ⟨on dev1, by decide +kernel⟩,
   ⟨on (starting 8), by decide +kernel⟩,
   ⟨on dev1, 1, by decide +kernel⟩,
   ⟨on dev1, by decide +kernel⟩,
   ⟨on (starting 5), env0, by decide +kernel⟩⟩

theorem sha_block_length (h : List U64) (b : List Byte) (hl : h.length = 8) : (shaBlock h b).length = 8 := by
  have go : ∀ (l : List (U64 × U64)) (v : List U64), v.length = 8 → (l.foldl shaRound v).length = 8 := by
    intro l
    induction l with
    | nil => intro v hv; exact hv
    | cons x l ih =>
      intro v hv
      refine ih _ ?_
      match v, hv with
      | [_, _, _, _, _, _, _, _], _ => rfl
  simp [shaBlock, List.length_zipWith, hl, go]

theorem sha384_length (m : List Byte) : (sha384 m).length = 48 := by
  have go : ∀ (l : List (List Byte)) (v : List U64), v.length = 8 → (l.foldl shaBlock v).length = 8 := by
    intro l
    induction l with
    | nil => intro v hv; exact hv
    | cons x l ih => intro v hv; exact ih _ (sha_block_length _ _ hv)
  have hb : ∀ n x, (leBytes n x).length = n := by
    intro n
    induction n with
    | zero => intro x; rfl
    | succ n ih => intro x; simp [leBytes, ih]
  have h8 := go (chunks 128 ((shaPad m).length / 128 + 1) (shaPad m)) shaInit rfl
  simp only [sha384]
  generalize (chunks 128 ((shaPad m).length / 128 + 1) (shaPad m)).foldl shaBlock shaInit = v at h8
  match v, h8 with
  | [_, _, _, _, _, _, _, _], _ => simp [beBytes, hb]

/-- What lies inside the first part of a list of bytes. -/
theorem slice_left (a b : List Byte) (o n : Nat) (h : o + n ≤ a.length) : slice (a ++ b) o n = slice a o n := by
  have h1 : (((a ++ b).drop o).take n) = ((a.drop o).take n) := by
    rw [List.drop_append_of_le_length (by omega), List.take_append_of_le_length (by rw [List.length_drop]; omega)]
  simp [slice, h1]

/-- What lies past the first part. -/
theorem slice_right (a b : List Byte) (o n : Nat) (h : a.length ≤ o) : slice (a ++ b) o n = slice b (o - a.length) n := by
  have h1 : (((a ++ b).drop o).take n) = ((b.drop (o - a.length)).take n) := by
    rw [List.drop_append, List.drop_of_length_le h]; rfl
  simp [slice, h1]

/-- What fills the middle part. -/
theorem slice_mid (a b c : List Byte) : slice (a ++ b ++ c) a.length b.length = b := by
  simp [slice, zeros]

/-- The header of a firmware image of 1 MiB up to its digest. -/
def fwHead : List Byte := mk 32 [(0, 4, 0x4657514C), (4, 2, 1), (8, 1, 1), (9, 1, 2), (0x10, 8, 0x100000)]

/-- The image: its digest and body as given, everything else zero. -/
def fwImage (digest body : List Byte) : List Byte := fwHead ++ digest ++ zeros 176 ++ body

/-- A start in step 5 told the address and size of that image. -/
def startFw : Dev := { starting 5 with start := { (starting 5).start with fwAddr := 0x1000, fwBytes := 0x100100 } }

theorem fw_image_format (g m : List Byte) (hg : g.length = 48) (hm : m.length = 0x100000) :
    fwFormat (on startFw).dev.start (fwImage g m) = true := by
  have hh : fwHead.length = 32 := by decide
  have h176 : (zeros 176).length = 176 := List.length_replicate
  have hf : ∀ o n, o + n ≤ 32 → slice (fwImage g m) o n = slice fwHead o n := by
    intro o n h
    rw [fwImage, List.append_assoc, List.append_assoc, slice_left _ _ _ _ (by omega)]
  have hz : slice (fwImage g m) 0x50 80 = zeros 80 := by
    rw [fwImage, slice_left _ _ _ _ (by simp only [List.length_append, hh, hg, h176]; omega),
      slice_right _ _ _ _ (by simp only [List.length_append, hh, hg]; omega)]
    simp only [List.length_append, hh, hg]
    decide +kernel
  have hl : (fwImage g m).length = 0x100100 := by simp only [fwImage, List.length_append, hh, hg, h176, hm]
  simp only [fwFormat, zeroAt, field, hz, hf 0x10 8 (by omega), hf 0 4 (by omega), hf 4 2 (by omega), hf 6 2 (by omega),
    hf 0xC 4 (by omega), hl]
  decide +kernel

theorem fw_image_digest (g m : List Byte) (hg : g.length = 48) : fwDigest (fwImage g m) = decide (sha384 m = g) := by
  have hh : fwHead.length = 32 := by decide
  have h176 : (zeros 176).length = 176 := List.length_replicate
  have hp : (fwHead ++ g ++ zeros 176).length = 256 := by simp only [List.length_append, hh, hg, h176]
  have h1 : (fwImage g m).drop 256 = m := by
    rw [fwImage, List.drop_append, List.drop_of_length_le (Nat.le_of_eq hp), hp]
    rfl
  have h2 : slice (fwImage g m) 0x20 48 = g := by
    have := slice_mid fwHead g (zeros 176 ++ m)
    rw [hh, hg, ← List.append_assoc] at this
    exact this
  rw [fwDigest, h1, h2]

/-- A firmware image good in its format, with a good digest and with a wrong one, in the step that takes it (O60). -/
theorem witness_firmware :
    (∃ (s : State) (img : List Byte), s.dev.awaitsFirmware = true ∧ s.dev.mode.d3hot = false ∧ fwFormat s.dev.start img = true ∧ fwDigest img = true) ∧
    (∃ (s : State) (img : List Byte), s.dev.awaitsFirmware = true ∧ s.dev.mode.d3hot = false ∧ fwFormat s.dev.start img = true ∧ fwDigest img = false) := by
  obtain ⟨m, hm⟩ : ∃ m : List Byte, m.length = 0x100000 := ⟨zeros 0x100000, List.length_replicate⟩
  have hs := sha384_length m
  have h0 : (zeros 48).length = 48 := List.length_replicate
  have h1 : (List.replicate 48 (1 : Byte)).length = 48 := List.length_replicate
  refine ⟨⟨on startFw, fwImage (sha384 m) m, by decide, by decide, fw_image_format _ m hs hm, ?_⟩, ?_⟩
  · rw [fw_image_digest _ m hs]; simp
  · by_cases h : sha384 m = zeros 48
    · refine ⟨on startFw, fwImage (List.replicate 48 1) m, by decide, by decide, fw_image_format _ m h1 hm, ?_⟩
      rw [fw_image_digest _ m h1, h]
      decide +kernel
    · exact ⟨on startFw, fwImage (zeros 48) m, by decide, by decide, fw_image_format _ m h0 hm, by rw [fw_image_digest _ m h0]; simpa using h⟩

/-! ## Worked examples of the manual, its figures as expected values -/

/-- Chapter Numbers: a P48 counter at 0x0000_FFFF_FFFF_FFFA counts 10 further events. -/
theorem test_p48_wraps : countTo 3 0x0000FFFFFFFFFFFA 10 = 0x8000000000000004 := by decide +kernel

/-- R43's example: 1.5 × 2^26 enters an XS64 total of base −20. -/
theorem test_xs_addend :
    (xsAddend false (-20) .nearestEven 0 .lf32 (readFloat .lf32 0x4CC00000)).1 = { reg := 0x600000000000, tag := 0 } ∧
    (xsAddend false (-20) .nearestEven 0 .lf32 (readFloat .lf32 0xCCC00000)).1 = { reg := xsReg false (-0x600000000000), tag := 0 } := by decide +kernel

/-- The same example: the sum of the three in either order, out to LF32; two positive addends alone overflow. -/
theorem test_xs_orders :
    let p : Xs := { reg := 0x600000000000, tag := 0 }
    let n : Xs := { reg := xsReg false (-0x600000000000), tag := 0 }
    xsAdd false (xsAdd false p p) n = p ∧ xsAdd false (xsAdd false n p) p = p ∧
    (xsOut false (-20) .lf32 false false .nearestEven 0 p).bits = 0x4CC00000 ∧
    xsOut false (-20) .lf32 false false .nearestEven 0 (xsAdd false p p) = { bits := 0x7FD9FFFF, flags := fXsOver, origin := (xsOut false (-20) .lf32 false false .nearestEven 0 (xsAdd false p p)).origin } := by
  decide +kernel

/-- Stochastic rounding's example: 1 + 2^−10 to LF16, with sr_bits just below and at u. -/
theorem test_stochastic_rounding :
    (convElem .lf32 .lf16 false false .stochastic 0x3FFFFFFF 0x3F802000).bits = 0x3F01 ∧
    (convElem .lf32 .lf16 false false .stochastic 0x40000000 0x3F802000).bits = 0x3F00 := by decide +kernel

/-- The example of one sum on two modules: A + B is 2^17, which is 2.0 at base −16. -/
theorem test_sum_on_modules :
    (xsOut false (-16) .lf32 false false .nearestEven 0
      (xsAdd false { reg := 0x0000010000010000, tag := 0 } { reg := xsReg false (-0xFFFFFF0000), tag := 0 })) = Res.plain 0x40000000 ∧
    (add32 0 (add32 0 (add32 0 0x4B800000 0x3F800000).bits 0x3F800000).bits 0xCB800000).bits = 0 := by decide +kernel

/-- The example of one 0 × ∞: in DET 0x7FC8_FFFF with INVALID, class 1 in the total, 0x7F21 as LF16. -/
theorem test_zero_times_infinity :
    (mulElem .lf32 .nearestEven 0 0xFFFF 0 0x7F800000).bits = 0x7FC8FFFF ∧
    (mulElem .lf32 .nearestEven 0 0xFFFF 0 0x7F800000).flags = fInvalid ∧
    (xsAddend false (-20) .nearestEven 0 .lf32 (readFloat .lf32 0x7FC8FFFF)).1.tag = 0x23 ∧
    (convElem .lf32 .lf16 false false .nearestEven 0 0x7FC8FFFF).bits = 0x7F21 := by decide +kernel

/-- The ensemble of the example of one record through three trees. -/
def exEns : Ensemble :=
  { fixedPoint := true, scale := 16, outputs := 1, transform := 0, decisionOut := 0,
    features := [{ bounds := [0x41200000, 0x41C80000, 0x42480000, 0x42C80000], rawFmt := 0, wide := false, missEn := false, missValue := 0 },
                 { bounds := [0, 2, 5, 10, 0x7FFFFFFF], rawFmt := 1, wide := false, missEn := true, missValue := 0xFFFFFFFF },
                 { bounds := [], rawFmt := 2, wide := false, missEn := false, missValue := 0 },
                 { bounds := [0x42700000, 0x45610000, 0x47A8C000], rawFmt := 0, wide := false, missEn := false, missValue := 0 }],
    trees := [{ symmetric := false, depth := 2, words := [0x0000000100000002, 0x0000000010000000, 0x0001000180000002, 0x0000000010000001, 0x0000000010000002], leaves := 3 },
              { symmetric := false, depth := 1, words := [0x0002000020000002, 0x0000000010000003, 0x0000000010000004], leaves := 2 },
              { symmetric := true, depth := 2, words := [0x0003000000000000, 0x0000000200000000, 0x0000000600000005, 0x0000000800000007], leaves := 4 }],
    catmaps := [[0x88, 2] ++ zeros 30], leaves := [[0], [0x4000], [0], [0xFFFFE000], [0], [0], [0], [0xB000], [0]], base := [0xFFFF8000],
    pwl := [], decision := some { thresholds := [0x3F000000, 0x3F666666], codes := [0, 1, 2], count := 2, nanCode := 9, poisonCode := 9 } }

theorem test_example_bins :
    exEns.codesOf true (leBytes 4 0x42160000 ++ leBytes 4 0xFFFFFFFF ++ leBytes 4 7 ++ leBytes 4 0x45E10000) = [2, 0xFF, 7, 2] ∧
    (exEns.features.map (fun f => f.bin 0x430C0000)).head? = some 3 := by decide +kernel

theorem test_example_walks :
    exEns.trees.map (exEns.walk [2, 0xFF, 7, 2]) = [(1, 1), (3, 0), (7, 2)] ∧
    (exEns.fixedScore 0 [1, 3, 7]).value = 0x3EA00000 := by decide +kernel

/-- R175 on the same shard: the first tree's block ends in granule 0; the second tree's map begins granule 1. -/
theorem test_example_poison :
    exEns.spoils [2, 0xFF, 7, 2] [0] [1] = false ∧ exEns.spoils [2, 0xFF, 7, 2] [0, 1] [1] = true ∧
    exEns.spoils [2, 0xFF, 0, 2] [0, 1] [0] = true := by decide +kernel

/-- R169's worked step: 50 full trees of depth 6 on one lane group are walked in 300 cycles with no wait, and line 198 is
filled in cycle 195. -/
theorem test_example_step_length :
    fillWalks 50800 ((offsetsOf (List.replicate 50 (1016, 6)) 0).drop 1) [] 3 0 6 0 = (300, 196, 0) := by decide +kernel

/-- The growth schedule of the example of one root split. -/
def exSched : Schedule :=
  { (parseSchedule (zeros 256)).1 with lambda := 0x3F800000, gamma := 0, eta := 0x3F000000, minHess := 0x3F800000,
                                       baseG := 0x8000, baseH := 0x8000, rnd := 0 }

/-- The cells of its candidate feature: bin, G and H. -/
def exCells : Sparse (Xs × Xs) :=
  [(0, -6, 3), (1, -2, 4), (2, 4, 5), (3, 6, 7), (255, -2, 1)].map
    (fun (c : Nat × Int × Int) => (c.1, { reg := xsReg false (c.2.1 * 2 ^ 20), tag := 0 }, { reg := xsReg false (c.2.2 * 2 ^ 20), tag := 0 }))

theorem test_example_split :
    (scanFeature exSched 0 5 exCells).1.map (fun b => (b.feature, b.threshold, b.missLeft, b.left.1.reg, b.left.2.reg)) =
      some (5, 1, true, xsReg false (-10 * 2 ^ 20), 0x800000) := by decide +kernel

/-- Its leaves. -/
theorem test_example_leaves :
    (leafValue exSched { sess0 with fixedPoint := true, scale := 16 } 0 ({ reg := xsReg false (-10 * 2 ^ 20), tag := 0 }, { reg := 0x800000, tag := 0 })).1 = 0x8E39 ∧
    (leafValue exSched { sess0 with fixedPoint := true, scale := 16 } 0 ({ reg := xsReg false (10 * 2 ^ 20), tag := 0 }, { reg := 0xC00000, tag := 0 })).1 = 0xFFFF9D8A := by
  decide +kernel

/-- The table of the example of one leaf row: W 64, LF16, SGD, keyed by leaf. -/
def exTable : TableDesc :=
  { parseTable (zeros 64) with rows := 65536, width := 64, fmt := 1, opt := 1, stage := 1, stageBase := 0x8000, keyMode := 1, leafBits := 8 }

theorem test_example_row :
    exTable.rowOf 0x000020002 = some 514 ∧ exTable.slot = 192 ∧ exTable.rpp = 21 ∧ homeChannel 7 24 = 27 ∧
    frameAddr 27 5000 0 = 0x0138893000 ∧ exTable.stateDesc = 0x00010001 := by decide +kernel

theorem test_example_apply :
    (xsOut false (-40) .lf32 false false .nearestEven 0 { reg := 0x5000000000, tag := 4 }).bits = 0x3EA00000 ∧
    (xsOut false (-40) .lf32 false false .nearestEven 0 { reg := 0x5000000000, tag := 4 }).flags = fXsLow ∧
    (optimize exTable 0x3F000000 [0x3EA00000] [0x3F800000] []).1.map (fun w => (convElem .lf32 .lf16 false false .nearestEven 0 w).bits) = [0x3EB0] := by
  decide +kernel

/-- The example of three bad symbols: the address, and the read under CORRECT_LIMIT 2. -/
theorem test_example_granule :
    channelOf 0x1234567800 = 34 ∧ frameAddr 34 74565 0x800 = 0x1234567800 ∧
    judgeGranule 2 false [(8, 0x11), (9, 0x22), (40, 0x40)] = .uncorrectable ∧
    judgeGranule 4 false [(8, 0x11), (9, 0x22), (40, 0x40)] = .corrected [(8, 0x11), (9, 0x22), (40, 0x40)] := by decide +kernel

/-- The example of a ceiling below the load: tick 0 and tick 2. -/
theorem test_example_ceiling :
    let b := { Bounds.reset with ceilingW := 1000, floorStep := 32, ceilingStep := 34 }
    let d0 := { dev0 with power := { dev0.power with p1 := 1180, step := 34 } }
    let d2 := { dev0 with power := { dev0.power with p1 := 1110, step := 32 } }
    (stepControl b false d0).power.step = 33 ∧ (stepControl b false d0).counter (cPower 3) = 0 ∧
    (stepControl b false d2).power.step = 31 ∧ (stepControl b false d2).power.overrides = [(1, 1)] := by decide +kernel

/-- The RANGE counter of physical position 315. -/
theorem test_example_counter :
    cCore 315 3 = 0x413B18 ∧ countTo (counterClass 0x413B18) 0xFFFFFFFE 7 = 0xFFFFFFFF ∧ counterSource 0x413B18 = 0x13B := by decide +kernel

/-- FIPS 180-4: SHA-384 of "abc". -/
theorem test_sha384 : sha384 [0x61, 0x62, 0x63] = beBytes 48
    0xCB00753F45A35E8BB5A03D699AC65007272C32AB0EDED1631A8B605A43FF5BED8086072BA1E7CC2358BAECA134C825A7 := by decide +kernel

/-! ## Well-formed commands: a term that each check refuses -/

/-- A flit whose LEN does not count its payload. -/
def badFlit0 : Flit := { flit0 0 0 [1] with len := 2 }

theorem test_ill_formed :
    [Instr.doorbell 3 3 0, .ringFetchReturn 3 0 [{ bytes := zeros 63, poisoned := false }], .badAccess false 0 0, .collectiveStart 0 (zeros 63),
     .blockReturn 0 [[], [], [], [], []], .blockReturn 0 [[{ position := 3, flips := 0 }]],
     .patrolScrub 0 [[{ position := 3, flips := 1 }, { position := 3, flips := 2 }]], .gather (zeros 31) 0, .scatterAdd (zeros 31) 0,
     .mgmtBlockWrite false 0 false true [] true, .mgmtBlockWrite false 0 false true (zeros 241) true, .bar4Write 0 [] ⟨false, []⟩, .bar4Read 0 ⟨0, []⟩,
     .linkTrainingComplete 8 { train0 with laneOrder := [0, 1, 2, 3, 0] }, .linkTrainingFailed 8 { train0 with laneOrder := [0, 1, 2, 3, 0] }].all
       (fun i => !i.wellFormed) = true := by decide +kernel

theorem test_ill_formed_flits :
    [Instr.streamData 8 badFlit0, .streamOpen 8 badFlit0, .streamAck 8 badFlit0, .fabricRead 8 badFlit0, .fabricWrite 8 badFlit0, .badger 8 badFlit0,
     .gatherData 8 badFlit0, .collective 8 badFlit0, .barrierFlitArrive 8 badFlit0, .barrierFlitRelease 8 badFlit0, .timeSync 8 badFlit0,
     .stop 8 badFlit0, .resetSyncReady 8 badFlit0, .resetSyncGo 8 badFlit0, .notice 8 badFlit0, .badFlit 8 badFlit0, .transitFlit 8 badFlit0].all
       (fun i => !i.wellFormed) = true := by decide +kernel

/-- Seventeen readings at a health tick. -/
theorem test_ill_formed_tick (env : TickEnv) : (Instr.healthTick { env with readings := List.replicate 17 0 }).wellFormed = false := by
  simp [Instr.wellFormed, tickOk]

/-- The table gives its rows no bits. -/
theorem test_no_word_decodes (nbits w : Nat) : decodeTableWord nbits w = none := rfl


/-- The hypotheses of the last clause of O46's APPLY: FINAL is set, one staged row of an SGD table, nothing skips it. -/
theorem witness_StepsAndRequestsOfTables_row :
    ∃ (s : State) (b : List Byte) (x : TableDesc) (u : Staged), s = on (ring (embB 1 1) (setCells 0xC (leBytes 4 (parseTable tabBytes).stateDesc) devTS)) ∧ b = embB 1 1 ∧
      (stepEntries s.dev b).map (fun e => (stepEntry e).table) = [9] ∧ bitOf (field b 0x23 1) 0 = true ∧ (s.dev.table 9).pins = [] ∧
      (s.dev.table 9).applying = false ∧ (s.dev.table 9).desc = some x ∧ x.opt = 1 ∧ (s.dev.table 9).staging = [u] ∧
      (s.dev.table 9).incomplete = false ∧ (s.dev.queue 3).inDevice = false ∧
      skipRow x u (s.dev.slotPoisoned 9 x u || decide (0 < s.dev.poisonedIn (s.dev.rowAddr 9 x u.row) x.slot))
        (field (s.dev.bytesAt (s.dev.rowAddr 9 x u.row) x.slot) 0xC 4) = none ∧
      ∀ o, o < 8 → ∀ k, k < 12 → s.dev.areaAddr 9 u.channel (s.dev.slotAt 9 x u.channel u.slot + o) ≠ some (s.dev.rowAddr 9 x u.row + k) :=
  ⟨_, _, parseTable tabBytes, freshStaged (parseTable tabBytes) (devT.rowChannel 9 (parseTable tabBytes) 99) 0 99 5, rfl, rfl, by decide +kernel⟩
end Sys2Proof.Tests
end

section
/-! Proofs: how a command that runs alone on its queue starts and completes (R309 to R316). -/
namespace Sys2Proof.Machine
open Sys2Proof Sys2Proof.Safety

/-- Command i of n entries runs alone on queue q, holds no job or version, and has not completed. -/
def Pending (d : Dev) (q n : Nat) (i : U32) : Prop :=
  ∃ c, (d.qrun q).running = [c] ∧ c.index = i ∧ c.entries = n ∧ c.work = .plain ∧ c.completed = false

/-- A property that each application to an element of the list keeps holds after all of them. -/
theorem forEach_keeps_mem {α : Type} {P : Dev → Prop} {f : α → Dev → Dev} :
    ∀ (l : List α) (d : Dev), (∀ x ∈ l, ∀ e, P e → P (f x e)) → P d → P (forEach f l d)
  | [], _, _, hd => hd
  | x :: l, d, h, hd =>
    forEach_keeps_mem l (f x d) (fun y hy => h y (List.mem_cons_of_mem x hy)) (h x List.mem_cons_self d hd)

/-! ## Starting the head -/

/-- A journal record is kept outside the front end, the stacks, the tables and the fabric. -/
theorem journalAdd_frame (d : Dev) (type q : Nat) (i : U32) (source : Nat) (check : U32) (payload : List Byte) :
    (journalAdd type q i source check payload d).fe = d.fe ∧ (journalAdd type q i source check payload d).mem = d.mem ∧
    (journalAdd type q i source check payload d).embed = d.embed ∧
    (journalAdd type q i source check payload d).fabric = d.fabric ∧
    (journalAdd type q i source check payload d).ident = d.ident ∧
    (journalAdd type q i source check payload d).mode.det = d.mode.det := by
  unfold journalAdd
  dsimp only
  split
  · simp only [and_self]
  · split <;> simp only [bump_frame, and_self]

theorem guarded_journalPoint_frame (d : Dev) (p : Bool) (q : Nat) (i : U32) (slot : Bool) (segment : Nat) :
    (guarded p (journalPoint q i slot segment) d).fe = d.fe ∧ (guarded p (journalPoint q i slot segment) d).mem = d.mem ∧
    (guarded p (journalPoint q i slot segment) d).embed = d.embed ∧
    (guarded p (journalPoint q i slot segment) d).fabric = d.fabric ∧
    (guarded p (journalPoint q i slot segment) d).ident = d.ident ∧
    (guarded p (journalPoint q i slot segment) d).mode.det = d.mode.det := by
  cases p
  · simp only [guarded_false, and_self]
  · simp only [guarded_true, journalPoint, journalAdd_frame, and_self]

/-- What starting a head leaves unchanged. -/
theorem startHead_frame (d : Dev) (q : Nat) (b : List Byte) (n : Nat) :
    (startHead q b n d).mem = d.mem ∧ (startHead q b n d).embed = d.embed ∧ (startHead q b n d).fabric = d.fabric ∧
    (startHead q b n d).ident = d.ident ∧ (startHead q b n d).mode.det = d.mode.det := by
  simp only [startHead, journalAdd_frame, guarded_journalPoint_frame, modRun_frame, modQueue_frame, and_self]

/-- STARTED advances past the head's entries, and nothing else of the queue's context moves. -/
theorem startHead_queue (d : Dev) (q : Nat) (b : List Byte) (n : Nat) :
    (startHead q b n d).queue q = { d.queue q with started := (d.queue q).started + BitVec.ofNat 32 n } := by
  simp only [Dev.queue, startHead, journalAdd_frame, guarded_journalPoint_frame, modRun_frame]
  exact modQueue_queue_same d q _

/-- The head joins the commands that run. -/
theorem startHead_running (d : Dev) (q : Nat) (b : List Byte) (n : Nat) :
    ((startHead q b n d).qrun q).running = (d.qrun q).running ++ [newCmd d q b n] := by
  simp only [Dev.qrun, startHead, journalAdd_frame, guarded_journalPoint_frame]
  exact (congrArg QueueRun.running (modRun_qrun_same _ q _)).trans (by simp [Dev.qrun])

/-- A head that is started alone is pending. -/
theorem startHead_pending {d : Dev} {q n : Nat} {b : List Byte} (h : (d.qrun q).running = []) :
    Pending (startHead q b n d) q n (d.queue q).started :=
  ⟨newCmd d q b n, by simp [startHead_running, h], rfl, rfl, rfl, rfl⟩

/-- A queue's only entries are all started with its head. -/
theorem startHead_avail {d : Dev} {q n : Nat} (b : List Byte) (h : (d.queue q).avail = n) :
    ((startHead q b n d).queue q).avail = 0 := by
  have hn : (d.queue q).producer - (d.queue q).started = BitVec.ofNat 32 n := by
    rw [← h, Queue.avail, BitVec.ofNat_toNat, BitVec.setWidth_eq]
  simp only [startHead_queue, Queue.avail]
  rw [← BitVec.sub_sub, hn, BitVec.sub_self]
  rfl

/-! ## A queue with no entries to start -/

theorem head_of_no_entries {d : Dev} {q : Nat} (h : (d.queue q).avail = 0) : d.head q = none := by
  simp [Dev.head, h]

/-- With no entry to start there is no bad head to complete. -/
theorem badHeads_of_no_entries {d : Dev} {q : Nat} (n : Nat) (h : (d.queue q).avail = 0) : badHeads q n d = d := by
  cases n with
  | zero => rfl
  | succ n => simp [badHeads, head_of_no_entries h]

theorem learnNeed_of_no_entries {d : Dev} {q : Nat} (h : (d.queue q).avail = 0) : learnNeed q d = d := by
  simp [learnNeed, h]

theorem lookAhead_of_not_active {d : Dev} {q : Nat} (h : (d.queue q).state ≠ .active) : lookAhead q d = d := by
  simp [lookAhead, h]

/-- A queue that runs nothing and has nothing to start is IDLE (R309). -/
theorem settle_to_idle {d : Dev} {q : Nat} (hr : (d.qrun q).running = []) (hs : (d.queue q).state = .active)
    (ha : (d.queue q).avail = 0) : settle q d = leaveSlot q .idle d := by
  simp [settle, Dev.live, hr, hs, learnNeed_of_no_entries ha, Dev.hasWork, ha]

/-! ## Leaving the slot -/

theorem leaveSlot_queue (d : Dev) (q : Nat) (st : QState) :
    (leaveSlot q st d).queue q = { d.queue q with slot := none, state := st } := by
  unfold leaveSlot contextAccess
  dsimp only
  split <;> simp

theorem leaveSlot_frame (d : Dev) (q : Nat) (st : QState) :
    ((leaveSlot q st d).qrun q).running = (d.qrun q).running ∧ (leaveSlot q st d).fe.summary = d.fe.summary ∧
    (leaveSlot q st d).mem = d.mem ∧ (leaveSlot q st d).embed = d.embed ∧ (leaveSlot q st d).fabric = d.fabric := by
  unfold leaveSlot contextAccess
  dsimp only
  split <;> simp

/-! ## Retirement -/

theorem retireOne_queue (d : Dev) (q : Nat) (c : Cmd) :
    (retireOne q c d).queue q = { d.queue q with retired := (d.queue q).retired + BitVec.ofNat 64 c.entries } := by
  simp only [Dev.queue, retireOne, bump_frame, hwSet_frame, modRun_frame]
  exact modQueue_queue_same d q _

theorem retireOne_running (d : Dev) (q : Nat) (c : Cmd) :
    ((retireOne q c d).qrun q).running = (d.qrun q).running.drop 1 := by
  simp only [Dev.qrun, retireOne, bump_frame, hwSet_frame]
  exact (congrArg QueueRun.running (modRun_qrun_same _ q _)).trans (by simp [Dev.qrun])

/-- A retirement sets its queue's summary bit (R316). -/
theorem retireOne_summary (d : Dev) (q : Nat) (c : Cmd) :
    bitOf (look 0 (retireOne q c d).fe.summary (q / 64)).toNat (q % 64) = true := by
  have hbit : (BitVec.ofNat 64 (1 <<< (q % 64))).getLsbD (q % 64) = true := by
    simp [BitVec.getLsbD_ofNat, Nat.mod_lt, -BitVec.getLsbD_eq_getElem]
  simp only [retireOne, bump_frame, hwSet_frame, look_upd_same, bitOf, BitVec.testBit_toNat, BitVec.getLsbD_or]
  exact (Bool.or_eq_true _ _).mpr (.inr hbit)

theorem retireOne_frame (d : Dev) (q : Nat) (c : Cmd) :
    (retireOne q c d).mem = d.mem ∧ (retireOne q c d).embed = d.embed ∧ (retireOne q c d).fabric = d.fabric := by
  simp [retireOne]

/-- The loop retires a command that has completed alone. -/
theorem retireLoop_one {d : Dev} {q : Nat} {c : Cmd} (h : (d.qrun q).running = [c]) (hc : c.completed = true) :
    retireLoop q (d.qrun q).running.length d = retireOne q c d := by
  simp [h, retireLoop, hc]

/-! ## The completion record and what a command holds -/

@[simp] theorem leBytes_length : ∀ n x : Nat, (leBytes n x).length = n
  | 0, _ => rfl
  | n + 1, x => by simp [leBytes, leBytes_length n]

@[simp] theorem slice_length (b : List Byte) (o n : Nat) : (slice b o n).length = n := by
  simp only [slice, zeros, List.length_append, List.length_replicate, List.length_take]
  omega

theorem completionRecord_length (d : Dev) (c : Cmd) : (completionRecord d c).length = 64 := by
  simp [completionRecord]

theorem writeCompletion_frame (d : Dev) (q : Nat) (c : Cmd) :
    (writeCompletion q c d).fe = d.fe ∧ (writeCompletion q c d).embed = d.embed ∧
    (writeCompletion q c d).fabric = d.fabric := by
  unfold writeCompletion
  dsimp only
  split <;> simp

/-- A completion record changes no byte of device memory but its own 64, and those where its ring lies in device memory. -/
theorem writeCompletion_byte {d : Dev} {q : Nat} {c : Cmd} {a : Nat}
    (h : (d.queue q).inDevice = true →
      a < (d.queue q).entryAddr c.index.toNat ∨ (d.queue q).entryAddr c.index.toNat + 64 ≤ a) :
    look 0 (writeCompletion q c d).mem.cells a = look 0 d.mem.cells a := by
  unfold writeCompletion
  dsimp only
  split
  · rename_i hd
    rw [memWrite_byte, completionRecord_length, if_neg]
    have := h hd
    omega
  · simp

/-- Idle slots hold nothing: only the streams' unit changes. -/
theorem idleSlot_frame (d : Dev) (s : Nat) :
    (idleSlot s d).fe = d.fe ∧ (idleSlot s d).mem = d.mem ∧ (idleSlot s d).embed = d.embed ∧
    (idleSlot s d).fabric = d.fabric := by
  simp only [idleSlot, freeFrames, modSlotRun_frame, modSlot_frame]
  refine ⟨?_, ?_, ?_, ?_⟩
  · exact forEach_same (g := fun e => e.fe) (by intros; rfl) _ _
  · exact forEach_same (g := fun e => e.mem) (by intros; rfl) _ _
  · exact forEach_same (g := fun e => e.embed) (by intros; rfl) _ _
  · exact forEach_same (g := fun e => e.fabric) (by intros; rfl) _ _

/-- A command that holds no job and no version frees slots alone. -/
theorem releaseJob_frame (d : Dev) (q : Nat) {c : Cmd} (h : c.work = .plain) :
    (releaseJob q c d).fe = d.fe ∧ (releaseJob q c d).mem = d.mem ∧ (releaseJob q c d).embed = d.embed ∧
    (releaseJob q c d).fabric = d.fabric := by
  simp only [releaseJob, h, Dev.workTowers, Option.map_none, Option.getD_none, forEach_nil]
  refine ⟨?_, ?_, ?_, ?_⟩
  · exact forEach_same (g := fun e => e.fe) (fun s e => (idleSlot_frame e s).1) _ _
  · exact forEach_same (g := fun e => e.mem) (fun s e => (idleSlot_frame e s).2.1) _ _
  · exact forEach_same (g := fun e => e.embed) (fun s e => (idleSlot_frame e s).2.2.1) _ _
  · exact forEach_same (g := fun e => e.fabric) (fun s e => (idleSlot_frame e s).2.2.2) _ _

theorem journalFree_frame (d : Dev) (q : Nat) (i : U32) :
    (journalFree q i d).fe = d.fe ∧ (journalFree q i d).mem = d.mem ∧ (journalFree q i d).embed = d.embed ∧
    (journalFree q i d).fabric = d.fabric := ⟨rfl, rfl, rfl, rfl⟩

theorem modCmd_frame (d : Dev) (q : Nat) (i : U32) (f : Cmd → Cmd) :
    (modCmd q i f d).fe.queues = d.fe.queues ∧ (modCmd q i f d).fe.summary = d.fe.summary ∧ (modCmd q i f d).mem = d.mem ∧
    (modCmd q i f d).embed = d.embed ∧ (modCmd q i f d).fabric = d.fabric := by
  simp only [modCmd, modRun_frame, and_self]

theorem modCmd_running (d : Dev) (q : Nat) (i : U32) (f : Cmd → Cmd) :
    ((modCmd q i f d).qrun q).running = updateFirst (fun c => decide (c.index = i)) f (d.qrun q).running := by
  simp [modCmd]

/-- What a command that runs alone leaves when it completes, its queue having no entry to start (R309, R313, R316). -/
theorem finishCmd_pending {d : Dev} {q n : Nat} {i : U32} (hp : Pending d q n i) (hs : (d.queue q).state = .active)
    (ha : (d.queue q).avail = 0) :
    (finishCmd q i d).queue q =
      { d.queue q with retired := (d.queue q).retired + BitVec.ofNat 64 n, slot := none, state := .idle } ∧
    ((finishCmd q i d).qrun q).running = [] ∧
    bitOf (look 0 (finishCmd q i d).fe.summary (q / 64)).toNat (q % 64) = true ∧
    (finishCmd q i d).embed = d.embed ∧
    ∀ a, ((d.queue q).inDevice = true → a < (d.queue q).entryAddr i.toNat ∨ (d.queue q).entryAddr i.toNat + 64 ≤ a) →
      look 0 (finishCmd q i d).mem.cells a = look 0 d.mem.cells a := by
  obtain ⟨c, hr, hi, hn, hw, hc⟩ := hp
  let d1 := releaseJob q c (writeCompletion q c (journalFree q i d))
  let d2 := modCmd q i (fun c => { c with completed := true }) d1
  have hfe : d1.fe = d.fe := by simp only [d1, releaseJob_frame _ q hw, writeCompletion_frame, journalFree_frame]
  have hr2 : (d2.qrun q).running = [{ c with completed := true }] := by
    simp [d2, modCmd_running, qrun_congr (congrArg FrontEnd.runs hfe), hr, updateFirst, hi]
  have hq2 : d2.queue = d.queue := queue_congr (by simp only [d2, modCmd_frame, hfe])
  let d3 := retireOne q { c with completed := true } d2
  have hfin : finishCmd q i d = leaveSlot q .idle d3 := by
    have h1 : finishCmd q i d = settle q (retireLoop q (d2.qrun q).running.length d2) := by
      simp [finishCmd, Dev.cmd, hr, hi, hc, d2, d1]
    rw [h1, retireLoop_one hr2 rfl]
    apply settle_to_idle
    · simp [retireOne_running, hr2]
    · simp [retireOne_queue, hq2, hs]
    · simpa [retireOne_queue, hq2, Queue.avail] using ha
  rw [hfin]
  refine ⟨?_, ?_, ?_, ?_, fun a h => ?_⟩
  · simp [leaveSlot_queue, d3, retireOne_queue, hq2, hn]
  · simp [leaveSlot_frame, d3, retireOne_running, hr2]
  · simp only [leaveSlot_frame, d3, retireOne_summary]
  · simp only [leaveSlot_frame, d3, retireOne_frame, d2, modCmd_frame, d1, releaseJob_frame _ q hw, writeCompletion_frame,
      journalFree_frame]
  · simp only [leaveSlot_frame, d3, retireOne_frame, d2, modCmd_frame, d1, releaseJob_frame _ q hw]
    refine (writeCompletion_byte ?_).trans (by simp only [journalFree_frame])
    simpa [hi, queue_congr (congrArg FrontEnd.queues (journalFree_frame d q i).1)] using h

/-! ## A ready head from its start to its completion -/

/-- A header's faults do not depend on how far the queue has got. -/
theorem headerFault_started (u : Queue) (st : U32) (b : List Byte) :
    headerFault { u with started := st } b = headerFault u b := rfl

/-- A ready head of the kind is started and given to its meaning, and the queue then looks at its next entries. -/
theorem startKind_ready {d : Dev} {q feature n : Nat} {b : List Byte} {kind : List Byte → Bool} (f : Cmd → Dev → Dev)
    (h : ReadyHead d q feature b n) (hk : kind b = true) :
    startKind q kind feature f d = lookAhead q (badHeads q 16 (f (newCmd d q b n) (startHead q b n d))) := by
  obtain ⟨hhead, hbad, hmay, hagreed, hheader⟩ := h
  have ha : (startHead q b n d).agreed feature = true := by
    simp only [Dev.agreed, startHead_frame]; exact hagreed
  have hf : headerFault ((startHead q b n d).queue q) b = none := by
    rw [startHead_queue, headerFault_started]; exact hheader
  simp [startKind, hhead, hbad, hmay, hk, ha, hf]

theorem active_of_mayStart {d : Dev} {q : Nat} {b : List Byte} (h : d.mayStart q b = true) :
    (d.queue q).state = .active := by
  simp only [Dev.mayStart, Bool.and_eq_true, decide_eq_true_eq] at h
  obtain ⟨⟨⟨⟨-, hactive⟩, -⟩, -⟩, -⟩ := h
  exact hactive

/-- With its only head started a queue is still ACTIVE and has no entry to start. -/
theorem startHead_active {d : Dev} {q feature n : Nat} {b : List Byte} (h : ReadyHead d q feature b n) (ha : Alone d q n) :
    ((startHead q b n d).queue q).state = .active ∧ ((startHead q b n d).queue q).avail = 0 := by
  obtain ⟨-, -, hmay, -, -⟩ := h
  exact ⟨by rw [startHead_queue]; exact active_of_mayStart hmay, startHead_avail b ha.2⟩

/-- A command that started alone, whose meaning left its queue alone and ends with its completion, is completed, and the queue
has nothing else to start. -/
theorem completed_of_finishCmd {d e : Dev} {q feature n : Nat} {b : List Byte} (h : ReadyHead d q feature b n)
    (ha : Alone d q n) (hq : e.queue q = (startHead q b n d).queue q) (hp : Pending e q n (d.queue q).started) :
    lookAhead q (badHeads q 16 (finishCmd q (d.queue q).started e)) = finishCmd q (d.queue q).started e ∧
      Completed d (finishCmd q (d.queue q).started e) q n := by
  obtain ⟨hs, hav⟩ := startHead_active h ha
  rw [← hq] at hs hav
  obtain ⟨hqueue, hrun, hsum, -, -⟩ := finishCmd_pending hp hs hav
  have hav' : ((finishCmd q (d.queue q).started e).queue q).avail = 0 := by rw [hqueue]; exact hav
  have hidle : ((finishCmd q (d.queue q).started e).queue q).state = .idle := by rw [hqueue]
  refine ⟨?_, ?_⟩
  · rw [badHeads_of_no_entries 16 hav', lookAhead_of_not_active (by rw [hidle]; decide)]
  · refine ⟨?_, ?_, hrun, hidle, ?_, hsum⟩ <;> rw [hqueue] <;> simp only [hq, startHead_queue]

end Sys2Proof.Machine
end

section
/-! Proofs: which bytes of device memory a store of marked bytes and a store in a table's area can change (R400, R405, R218). -/
namespace Sys2Proof.Machine
open Sys2Proof

/-- An address outside the log of memory errors (R405). -/
def OutsideLog (a : Nat) : Prop := a < 0xFF01080000 ∨ 0xFF01180000 ≤ a

theorem memRecordBytes_length (r : MemRecord) : (memRecordBytes r).length = 32 := by simp [memRecordBytes]

/-- A record is written inside the log: its place is one of 2^15 of 32 bytes. -/
theorem storeRecord_byte (d : Dev) (r : MemRecord) {a : Nat} (h : OutsideLog a) :
    look 0 (storeRecord r d).mem.cells a = look 0 d.mem.cells a := by
  have hn : d.mem.logNext.toNat < 2 ^ 15 := d.mem.logNext.isLt
  unfold OutsideLog at h
  refine (setCells_byte d (0xFF01080000 + 32 * d.mem.logNext.toNat) a (memRecordBytes r)).trans (if_neg ?_)
  rw [memRecordBytes_length]
  omega

theorem poisonGranule_byte (d : Dev) (src : Byte) (g : Nat) {a : Nat} (h : OutsideLog a) :
    look 0 (poisonGranule src g d).mem.cells a = look 0 d.mem.cells a := by
  unfold poisonGranule
  dsimp only
  split
  · simp only [bump_frame, setPoison_frame]
  · simp only [logRecord, captureRecord_frame, storeRecord_byte _ _ h, modChan_frame, bump_frame, setPoison_frame]

theorem writeGranulePoison_byte (d : Dev) (src : Byte) (b n : Nat) (m : Bool) (g : Nat) {a : Nat} (h : OutsideLog a) :
    look 0 (writeGranulePoison src b n m g d).mem.cells a = look 0 d.mem.cells a := by
  unfold writeGranulePoison
  dsimp only
  split
  · exact poisonGranule_byte d src g h
  · split
    · simp only [setPoison_frame]
    · split <;> simp only [bump_frame]

/-- A store changes its own bytes and the log of memory errors, and no other byte. -/
theorem memStore_byte_other (d : Dev) (src : Byte) (b : Nat) (bytes : List Byte) (m : Bool) {a : Nat} (h : OutsideLog a)
    (ha : a < b ∨ b + bytes.length ≤ a) : look 0 (memStore src b bytes m d).mem.cells a = look 0 d.mem.cells a := by
  unfold memStore
  refine (forEach_same (g := fun e => look 0 e.mem.cells a) (fun g e => writeGranulePoison_byte e src b _ m g h) _ _).trans ?_
  rw [setCells_byte, if_neg (by omega)]

theorem byGranule_nil (n b : Nat) : byGranule n b [] = [] := by cases n <;> rfl

/-- The parts of marked bytes by granule lie where the bytes do. -/
theorem byGranule_within : ∀ (n b : Nat) (data : List (Byte × Bool)), ∀ g ∈ byGranule n b data,
    b ≤ g.1 ∧ g.1 + g.2.1.length ≤ b + data.length
  | 0, _, _, g, hg => by simp [byGranule] at hg
  | n + 1, b, data, g, hg => by
    unfold byGranule at hg
    split at hg
    · simp at hg
    · rcases List.mem_cons.1 hg with rfl | hrest
      · simp only [List.length_map, List.length_take]
        omega
      · by_cases hs : data.length ≤ 64 - b % 64
        · rw [List.drop_eq_nil_of_le hs, byGranule_nil] at hrest
          simp at hrest
        · have ih := byGranule_within n _ _ g hrest
          rw [List.length_drop] at ih
          omega

/-- Storing marked bytes changes them and the log of memory errors, and no other byte. -/
theorem memLand_byte_other (d : Dev) (src : Byte) (b : Nat) (data : List (Byte × Bool)) {a : Nat} (h : OutsideLog a)
    (ha : a < b ∨ b + data.length ≤ a) : look 0 (memLand src b data d).mem.cells a = look 0 d.mem.cells a := by
  refine forEach_keeps_mem (P := fun e => look 0 e.mem.cells a = look 0 d.mem.cells a) _ d (fun g hg e he => ?_) rfl
  have hin := byGranule_within _ _ _ g hg
  exact (memStore_byte_other e src _ _ _ h (by omega)).trans he

theorem memLand_frame (d : Dev) (src : Byte) (b : Nat) (data : List (Byte × Bool)) :
    (memLand src b data d).fe = d.fe ∧ (memLand src b data d).embed = d.embed ∧ (memLand src b data d).fabric = d.fabric := by
  refine ⟨?_, ?_, ?_⟩
  · exact forEach_same (g := fun e => e.fe) (fun _ e => by simp only [memStore_frame]) _ _
  · exact forEach_same (g := fun e => e.embed) (fun _ e => by simp only [memStore_frame]) _ _
  · exact forEach_same (g := fun e => e.fabric) (fun _ e => by simp only [memStore_frame]) _ _

/-! ## Areas of tables (R212, R218) -/

theorem areaAddr_congr {d e : Dev} {t : Nat} (h : (e.table t).areas = (d.table t).areas) (k o : Nat) :
    e.areaAddr t k o = d.areaAddr t k o := by simp only [Dev.areaAddr, h]

/-- Within a frame the bytes of an area lie at consecutive addresses. -/
theorem areaAddr_add {d : Dev} {t k o b : Nat} (h : d.areaAddr t k o = some b) {i : Nat} (hi : o % 4096 + i < 4096) :
    d.areaAddr t k (o + i) = some (b + i) := by
  have hdiv : (o + i) / 4096 = o / 4096 := by omega
  have hmod : (o + i) % 4096 = o % 4096 + i := by omega
  simp only [Dev.areaAddr, Option.map_eq_some_iff] at h
  obtain ⟨f, hf, rfl⟩ := h
  simp only [Dev.areaAddr, hdiv, hmod, hf, Option.map_some, frameAddr, Nat.add_assoc]

theorem areaParts_nil (n o : Nat) : areaParts n o [] = [] := by cases n <;> rfl

/-- The parts of bytes by frame lie where the bytes do, each inside a frame. -/
theorem areaParts_within : ∀ (n o : Nat) (bytes : List Byte), ∀ p ∈ areaParts n o bytes,
    o ≤ p.1 ∧ p.1 + p.2.length ≤ o + bytes.length ∧ p.1 % 4096 + p.2.length ≤ 4096
  | 0, _, _, p, hp => by simp [areaParts] at hp
  | n + 1, o, bytes, p, hp => by
    unfold areaParts at hp
    split at hp
    · simp at hp
    · rcases List.mem_cons.1 hp with rfl | hrest
      · have := Nat.mod_lt o (show 4096 > 0 by decide)
        simp only [List.length_take]
        omega
      · by_cases hs : bytes.length ≤ 4096 - o % 4096
        · rw [List.drop_eq_nil_of_le hs, areaParts_nil] at hrest
          simp at hrest
        · have ih := areaParts_within n _ _ p hrest
          rw [List.length_drop] at ih
          omega

theorem rangeFrom_length : ∀ a n : Nat, (rangeFrom a n).length = n
  | _, 0 => rfl
  | a, n + 1 => by simp [rangeFrom, rangeFrom_length]

/-- One part of a store in a table's area: the bytes of a frame, where the area has it. -/
def storeAreaPart (keep : Bool) (t k : Nat) (p : Nat × List Byte) (d : Dev) : Dev :=
  match d.areaAddr t k p.1 with
  | none => d
  | some a => memLand 1 a (p.2.zip ((rangeFrom a p.2.length).map (fun y => keep && look false d.mem.poison (y / 64)))) d

theorem storeArea_eq (keep : Bool) (t k o : Nat) (bytes : List Byte) (d : Dev) :
    storeArea keep t k o bytes d = forEach (storeAreaPart keep t k) (areaParts bytes.length o bytes) d := rfl

theorem storeAreaPart_frame (keep : Bool) (t k : Nat) (p : Nat × List Byte) (d : Dev) :
    (storeAreaPart keep t k p d).fe = d.fe ∧ (storeAreaPart keep t k p d).embed = d.embed ∧
    (storeAreaPart keep t k p d).fabric = d.fabric := by
  unfold storeAreaPart
  split
  · exact ⟨rfl, rfl, rfl⟩
  · exact memLand_frame d 1 _ _

/-- A store in a table's area changes the stacks alone, beside counters and events. -/
theorem storeArea_frame (keep : Bool) (t k o : Nat) (bytes : List Byte) (d : Dev) :
    (storeArea keep t k o bytes d).fe = d.fe ∧ (storeArea keep t k o bytes d).embed = d.embed ∧
    (storeArea keep t k o bytes d).fabric = d.fabric := by
  refine ⟨?_, ?_, ?_⟩
  · exact forEach_same (g := fun e => e.fe) (fun p e => (storeAreaPart_frame keep t k p e).1) _ _
  · exact forEach_same (g := fun e => e.embed) (fun p e => (storeAreaPart_frame keep t k p e).2.1) _ _
  · exact forEach_same (g := fun e => e.fabric) (fun p e => (storeAreaPart_frame keep t k p e).2.2) _ _

theorem storeAreaPart_byte_other {keep : Bool} {t k a : Nat} {p : Nat × List Byte} {d : Dev} (h : OutsideLog a)
    (hp : p.1 % 4096 + p.2.length ≤ 4096) (ha : ∀ i, i < p.2.length → d.areaAddr t k (p.1 + i) ≠ some a) :
    look 0 (storeAreaPart keep t k p d).mem.cells a = look 0 d.mem.cells a := by
  unfold storeAreaPart
  split
  · rfl
  · rename_i b hb
    refine memLand_byte_other d 1 b _ h ?_
    rw [List.length_zip, List.length_map, rangeFrom_length, Nat.min_self]
    refine Decidable.byContradiction fun hin => ?_
    have hi : a - b < p.2.length := by omega
    refine ha (a - b) hi ?_
    rw [areaAddr_add hb (by omega), show b + (a - b) = a by omega]

/-- A store in a table's area changes the bytes at its offsets and the log of memory errors, and no other byte. -/
theorem storeArea_byte_other {keep : Bool} {t k o a : Nat} {bytes : List Byte} {d : Dev} (h : OutsideLog a)
    (ha : ∀ i, i < bytes.length → d.areaAddr t k (o + i) ≠ some a) :
    look 0 (storeArea keep t k o bytes d).mem.cells a = look 0 d.mem.cells a := by
  rw [storeArea_eq]
  refine (forEach_keeps_mem (P := fun e => e.embed = d.embed ∧ look 0 e.mem.cells a = look 0 d.mem.cells a)
    _ d (fun p hp e he => ?_) ⟨rfl, rfl⟩).2
  obtain ⟨hembed, hcell⟩ := he
  obtain ⟨hlo, hhi, hframe⟩ := areaParts_within _ _ _ p hp
  refine ⟨(storeAreaPart_frame keep t k p e).2.1.trans hembed,
    (storeAreaPart_byte_other h hframe fun i hi => ?_).trans hcell⟩
  rw [areaAddr_congr (congrArg Table.areas (congrFun (table_congr (congrArg Embed.tables hembed)) t)),
    show p.1 + i = o + (p.1 - o + i) by omega]
  exact ha _ (by omega)

end Sys2Proof.Machine
end

section
/-! Proofs: what the Badger engines' operations on one table leave unchanged, and what serving a held request can do (R215 to R228). -/
namespace Sys2Proof.Machine
open Sys2Proof

/-! ## Units that a gather passes through -/

theorem enqueueFlit_frame (d : Dev) (n : Nat) (f : Flit) :
    (enqueueFlit n f d).fe = d.fe ∧ (enqueueFlit n f d).mem = d.mem ∧ (enqueueFlit n f d).embed = d.embed ∧
    (enqueueFlit n f d).fabric.groups = d.fabric.groups ∧ (enqueueFlit n f d).fabric.cfg = d.fabric.cfg := by
  unfold enqueueFlit
  split
  · simp only [putFlit, bump_frame, modLink_frame, and_self]
  · simp only [waitFlit, bump_frame, modLink_frame, and_self]

/-- A flit that is sent reaches links, counters and outputs alone. -/
theorem sendFlit_frame (d : Dev) (dest type : Nat) (cls : Bool) (poison target : Nat) (payload : List Byte) (key : Nat) :
    (sendFlit dest type cls poison target payload key d).fe = d.fe ∧
    (sendFlit dest type cls poison target payload key d).mem = d.mem ∧
    (sendFlit dest type cls poison target payload key d).embed = d.embed ∧
    (sendFlit dest type cls poison target payload key d).fabric.groups = d.fabric.groups ∧
    (sendFlit dest type cls poison target payload key d).fabric.cfg = d.fabric.cfg := by
  unfold sendFlit routeFlit
  dsimp only
  split
  · simp only [bump_frame, and_self]
  · split
    · split <;> simp only [bump_frame, enqueueFlit_frame, and_self]
    · split <;> simp only [bump_frame, enqueueFlit_frame, and_self]

theorem sendNote_frame (d : Dev) (m kind status t : Nat) (scatter : Bool) (j : Nat × U32) :
    (sendNote m kind status t scatter j d).fe = d.fe ∧ (sendNote m kind status t scatter j d).mem = d.mem ∧
    (sendNote m kind status t scatter j d).embed = d.embed ∧
    (sendNote m kind status t scatter j d).fabric.groups = d.fabric.groups ∧
    (sendNote m kind status t scatter j d).fabric.cfg = d.fabric.cfg := sendFlit_frame d _ _ _ _ _ _ _

/-- A row's bytes reach a core or the links. -/
theorem deliverRow_frame (d : Dev) (t dest : Nat) (owner : Option (Nat × U32)) (data : List (Byte × Bool)) :
    (deliverRow t dest owner data d).fe = d.fe ∧ (deliverRow t dest owner data d).mem = d.mem ∧
    (deliverRow t dest owner data d).embed = d.embed ∧
    (deliverRow t dest owner data d).fabric.groups = d.fabric.groups ∧
    (deliverRow t dest owner data d).fabric.cfg = d.fabric.cfg := by
  unfold deliverRow
  dsimp only
  split
  · split <;> simp only [modCore_frame, and_self]
  · refine ⟨?_, ?_, ?_, ?_, ?_⟩
    · exact forEach_same (g := fun e => e.fe) (fun _ e => by simp only [sendFlit_frame]) _ _
    · exact forEach_same (g := fun e => e.mem) (fun _ e => by simp only [sendFlit_frame]) _ _
    · exact forEach_same (g := fun e => e.embed) (fun _ e => by simp only [sendFlit_frame]) _ _
    · exact forEach_same (g := fun e => e.fabric.groups) (fun _ e => by simp only [sendFlit_frame]) _ _
    · exact forEach_same (g := fun e => e.fabric.cfg) (fun _ e => by simp only [sendFlit_frame]) _ _

theorem moveBytes_frame (d : Dev) (k n : Nat) :
    (moveBytes k n d).fe = d.fe ∧ (moveBytes k n d).mem = d.mem ∧ (moveBytes k n d).embed = d.embed ∧
    (moveBytes k n d).fabric = d.fabric := by simp only [moveBytes, bump_frame, and_self]

theorem countPoisonReads_frame (d : Dev) (a n : Nat) :
    (countPoisonReads a n d).fe = d.fe ∧ (countPoisonReads a n d).mem = d.mem ∧ (countPoisonReads a n d).embed = d.embed ∧
    (countPoisonReads a n d).fabric = d.fabric := by
  refine ⟨?_, ?_, ?_, ?_⟩
  · exact forEach_same (g := fun e => e.fe) (fun _ e => by split <;> simp only [bump_frame]) _ _
  · exact forEach_same (g := fun e => e.mem) (fun _ e => by split <;> simp only [bump_frame]) _ _
  · exact forEach_same (g := fun e => e.embed) (fun _ e => by split <;> simp only [bump_frame]) _ _
  · exact forEach_same (g := fun e => e.fabric) (fun _ e => by split <;> simp only [bump_frame]) _ _

theorem pickOne_frame {α : Type} (d : Dev) (l : List α) :
    (pickOne l d).2.fe = d.fe ∧ (pickOne l d).2.mem = d.mem ∧ (pickOne l d).2.embed = d.embed ∧
    (pickOne l d).2.fabric = d.fabric := by
  unfold pickOne
  split
  · simp only [and_self]
  · exact ⟨rfl, rfl, rfl, rfl⟩

/-- An access is counted at its engine, and no table changes (R232). -/
theorem serveCount_frame (d : Dev) (k t q : Nat) :
    (serveCount k t q d).fe = d.fe ∧ (serveCount k t q d).mem = d.mem ∧
    (serveCount k t q d).embed.tables = d.embed.tables ∧ (serveCount k t q d).fabric = d.fabric := by
  unfold serveCount
  dsimp only
  split
  · simp only [modEngine_frame, bump_frame, and_self]
  · split
    · simp only [modEngine_frame, bump_frame, and_self]
    · split <;> simp only [modEngine_frame, pickOne_frame, bump_frame, and_self]

/-- A gather that is served reads: front end, stacks, tables and groups stay (R215). -/
theorem serveGather_frame (d : Dev) (t : Nat) (x : TableDesc) (r : Nat) (header : Bool) (dest : Nat)
    (owner : Option (Nat × U32)) :
    (serveGather t x r header dest owner d).fe = d.fe ∧ (serveGather t x r header dest owner d).mem = d.mem ∧
    (serveGather t x r header dest owner d).embed.tables = d.embed.tables ∧
    (serveGather t x r header dest owner d).fabric.groups = d.fabric.groups ∧
    (serveGather t x r header dest owner d).fabric.cfg = d.fabric.cfg := by
  by_cases h : homeChannel t (r / x.rpp) = d.rowChannel t x r
  · simp only [serveGather, if_pos h, deliverRow_frame, countPoisonReads_frame, moveBytes_frame, bump_frame, serveCount_frame,
      and_self]
  · simp only [serveGather, if_neg h, deliverRow_frame, countPoisonReads_frame, moveBytes_frame, bump_frame, serveCount_frame,
      and_self]

/-! ## What stays while requests are served -/

/-- From d to e no queue moved, every pending command is pending, and groups and configuration of the fabric are as before. -/
structure Undisturbed (d e : Dev) : Prop where
  queues : e.fe.queues = d.fe.queues
  pending : ∀ q n i, Pending d q n i → Pending e q n i
  groups : e.fabric.groups = d.fabric.groups
  cfg : e.fabric.cfg = d.fabric.cfg

theorem pending_congr {d e : Dev} (h : e.fe = d.fe) (q n : Nat) (i : U32) : Pending e q n i ↔ Pending d q n i := by
  simp only [Pending, qrun_congr (congrArg FrontEnd.runs h)]

theorem Undisturbed.of_frame {d e : Dev} (hfe : e.fe = d.fe) (hg : e.fabric.groups = d.fabric.groups)
    (hc : e.fabric.cfg = d.fabric.cfg) : Undisturbed d e :=
  ⟨congrArg FrontEnd.queues hfe, fun q n i h => (pending_congr hfe q n i).2 h, hg, hc⟩

theorem Undisturbed.trans {d e f : Dev} (h : Undisturbed d e) (k : Undisturbed e f) : Undisturbed d f :=
  ⟨k.queues.trans h.queues, fun q n i p => k.pending q n i (h.pending q n i p), k.groups.trans h.groups, k.cfg.trans h.cfg⟩

/-- The requests held at a table are gathers. -/
def Table.HoldsGathers (u : Table) : Prop := ∀ g ∈ u.gathers, field g.request 0 1 = 1

/-- From d to e no byte of the stacks changed, and tables only in the gathers that they hold. -/
structure Quiet (d e : Dev) : Prop extends Undisturbed d e where
  cells : e.mem.cells = d.mem.cells
  tables : ∀ m, ∃ gs, (Table.HoldsGathers (d.table m) → ∀ g ∈ gs, field g.request 0 1 = 1) ∧
    e.table m = { d.table m with gathers := gs }

theorem Quiet.of_frame {d e : Dev} (h : Undisturbed d e) (hc : e.mem.cells = d.mem.cells)
    (ht : e.embed.tables = d.embed.tables) : Quiet d e :=
  { h with cells := hc, tables := fun m => ⟨(d.table m).gathers, id, congrFun (table_congr ht) m⟩ }

theorem Quiet.refl (d : Dev) : Quiet d d := .of_frame (.of_frame rfl rfl rfl) rfl rfl

theorem Quiet.trans {d e f : Dev} (h : Quiet d e) (k : Quiet e f) : Quiet d f where
  toUndisturbed := h.toUndisturbed.trans k.toUndisturbed
  cells := k.cells.trans h.cells
  tables m := by
    obtain ⟨gs, hgs, he⟩ := h.tables m
    obtain ⟨gs', hgs', hf⟩ := k.tables m
    refine ⟨gs', fun hd => hgs' ?_, by rw [hf, he]⟩
    rw [he]
    exact hgs hd

/-- From d to e no table but t changed. -/
structure OnTable (t : Nat) (d e : Dev) : Prop extends Undisturbed d e where
  others : ∀ m, m ≠ t → e.table m = d.table m

theorem OnTable.of_frame {t : Nat} {d e : Dev} (hfe : e.fe = d.fe) (hf : e.fabric = d.fabric)
    (ht : e.embed.tables = d.embed.tables) : OnTable t d e :=
  { Undisturbed.of_frame hfe (by rw [hf]) (by rw [hf]) with others := fun m _ => congrFun (table_congr ht) m }

theorem OnTable.trans {t : Nat} {d e f : Dev} (h : OnTable t d e) (k : OnTable t e f) : OnTable t d f :=
  { h.toUndisturbed.trans k.toUndisturbed with others := fun m hm => (k.others m hm).trans (h.others m hm) }

theorem modTable_undisturbed (d : Dev) (t : Nat) (f : Table → Table) : Undisturbed d (modTable t f d) :=
  .of_frame (by simp only [modTable_frame]) (by simp only [modTable_frame]) (by simp only [modTable_frame])

theorem modTable_onTable (d : Dev) (t : Nat) (f : Table → Table) : OnTable t d (modTable t f d) :=
  { modTable_undisturbed d t f with others := fun m hm => modTable_table_other d t f m hm }

theorem storeArea_onTable (d : Dev) (keep : Bool) (t k o : Nat) (bytes : List Byte) :
    OnTable t d (storeArea keep t k o bytes d) :=
  have h := storeArea_frame keep t k o bytes d
  .of_frame h.1 h.2.2 (congrArg Embed.tables h.2.1)

/-! ## Scatters -/

theorem forEach_onTable {α : Type} {t : Nat} {f : α → Dev → Dev} (h : ∀ x d, OnTable t d (f x d)) (l : List α)
    (d : Dev) : OnTable t d (forEach f l d) :=
  forEach_keeps (P := OnTable t d) (fun x e he => he.trans (h x e)) l d (.of_frame rfl rfl rfl)

theorem setStaging_onTable (d : Dev) (t : Nat) (x : TableDesc) (f : List Staged → List Staged) :
    OnTable t d (setStaging t x f d) :=
  ((modTable_onTable d t _).trans (forEach_onTable (fun _ e => storeArea_onTable e _ t _ _ _) _ _)).trans
    (forEach_onTable (fun _ e => storeArea_onTable e _ t _ _ _) _ _)

theorem bump_onTable (d : Dev) (t o n : Nat) : OnTable t d (bump o n d) :=
  .of_frame (by simp only [bump_frame]) (by simp only [bump_frame]) (by simp only [bump_frame])

theorem logScatter_onTable (d : Dev) (t : Nat) (x : TableDesc) (k r : Nat) (vals : List Nat) (request : List Byte)
    (first : Bool) (owner : Option (Nat × U32)) : OnTable t d (logScatter t x k r vals request first owner d).2 := by
  unfold logScatter
  split
  · exact .of_frame rfl rfl rfl
  · dsimp only
    split
    · exact ((modTable_onTable d t _).trans (modTable_onTable _ t _)).trans (storeArea_onTable _ _ t _ _ _)
    · exact ((modTable_onTable d t _).trans (modTable_onTable _ t _)).trans (bump_onTable _ t _ _)

theorem addScatter_onTable (d : Dev) (t : Nat) (x : TableDesc) (r probes : Nat) (vals : List Nat) (request : List Byte)
    (first : Bool) (owner : Option (Nat × U32)) : OnTable t d (addScatter t x r probes vals request first owner d).2 := by
  unfold addScatter
  refine OnTable.trans ?_ (logScatter_onTable _ t x _ r vals request first owner)
  have hs := setStaging_onTable d t x (updateFirst (fun s => s.row = r) (stageAdd x vals))
  refine hs.trans (.of_frame ?_ ?_ ?_) <;>
    simp only [moveBytes_frame, bump_frame, serveCount_frame]

/-- A scatter changes no table but its own. -/
theorem serveScatter_onTable (d : Dev) (t : Nat) (x : TableDesc) (r : Nat) (step : U32) (vals : List Nat)
    (request : List Byte) (owner : Option (Nat × U32)) :
    OnTable t d (serveScatter t x r step vals request owner d).2 := by
  unfold serveScatter
  refine iteInduction (motive := fun y : Nat × Dev => OnTable t d y.2) (fun _ => ?_) (fun _ => ?_)
  · exact bump_onTable d t _ _
  · split
    · exact addScatter_onTable d t x r _ vals request false owner
    · dsimp only
      split
      · exact (modTable_onTable d t _).trans (bump_onTable _ t _ _)
      · exact (setStaging_onTable d t x _).trans (addScatter_onTable _ t x r _ vals request true owner)

/-- A scatter to a table with no open step is a stray: it is counted and nothing else (R216). -/
theorem serveScatter_stray {d : Dev} {t : Nat} (h : (d.table t).step = none) (x : TableDesc) (r : Nat) (step : U32)
    (vals : List Nat) (request : List Byte) (owner : Option (Nat × U32)) :
    serveScatter t x r step vals request owner d = (1, bump (cBadger (d.rowChannel t x r) 6) 1 d) := by
  simp [serveScatter, h]

/-! ## Answers -/

/-- A fact noted of a command leaves every pending command pending. -/
theorem addFact_pending {d : Dev} {q n : Nat} {i : U32} (h : Pending d q n i) (p : Nat) (j : U32) (code : Byte) (detail : Nat) :
    Pending (addFact p j code detail d) q n i := by
  obtain ⟨c, hr, hi, hn, hw, hc⟩ := h
  by_cases hp : q = p
  · subst hp
    by_cases hj : i = j
    · exact ⟨{ c with facts := c.facts ++ [(code, BitVec.ofNat 32 detail)] },
        by simp [addFact, modCmd_running, hr, updateFirst, hi, hj], hi, hn, hw, hc⟩
    · exact ⟨c, by simp [addFact, modCmd_running, hr, updateFirst, hi, hj], hi, hn, hw, hc⟩
  · refine ⟨c, ?_, hi, hn, hw, hc⟩
    rw [addFact, modCmd, modRun_qrun_other _ _ _ _ hp, hr]

theorem addFact_quiet (d : Dev) (p : Nat) (j : U32) (code : Byte) (detail : Nat) : Quiet d (addFact p j code detail d) := by
  have h := modCmd_frame d p j (fun c => { c with facts := c.facts ++ [(code, BitVec.ofNat 32 detail)] })
  obtain ⟨hq, -, hm, he, hf⟩ := h
  exact .of_frame ⟨hq, fun q n i hp => addFact_pending hp p j code detail, congrArg Fabric.groups hf, congrArg Fabric.cfg hf⟩
    (congrArg Memory.cells hm) (congrArg Embed.tables he)

theorem replyTo_quiet (d : Dev) (owner : Option (Nat × U32)) (t : Nat) (scatter : Bool) (status : Nat) :
    Quiet d (replyTo owner t scatter status d) := by
  unfold replyTo
  split
  · exact .refl d
  · split
    · split
      · exact addFact_quiet d _ _ _ _
      · exact .refl d
    · split
      · obtain ⟨hfe, hm, he, hg, hc⟩ := sendNote_frame d _ _ _ _ _ _
        exact .of_frame (.of_frame hfe hg hc) (congrArg Memory.cells hm) (congrArg Embed.tables he)
      · exact .refl d

/-! ## Requests of this module's rows -/

/-- A gather that is served, or held, changes no byte of the stacks (R215, R228). -/
theorem serveRequest_gather_quiet {b : List Byte} (h : field b 0 1 = 1) (d : Dev) (x : TableDesc) (r : Nat)
    (owner : Option (Nat × U32)) : Quiet d (serveRequest b x r owner d) := by
  unfold serveRequest
  dsimp only
  rw [if_pos h]
  split
  · refine { modTable_undisturbed d _ _ with cells := by simp only [modTable_frame], tables := fun m => ?_ }
    rw [modTable_table]
    split
    · rename_i hm
      subst hm
      refine ⟨_, fun hd g hg => ?_, rfl⟩
      rcases List.mem_append.1 hg with hg | hg
      · exact hd g hg
      · rw [List.mem_singleton.1 hg]; exact h
    · exact ⟨_, id, rfl⟩
  · obtain ⟨hfe, hm, ht, hg, hc⟩ := serveGather_frame d (field b 2 2) x r (bitOf (field b 1 1) 0) (field b 0x10 8) owner
    exact .of_frame (.of_frame hfe hg hc) (congrArg Memory.cells hm) ht

/-- No staged row, no undo log and no open step. -/
def Table.StepClosed (u : Table) : Prop := u.staging = [] ∧ u.undo = [] ∧ u.step = none

/-- From d to e every table whose step is closed stays so. -/
structure KeepsClosed (d e : Dev) : Prop extends Undisturbed d e where
  closed : ∀ m, (d.table m).StepClosed → (e.table m).StepClosed

theorem KeepsClosed.trans {d e f : Dev} (h : KeepsClosed d e) (k : KeepsClosed e f) : KeepsClosed d f :=
  { h.toUndisturbed.trans k.toUndisturbed with closed := fun m hm => k.closed m (h.closed m hm) }

theorem Quiet.keepsClosed {d e : Dev} (h : Quiet d e) : KeepsClosed d e :=
  { h.toUndisturbed with closed := fun m hm => by obtain ⟨gs, -, he⟩ := h.tables m; rw [he]; exact hm }

/-- Whatever a request asks for, it opens no step and stages no row of a closed one (R216). -/
theorem serveRequest_keepsClosed (d : Dev) (b : List Byte) (x : TableDesc) (r : Nat) (owner : Option (Nat × U32)) :
    KeepsClosed d (serveRequest b x r owner d) := by
  by_cases h : field b 0 1 = 1
  · exact (serveRequest_gather_quiet h d x r owner).keepsClosed
  · unfold serveRequest
    dsimp only
    rw [if_neg h]
    refine KeepsClosed.trans ?_ (replyTo_quiet _ _ _ _ _).keepsClosed
    by_cases hs : (d.table (field b 2 2)).step = none
    · rw [serveScatter_stray hs]
      have ho := bump_onTable d (field b 2 2) (cBadger (d.rowChannel (field b 2 2) x r) 6) 1
      exact (Quiet.of_frame ho.toUndisturbed (by simp only [bump_frame]) (by simp only [bump_frame])).keepsClosed
    · have ho := serveScatter_onTable d (field b 2 2) x r (BitVec.ofNat 32 (field b 4 4))
        (gradValues (bitOf (field b 1 1) 1) x.width.toNat (b.drop 32)) b owner
      refine { ho.toUndisturbed with closed := fun m hm => ?_ }
      rw [ho.others m (fun e => hs (e ▸ hm.2.2))]
      exact hm

/-! ## Held requests -/

/-- One held request is served, where its row is one of this module's. -/
def serveHeldOne (t : Nat) (g : HeldGather) (d : Dev) : Dev :=
  match (d.table t).desc with
  | none => d
  | some x => match x.rowOf (field g.request 8 5) with
    | none => d
    | some r => serveRequest g.request x (d.ownerRow x r).2 g.owner d

theorem serveHeld_eq (t : Nat) (d : Dev) :
    serveHeld t d = forEach (serveHeldOne t) (d.table t).gathers (modTable t (fun u => { u with gathers := [] }) d) := rfl

/-- No request is held any longer. -/
theorem dropHeld_quiet (d : Dev) (t : Nat) : Quiet d (modTable t (fun u => { u with gathers := [] }) d) := by
  refine { modTable_undisturbed d t _ with cells := by simp only [modTable_frame], tables := fun m => ?_ }
  rw [modTable_table]
  split
  · rename_i hm
    subst hm
    exact ⟨[], fun _ g hg => absurd hg List.not_mem_nil, rfl⟩
  · exact ⟨_, id, rfl⟩

/-- A property of pairs of devices that the service of each held request has holds of them all. -/
theorem serveHeldOne_cases {P : Dev → Dev → Prop} {g : HeldGather} (hrefl : ∀ d, P d d)
    (hserve : ∀ x r d, P d (serveRequest g.request x r g.owner d)) (t : Nat) (d : Dev) : P d (serveHeldOne t g d) := by
  unfold serveHeldOne
  split
  · exact hrefl d
  · split
    · exact hrefl d
    · exact hserve _ _ d

/-- Serving what a table holds reopens no step. -/
theorem serveHeld_keepsClosed (t : Nat) (d : Dev) : KeepsClosed d (serveHeld t d) := by
  rw [serveHeld_eq]
  refine (dropHeld_quiet d t).keepsClosed.trans
    (forEach_keeps (P := KeepsClosed _) (fun g e he => he.trans ?_) _ _ (Quiet.refl _).keepsClosed)
  exact serveHeldOne_cases (fun d => (Quiet.refl d).keepsClosed)
    (fun x r d => serveRequest_keepsClosed d g.request x r g.owner) t e

/-- Serving held gathers changes no byte of the stacks. -/
theorem serveHeld_quiet {t : Nat} {d : Dev} (h : (d.table t).HoldsGathers) : Quiet d (serveHeld t d) := by
  rw [serveHeld_eq]
  refine (dropHeld_quiet d t).trans (forEach_keeps_mem (P := Quiet _) _ _ (fun g hg e he => ?_) (.refl _))
  exact he.trans (serveHeldOne_cases Quiet.refl (fun x r d => serveRequest_gather_quiet (h g hg) d x r g.owner) t e)

end Sys2Proof.Machine
end

section
/-! Proofs: EMB_STEP ABANDON (R227). -/
namespace Sys2Proof.Machine
open Sys2Proof Sys2Proof.Safety

/-! ## Judging the command -/

theorem entryFails_congr {d e : Dev} (ht : e.table = d.table) (hdet : e.mode.det = d.mode.det) :
    entryFails e = entryFails d := by
  funext op step entry
  simp only [entryFails, ht, hdet]

/-- An EMB_STEP is judged by the stacks, the tables and the mode alone: starting it does not change its verdict. -/
theorem stepBlock_startHead (d : Dev) (q : Nat) (b : List Byte) (n : Nat) :
    stepEntries (startHead q b n d) = stepEntries d ∧ blockFails (startHead q b n d) = blockFails d ∧
    (startHead q b n d).poisonedIn = d.poisonedIn := by
  obtain ⟨-, hembed, -, -, hdet⟩ := startHead_frame d q b n
  refine ⟨?_, ?_, ?_⟩
  · funext b'
    simp only [stepEntries, Dev.bytesAt, startHead_frame]
  · funext op step es
    simp only [blockFails, entryFails_congr (table_congr (congrArg Embed.tables hembed)) hdet]
  · funext a m
    simp only [Dev.poisonedIn, startHead_frame]

/-- A sound EMB_STEP acts on its tables. -/
theorem embCmd_sound {op q : Nat} {c : Cmd} {d : Dev} (act : Nat → Cmd → U64 → List StepEntry → Dev → Dev)
    (hf : embFault c.bytes = none) (hp : d.poisonedIn (field c.bytes 0x18 8) (16 * field c.bytes 0x20 2) = 0)
    (hb : blockFails d op (BitVec.ofNat 64 (field c.bytes 0x10 8)) (stepEntries d c.bytes) = false) :
    embCmd op act q c d = act q c (BitVec.ofNat 64 (field c.bytes 0x10 8)) ((stepEntries d c.bytes).map stepEntry) d := by
  simp [embCmd, hf, hp, hb]

/-! ## Abandoning the step of one table -/

/-- Freeing every staging slot writes the ROW field of each and nothing else (R218). -/
theorem setStaging_none (t : Nat) (x : TableDesc) (d : Dev) :
    setStaging t x (fun _ => []) d =
      forEach (fun (s : Staged) d => storeArea true t s.channel (d.slotAt t x s.channel s.slot) (zeros 8) d)
        (d.table t).staging (modTable t (fun u => { u with staging := [] }) d) := by
  simp only [setStaging, List.any_nil, Bool.not_false, List.filter_nil, forEach_nil]
  rw [List.filter_eq_self.2 fun _ _ => rfl]

theorem setStaging_none_table (t : Nat) (x : TableDesc) (d : Dev) :
    (setStaging t x (fun _ => []) d).table t = { d.table t with staging := [] } := by
  rw [setStaging_none]
  refine (forEach_same (g := fun e => e.table t) (fun s e => ?_) _ _).trans (modTable_table_same d t _)
  exact congrFun (table_congr (congrArg Embed.tables (storeArea_frame true t _ _ _ e).2.1)) t

theorem abandonStep_table (t : Nat) (d : Dev) : (abandonStep t d).table t = closeStep (d.table t) := by
  unfold abandonStep
  dsimp only
  rw [modTable_table_same]
  split
  · rfl
  · rw [setStaging_none_table]; rfl

theorem abandonStep_onTable (t : Nat) (d : Dev) : OnTable t d (abandonStep t d) := by
  unfold abandonStep
  dsimp only
  split
  · exact modTable_onTable d t closeStep
  · exact (setStaging_onTable d t _ _).trans (modTable_onTable _ t closeStep)

theorem abandonStep_closed (t : Nat) (d : Dev) : ((abandonStep t d).table t).StepClosed := by
  rw [abandonStep_table]; exact ⟨rfl, rfl, rfl⟩

theorem abandonStep_keepsClosed (t : Nat) (d : Dev) : KeepsClosed d (abandonStep t d) := by
  refine { (abandonStep_onTable t d).toUndisturbed with closed := fun m hm => ?_ }
  by_cases h : m = t
  · subst h; exact abandonStep_closed m d
  · rw [(abandonStep_onTable t d).others m h]; exact hm

/-! ## Bytes that freed slots do not hold -/

/-- Table m holds gathers alone, and the address a is in no ROW field of a staging slot that it uses. -/
def Spared (a : Nat) (d : Dev) (m : Nat) : Prop :=
  (d.table m).HoldsGathers ∧ ∀ x, (d.table m).desc = some x → ∀ u ∈ (d.table m).staging, ∀ o, o < 8 →
    d.areaAddr m u.channel (d.slotAt m x u.channel u.slot + o) ≠ some a

/-- Where a staging slot lies follows from the groups and the configuration of the fabric. -/
theorem slotAt_congr {d e : Dev} (h : Undisturbed d e) : e.slotAt = d.slotAt := by
  funext t x k slot
  simp only [Dev.slotAt, Dev.localPages, Dev.localRows, Dev.ranks, Dev.rankOf, group_congr h.groups, h.cfg]

theorem Spared.of_quiet {a m : Nat} {d e : Dev} (h : Quiet d e) (hs : Spared a d m) : Spared a e m := by
  obtain ⟨hg, ha⟩ := hs
  obtain ⟨gs, hgs, he⟩ := h.tables m
  refine ⟨by rw [he]; exact hgs hg, fun x hx u hu o ho => ?_⟩
  rw [he] at hx hu
  rw [slotAt_congr h.toUndisturbed, areaAddr_congr (d := d) (by rw [he])]
  exact ha x hx u hu o ho

theorem Spared.abandonStep {a m : Nat} {d : Dev} (hs : Spared a d m) (t : Nat) : Spared a (abandonStep t d) m := by
  have hon := abandonStep_onTable t d
  by_cases h : m = t
  · subst h
    refine ⟨?_, fun x _ u hu => ?_⟩
    · rw [abandonStep_table]; exact hs.1
    · rw [abandonStep_table] at hu; exact absurd hu List.not_mem_nil
  · have he := hon.others m h
    refine ⟨by rw [he]; exact hs.1, fun x hx u hu o ho => ?_⟩
    rw [he] at hx hu
    rw [slotAt_congr hon.toUndisturbed, areaAddr_congr (d := d) (by rw [he])]
    exact hs.2 x hx u hu o ho

/-- Abandoning a table's step writes the ROW fields of its slots and the log of memory errors, and no other byte (R227). -/
theorem abandonStep_byte_other {a t : Nat} {d : Dev} (h : OutsideLog a) (hs : Spared a d t) :
    look 0 (abandonStep t d).mem.cells a = look 0 d.mem.cells a := by
  unfold Machine.abandonStep
  dsimp only
  simp only [modTable_frame]
  split
  · rfl
  · rename_i x hx
    rw [setStaging_none]
    refine (forEach_keeps_mem (P := fun e => OnTable t d e ∧ (e.table t).areas = (d.table t).areas ∧
      look 0 e.mem.cells a = look 0 d.mem.cells a) _ _ (fun u hu e he => ?_) ?_).2.2
    · obtain ⟨hon, hareas, hcell⟩ := he
      have hsame := table_congr (congrArg Embed.tables (storeArea_frame true t u.channel (e.slotAt t x u.channel u.slot) (zeros 8) e).2.1)
      refine ⟨hon.trans (storeArea_onTable e _ t _ _ _), by rw [hsame]; exact hareas,
        (storeArea_byte_other h fun o ho => ?_).trans hcell⟩
      rw [slotAt_congr hon.toUndisturbed, areaAddr_congr hareas]
      exact hs.2 x hx u hu o (by simpa [zeros] using ho)
    · exact ⟨modTable_onTable d t _, by simp, by simp only [modTable_frame]⟩

/-! ## Abandoning the steps of the listed tables -/

/-- ABANDON at one listed table: its step is closed, and the gathers held at it are served. -/
def abandonEntry (e : StepEntry) (d : Dev) : Dev := serveHeld e.table (abandonStep e.table d)

theorem abandonTables_eq (q : Nat) (c : Cmd) (step : U64) (es : List StepEntry) (d : Dev) :
    abandonTables q c step es d = finishCmd q c.index (forEach abandonEntry es d) := rfl

theorem abandonEntry_keepsClosed (e : StepEntry) (d : Dev) : KeepsClosed d (abandonEntry e d) :=
  (abandonStep_keepsClosed e.table d).trans (serveHeld_keepsClosed e.table _)

theorem abandonEntries_keepsClosed (es : List StepEntry) (d : Dev) : KeepsClosed d (forEach abandonEntry es d) :=
  forEach_keeps (P := KeepsClosed d) (fun e f hf => hf.trans (abandonEntry_keepsClosed e f)) es d (Quiet.refl d).keepsClosed

/-- Every listed table's step is closed, whatever was held at the tables. -/
theorem abandonEntries_closed : ∀ (es : List StepEntry) (d : Dev), ∀ e ∈ es,
    ((forEach abandonEntry es d).table e.table).StepClosed
  | [], _, e, he => absurd he List.not_mem_nil
  | e' :: es, d, e, he => by
    rcases List.mem_cons.1 he with rfl | he
    · exact (abandonEntries_keepsClosed es _).closed _ ((serveHeld_keepsClosed e.table _).closed _ (abandonStep_closed e.table d))
    · exact abandonEntries_closed es _ e he

/-- A byte outside the log and the listed tables' ROW fields stays while the tables hold gathers alone: no row changes (R227). -/
theorem abandonEntries_byte_other {a : Nat} {es : List StepEntry} {d : Dev} (h : OutsideLog a)
    (hs : ∀ e ∈ es, Spared a d e.table) : look 0 (forEach abandonEntry es d).mem.cells a = look 0 d.mem.cells a := by
  refine (forEach_keeps_mem (P := fun f => (∀ e ∈ es, Spared a f e.table) ∧ look 0 f.mem.cells a = look 0 d.mem.cells a)
    es d (fun e he f hf => ?_) ⟨hs, rfl⟩).2
  obtain ⟨hspared, hcell⟩ := hf
  have hquiet := serveHeld_quiet ((hspared e he).abandonStep e.table).1
  refine ⟨fun e' he' => ((hspared e' he').abandonStep e.table).of_quiet hquiet, ?_⟩
  rw [abandonEntry, hquiet.cells, abandonStep_byte_other h (hspared e he), hcell]

/-! ## The command -/

/-- The device with the head of bytes b started on queue q and the step of each listed table abandoned. -/
def abandoned (d : Dev) (q : Nat) (b : List Byte) : Dev :=
  forEach abandonEntry ((stepEntries d b).map stepEntry) (startHead q b 1 d)

theorem abandoned_undisturbed (d : Dev) (q : Nat) (b : List Byte) : Undisturbed (startHead q b 1 d) (abandoned d q b) :=
  (abandonEntries_keepsClosed _ _).toUndisturbed

/-- The listed tables are abandoned as they were before the command started. -/
theorem abandoned_byte_other {a : Nat} {d : Dev} (q : Nat) {b : List Byte} (h : OutsideLog a)
    (hs : ∀ e ∈ stepEntries d b, Spared a d (stepEntry e).table) :
    look 0 (abandoned d q b).mem.cells a = look 0 d.mem.cells a := by
  obtain ⟨hmem, hembed, hfabric, -, -⟩ := startHead_frame d q b 1
  refine (abandonEntries_byte_other h fun e he => ?_).trans (by rw [hmem])
  obtain ⟨x, hx, rfl⟩ := List.mem_map.1 he
  simpa only [Spared, Dev.slotAt, Dev.localPages, Dev.localRows, Dev.ranks, Dev.rankOf, Dev.areaAddr,
    table_congr (congrArg Embed.tables hembed), group_congr (congrArg Fabric.groups hfabric), hfabric] using hs x hx

/-- ABANDON of a sound step block acts on its tables, and the command completes. -/
theorem exec_embStepAbandon {s : State} {q : QueueId} {b : List Byte} (hr : ReadyHead s.dev q.toNat 5 b 1)
    (ha : Alone s.dev q.toNat 1) (hop : byteAt b 0 = 4) (hab : field b 0x22 1 = 2) (hf : embFault b = none)
    (hp : s.dev.poisonedIn (field b 0x18 8) (16 * field b 0x20 2) = 0)
    (hb : blockFails s.dev 2 (BitVec.ofNat 64 (field b 0x10 8)) (stepEntries s.dev b) = false) :
    exec (.embStepAbandon q) s =
      .next { s with dev := finishCmd q.toNat (s.dev.queue q.toNat).started (abandoned s.dev q.toNat b) } ∧
    Completed s.dev (finishCmd q.toNat (s.dev.queue q.toNat).started (abandoned s.dev q.toNat b)) q.toNat 1 := by
  obtain ⟨hentries, hblock, hpois⟩ := stepBlock_startHead s.dev q.toNat b 1
  have hkept := abandoned_undisturbed s.dev q.toNat b
  obtain ⟨hdone, hcompleted⟩ := completed_of_finishCmd hr ha (congrFun (queue_congr hkept.queues) _)
    (hkept.pending _ _ _ (startHead_pending ha.1))
  have hcmd : embCmd 2 abandonTables q.toNat (newCmd s.dev q.toNat b 1) (startHead q.toNat b 1 s.dev) =
      finishCmd q.toNat (s.dev.queue q.toNat).started (abandoned s.dev q.toNat b) := by
    rw [embCmd_sound abandonTables hf (by rw [hpois]; exact hp) (by rw [hblock, hentries]; exact hb), abandonTables_eq, hentries]
    rfl
  have hstart := startKind_ready (embCmd 2 abandonTables q.toNat) hr (kind := isEmb 2)
    (by simp [isEmb, isOpcode, hop, hab])
  refine ⟨?_, hcompleted⟩
  rw [show exec (.embStepAbandon q) s = lift (startKind q.toNat (isEmb 2) 5 (embCmd 2 abandonTables q.toNat)) s from rfl,
    lift_eq, hstart, hcmd, hdone]

/-- Settles O45: the step of each listed table is closed by the command and reopened by nothing that was held; a byte that
changes is one of a freed slot's ROW field, of the log of memory errors or of the completion record. -/
theorem abandonedStepsChangeNoRow : Obligations.AbandonedStepsChangeNoRow := by
  unfold Obligations.AbandonedStepsChangeNoRow
  intro s q b hr ha hop hab hf hp hb
  obtain ⟨hexec, hcompleted⟩ := exec_embStepAbandon hr ha hop hab hf hp hb
  have hkept := abandoned_undisturbed s.dev q.toNat b
  have hqueue := congrFun (queue_congr hkept.queues) q.toNat
  obtain ⟨hactive, havail⟩ := startHead_active hr ha
  obtain ⟨-, -, -, hembed, hbyte⟩ := finishCmd_pending (hkept.pending _ _ _ (startHead_pending ha.1))
    (by rw [hqueue]; exact hactive) (by rw [hqueue]; exact havail)
  refine ⟨_, hexec, hcompleted, fun e he => ?_, fun hgathers a hrecord hslots hlog => ?_⟩
  · rw [table_congr (congrArg Embed.tables hembed)]
    exact abandonEntries_closed _ _ _ (List.mem_map_of_mem he)
  · refine (hbyte a ?_).trans (abandoned_byte_other q.toNat hlog fun e he => ⟨hgathers e he, hslots e he⟩)
    rw [hqueue, startHead_queue]
    exact hrecord

end Sys2Proof.Machine
end

section
/-! Proofs: a count of one S32 counter, as the statements tell it (R9, R10). -/
namespace Sys2Proof.Machine
open Sys2Proof Sys2Proof.Safety

/-- A count in an S32 counter other than EVENTS_LOST counts by its class, or not at all after a write of zero (R9, R10). -/
theorem bump_counts_s32 (d : Dev) {o : Nat} (n : Nat) (h : o ≠ cOwl 14) (hc : counterClass o = 2) :
    Counts d (bump o n d) o n := by
  unfold Counts
  split
  · next hz =>
    have hcounted : d.counted o n = d.counter o := by simp [Dev.counted, hz]
    have hsticks : d.sticks o n = false := by simp [Dev.sticks, hcounted]
    have hlt : d.counter o < 2 ^ 64 := (look 0 d.counters o).isLt
    simp only [bump, hsticks, hcounted, Bool.false_eq_true, if_false, setCounter_counter, if_true, Nat.mod_eq_of_lt hlt]
  · next hz => rw [bump_counter_s32 d o n h hz hc, hc]; rfl

/-- A count stays beside everything but counters, events and causes of interrupts. -/
theorem beside_bump (d e : Dev) (o n : Nat) : beside d (bump o n e) = beside d e := by
  simp only [beside, bump_frame]

end Sys2Proof.Machine
end

section
/-! Proofs: a write of EVENT_CONSUMER (R489). -/
namespace Sys2Proof.Machine
open Sys2Proof Sys2Proof.Safety

theorem readReg_eventConsumer (b : Bounds) (d : Dev) : readReg b d 0x5018 = d.events.consumer.toNat := rfl

/-- A consumer that stays between the one in force and EVENT_PRODUCER is taken. -/
theorem writeConsumer_forward {v : U32} {d : Dev}
    (h : (d.events.producer - v).toNat ≤ (d.events.producer - d.events.consumer).toNat) :
    writeConsumer v d = { d with events := { d.events with consumer := v } } := if_pos h

/-- The refusal of a consumer: BAD_CONSUMER is set, as the Den cycle remembers. -/
def refuseConsumer (d : Dev) : Dev := hwSet 0x5020 3 { d with events := { d.events with badConsumer := true } }

@[simp] theorem refuseConsumer_events (d : Dev) :
    (refuseConsumer d).events = { d.events with badConsumer := true } := rfl

theorem beside_refuseConsumer (d : Dev) : beside d (refuseConsumer d) = d := rfl

/-- Any other consumer is refused and counts in BAD_ACCESS. -/
theorem writeConsumer_other {v : U32} {d : Dev}
    (h : ¬ (d.events.producer - v).toNat ≤ (d.events.producer - d.events.consumer).toNat) :
    writeConsumer v d = bump (cOwl 11) 1 (refuseConsumer d) := if_neg h

theorem refuseConsumer_counts (d : Dev) : Counts d (bump (cOwl 11) 1 (refuseConsumer d)) (cOwl 11) 1 :=
  bump_counts_s32 (refuseConsumer d) 1 (by decide) (by decide)

/-- Settles O7: the write is taken when the consumer moves forward, else it is a refusal followed by one count. -/
theorem eventConsumerMovesOnlyForward : Obligations.EventConsumerMovesOnlyForward := by
  unfold Obligations.EventConsumerMovesOnlyForward
  intro s v
  have hexec : exec (.eventConsumerWrite v) s = .next { s with dev := writeConsumer (v.setWidth 32) s.dev } := rfl
  refine ⟨_, hexec, ?_⟩
  dsimp only
  by_cases h : (s.dev.events.producer - v.setWidth 32).toNat ≤ (s.dev.events.producer - s.dev.events.consumer).toNat
  · rw [if_pos h, writeConsumer_forward h, readReg_eventConsumer]
    exact ⟨rfl, BitVec.toNat_setWidth 32 v, rfl⟩
  · rw [if_neg h, writeConsumer_other h, beside_bump, beside_refuseConsumer]
    simp only [readReg_eventConsumer, bump_frame, refuseConsumer_events, refuseConsumer_counts, and_self]

end Sys2Proof.Machine
end

section
/-! Proofs: a write of EVENT_CTRL, and the registers that ENABLE locks (R487, R488). -/
namespace Sys2Proof.Machine
open Sys2Proof Sys2Proof.Safety

/-! ## What a write of EVENT_CTRL leaves in its fields -/

/-- The device with CLASS_EN and LOG2 as a write of EVENT_CTRL leaves them, before it acts on ENABLE. -/
def takeCtl (v : Nat) (d : Dev) : Dev :=
  { d with events := { d.events with
      classEn := BitVec.ofNat 9 (bits v 24 16),
      log2 := if d.events.enable = false ∧ 6 ≤ bits v 5 1 ∧ bits v 5 1 ≤ 16 then BitVec.ofNat 5 (bits v 5 1) else d.events.log2 } }

@[simp] theorem takeCtl_enable (v : Nat) (d : Dev) : (takeCtl v d).events.enable = d.events.enable := rfl

/-- LOG2 is locked while ENABLE is set. -/
theorem takeCtl_enabled {d : Dev} (h : d.events.enable = true) (v : Nat) :
    takeCtl v d = { d with events := { d.events with classEn := BitVec.ofNat 9 (bits v 24 16) } } := by
  simp [takeCtl, h]

/-- With ENABLE clear LOG2 takes a value of 6 to 16. -/
theorem takeCtl_log2 {d : Dev} (h : d.events.enable = false) (v : Nat) :
    (takeCtl v d).events.log2 = if 6 ≤ bits v 5 1 ∧ bits v 5 1 ≤ 16 then BitVec.ofNat 5 (bits v 5 1) else d.events.log2 := by
  simp [takeCtl, h]

theorem writeEventCtl_set {v : Nat} (h : bitOf v 0 = true) (d : Dev) : writeEventCtl v d = startRing (takeCtl v d) :=
  if_pos h

theorem writeEventCtl_clear {v : Nat} (h : bitOf v 0 = false) (d : Dev) :
    writeEventCtl v d = { takeCtl v d with events := { (takeCtl v d).events with enable := false } } :=
  if_neg (Bool.eq_false_iff.1 h)

/-! ## Setting ENABLE -/

/-- EVENT_BASE is aligned, and the whole ring lies in one registered host window. -/
def Dev.RingFits (d : Dev) : Prop :=
  d.events.base.toNat % 4096 = 0 ∧ d.inWindow d.events.base.toNat (64 * 2 ^ d.events.log2.toNat) = true

theorem startRing_enabled {d : Dev} (h : d.events.enable = true) : startRing d = d := if_pos h

theorem startRing_fits {d : Dev} (h : d.events.enable = false) (hf : d.RingFits) :
    startRing d = { d with events := { d.events with enable := true, producer := 0, consumer := 0 } } :=
  (if_neg (Bool.eq_false_iff.1 h)).trans (if_pos hf)

theorem startRing_refused {d : Dev} (h : d.events.enable = false) (hf : ¬ d.RingFits) :
    startRing d = hwSet 0x5020 2 { d with events := { d.events with badBase := true } } :=
  (if_neg (Bool.eq_false_iff.1 h)).trans (if_neg hf)

/-- A write of EVENT_CTRL to an enabled ring changes CLASS_EN alone while it keeps ENABLE set. -/
theorem writeEventCtl_set_enabled {v : Nat} {d : Dev} (hv : bitOf v 0 = true) (h : d.events.enable = true) :
    writeEventCtl v d = { d with events := { d.events with classEn := BitVec.ofNat 9 (bits v 24 16) } } := by
  rw [writeEventCtl_set hv, startRing_enabled ((takeCtl_enable v d).trans h), takeCtl_enabled h]

/-- No write of EVENT_CTRL changes the LOG2 of an enabled ring. -/
theorem writeEventCtl_log2_enabled {d : Dev} (h : d.events.enable = true) (v : Nat) :
    (writeEventCtl v d).events.log2 = d.events.log2 := by
  cases hv : bitOf v 0 with
  | true => rw [writeEventCtl_set_enabled hv h]
  | false => rw [writeEventCtl_clear hv, takeCtl_enabled h]

/-! ## The two commands -/

theorem exec_eventRingEnable {v : U64} (hv : bitOf v.toNat 0 = true) (s : State) :
    exec (.eventRingEnable v) s = .next { s with dev := writeEventCtl v.toNat s.dev } := by
  rw [show exec (.eventRingEnable v) s = lift (guarded (bitOf v.toNat 0) (writeEventCtl v.toNat)) s from rfl, hv, lift_eq,
    guarded_true]

theorem exec_eventRingDisable {v : U64} (hv : bitOf v.toNat 0 = false) (s : State) :
    exec (.eventRingDisable v) s = .next { s with dev := writeEventCtl v.toNat s.dev } := by
  rw [show exec (.eventRingDisable v) s = lift (guarded (!bitOf v.toNat 0) (writeEventCtl v.toNat)) s from rfl, hv, lift_eq,
    Bool.not_false, guarded_true]

/-! ## REGISTER_WRITE in the event block -/

/-- The WP registers lie below 0x3800 (R471). -/
theorem wpOffsets_contains_of_le {o : Nat} (h : 0x3800 ≤ o) : wpOffsets.contains o = false := by
  have hlt : ∀ a ∈ wpOffsets, a < 0x3800 := by decide
  exact Bool.eq_false_iff.2 fun hc => absurd (hlt o (List.contains_iff_mem.1 hc)) (by omega)

/-- A good write at an offset of the event block is a write of its registers; a bit that the block has set in the same
Den cycle is not cleared (R473). -/
theorem exec_registerWrite_events {s : State} {o : BitVec 24} {wide : Bool} {b : Nat} (v : U64) (hden : s.dev.denRuns = true)
    (hgood : goodAccess o.toNat (if wide then 8 else 4) = true) (hb : (regWord o.toNat wide v.toNat).base = b)
    (hlo : 0x5000 ≤ b) (hhi : b < 0x6000) :
    exec (.registerWrite o wide v) s = .next { s with
      dev := writeEvents ⟨b, (regWord o.toNat wide v.toNat).mask, s.dev.clears b (regWord o.toNat wide v.toNat).bits⟩
        ((regWord o.toNat wide v.toNat).over (readReg s.bounds s.dev b)) s.dev } := by
  subst hb
  generalize hw : regWord o.toNat wide v.toNat = w at hlo hhi ⊢
  have hpair : wpOffsets.contains w.base = false := wpOffsets_contains_of_le (by omega)
  have hcomp : wpOffsets.contains (w.base - 0x800) = false := wpOffsets_contains_of_le (by omega)
  have hword : writeWord w s = { s with dev := writeReg w (w.over (readReg s.bounds s.dev w.base)) s.dev } := by
    simp (disch := omega) only [writeWord, hpair, hcomp, Bool.false_eq_true, and_false, if_false, if_neg]
  have hreg (x : Nat) : writeReg w x s.dev = writeEvents ⟨w.base, w.mask, s.dev.clears w.base w.bits⟩ x s.dev := by
    simp (disch := omega) only [writeReg, if_neg, if_pos]
  rw [show exec (.registerWrite o wide v) s = execRegisterWrite o wide v s from rfl]
  simp only [execRegisterWrite, hden, hgood, hw, if_true, Bool.true_eq_false, if_false, hword, hreg]

/-- A write of EVENT_BASE, whole or of one half, is ignored while ENABLE is set. -/
theorem exec_registerWrite_eventBase_enabled {s : State} {o : BitVec 24} {wide : Bool} (v : U64)
    (hden : s.dev.denRuns = true) (h : s.dev.events.enable = true) (ho : o = 0x5000 ∨ (o = 0x5004 ∧ wide = false)) :
    exec (.registerWrite o wide v) s = .next s := by
  obtain ⟨hgood, hb⟩ : goodAccess o.toNat (if wide then 8 else 4) = true ∧ (regWord o.toNat wide v.toNat).base = 0x5000 := by
    rcases ho with rfl | ⟨rfl, rfl⟩
    · cases wide <;> exact ⟨rfl, rfl⟩
    · exact ⟨rfl, rfl⟩
  rw [exec_registerWrite_events v hden hgood hb (by decide) (by decide)]
  simp only [writeEvents, writeEventBase, h, if_true]

/-- A write of EVENT_CTRL as a register does what the write of the register's word does. -/
theorem exec_registerWrite_eventCtl {s : State} (wide : Bool) (v : U64) (hden : s.dev.denRuns = true) :
    exec (.registerWrite 0x5008 wide v) s = .next { s with
      dev := writeEventCtl ((regWord 0x5008 wide v.toNat).over (readReg s.bounds s.dev 0x5008)) s.dev } :=
  exec_registerWrite_events (o := 0x5008) (wide := wide) (b := 0x5008) v hden (by cases wide <;> rfl)
    (by cases wide <;> rfl) (by decide) (by decide)

/-! ## The statement -/

/-- Settles O6: a write that sets ENABLE splits on whether the ring fits; with ENABLE set LOG2 and EVENT_BASE are locked. -/
theorem eventRingEnableTakesEffect : Obligations.EventRingEnableTakesEffect := by
  unfold Obligations.EventRingEnableTakesEffect
  refine ⟨fun s v hv h => ?_, fun s v hv h => ?_, fun s o wide v hden h ho => ?_, fun s wide v hden h => ?_, fun s v hv => ?_⟩
  · refine ⟨_, exec_eventRingEnable hv s, ?_⟩
    dsimp only
    rw [writeEventCtl_set hv, ← takeCtl_log2 h]
    have henable := (takeCtl_enable v.toNat s.dev).trans h
    by_cases hf : (takeCtl v.toNat s.dev).RingFits
    · rw [startRing_fits henable hf]
      exact ⟨rfl, rfl, rfl, rfl, (if_pos hf).mpr ⟨rfl, rfl, rfl, rfl⟩, rfl, rfl⟩
    · rw [startRing_refused henable hf]
      exact ⟨rfl, rfl, rfl, rfl, (if_neg hf).mpr ⟨h, rfl, rfl, rfl⟩, rfl, rfl⟩
  · exact ⟨_, exec_eventRingEnable hv s, writeEventCtl_set_enabled hv h⟩
  · exact exec_registerWrite_eventBase_enabled v hden h ho
  · exact ⟨_, exec_registerWrite_eventCtl wide v hden, writeEventCtl_log2_enabled h _⟩
  · refine ⟨_, exec_eventRingDisable hv s, ?_⟩
    dsimp only
    rw [writeEventCtl_clear hv]
    exact ⟨rfl, rfl, rfl, rfl, rfl, rfl⟩

end Sys2Proof.Machine
end
